-- ==== Sys2Proof/Word.lean ====
section
/-!
DEFINITION. The word types of the C16 and their plainest arithmetic: bytes, 32-bit words, bit fields of a number,
and sparse tables keyed by a number. Multi-byte values are little-endian everywhere (R5).
-/

namespace Sys2Proof

/-- One byte. -/
abbrev Byte := BitVec 8

/-- One 32-bit word ("Bits, bytes and words"). -/
abbrev Word := BitVec 32

/-- One 64-bit double word. -/
abbrev DWord := BitVec 64

/-- A sparse table of units or entries: pairs of a key and a value, keys strictly rising. A key that is not listed holds
the default of its kind, which the reader of the table names (see `Machine/Ops.lean`). -/
abbrev Tbl (α : Type) := List (Nat × α)

/-- Bits `[hi:lo]` of a number, bit 0 least significant. -/
def bits (n hi lo : Nat) : Nat := n / 2 ^ lo % 2 ^ (hi + 1 - lo)

/-- Bit `[i]` of a number. -/
def bit (n i : Nat) : Bool := n / 2 ^ i % 2 == 1

/-- A Bool as a bit. -/
def b2n (b : Bool) : Nat := if b then 1 else 0

/-- The quotient rounded up, as the manual's `ceil_div`. -/
def ceilDiv (a b : Nat) : Nat := (a + b - 1) / b

/-- A count that saturates at the largest value of `w` bits (the manual's "saturating"). -/
def satAdd (w a b : Nat) : Nat := min (a + b) (2 ^ w - 1)

end Sys2Proof
end

