-- ==== Sys2Proof/Syntax.lean ====
section
/-!
DEFINITION. The commands of the block, one constructor per row of spec/opcode_table.json, and the data they carry: what
stands in host memory, what arrives on a link or a pin, and the values that the world outside the chip supplies.
-/

namespace Sys2Proof

/-! ### What a command may carry -/

/-- Host memory as a command finds it: bytes by address; an address that is not listed holds zero. -/
abbrev HostMem := List (Nat × Byte)

/-- Analogue errors of one conversion: array, physical column, deviation of the held charge in 1/256 unit (R24, R25).
A column that is not listed deviates by nothing. -/
abbrev Analog := List (Nat × Nat × Int)

/-- An activation block (R47, R48). `elems` holds the 128 elements in N8 form: sign in [7], magnitude in [6:0]. -/
structure Block where
  e8    : Nat
  n8    : Bool
  fb    : Bool
  sat   : Nat
  zero  : Nat
  elems : List Byte
  deriving DecidableEq, Repr, Inhabited

/-- A vector header (R54, R92), with the FIRST field that R77 and R85 give it. -/
structure VecHdr where
  eref   : Nat
  blocks : Nat
  part   : Bool
  first  : Nat
  handle : Nat
  pos    : Nat
  slot   : Nat
  last   : Bool
  budget : Nat
  deriving DecidableEq, Repr, Inhabited

/-- What a message carries after its vector header: blocks, or the 128 tallies of one slot (R84). -/
inductive Payload where
  | blocks (bs : List Block)
  | tally (lanes : List Int)
  deriving DecidableEq, Repr, Inhabited

/-- Virtual channels of the mesh (R115). -/
inductive Channel where
  | rein | kv | bulk
  deriving DecidableEq, Repr, Inhabited

/-- The operation and the operands of a stitch (R76, R77). -/
inductive StitchOp where
  | nop
  | pass (wkind widx h plane iblk wr arrays : Nat)
  | alt (altNext cond join wkind widx plane iblk : Nat)
  | tally (tslot wr vreg arrays : Nat)
  | skive (tslot mode fmt eSt satMax zeroMax oblk steprow : Nat)
  | send (src skind count path dest dbuf mcast part vreg first : Nat)
  | recv (rbuf kind base count nprod vreg ifmt : Nat)
  | wait (rbuf : Nat)
  | proof (pvec widx arrays : Nat)
  | kcmp (wr arrays : Nat)
  | inlay (tslot seg iblk vreg maxnz : Nat)
  | beatEnd
  deriving DecidableEq, Repr, Inhabited

/-- A stitch: its successor and its operation (R75). -/
structure Stitch where
  next : Nat
  op   : StitchOp
  deriving DecidableEq, Repr, Inhabited

/-- A burnisher descriptor (R131). -/
structure BurnDesc where
  op     : Nat
  rbufA  : Nat
  rbufB  : Nat
  ofmt   : Bool
  wb     : Bool
  group  : Nat
  addr   : Nat
  nblk   : Nat
  nprod  : Nat
  tbl    : Nat
  x8     : Nat
  k      : Nat
  param  : Nat
  deriving DecidableEq, Repr, Inhabited

/-- An attention descriptor (R139). -/
structure AttnDesc where
  op    : Nat
  rbufQ : Nat
  rbufX : Nat
  group : Nat
  layer : Nat
  nbl   : Nat
  dh    : Nat
  ofmt  : Bool
  g     : Nat
  nx    : Nat
  nexp  : Nat
  win   : Nat
  param : Nat
  deriving DecidableEq, Repr, Inhabited

/-- A member of a multicast group (R122). -/
structure Member where
  cluster : Nat
  port    : Nat
  rbuf    : Nat
  deriving DecidableEq, Repr, Inhabited

/-- An ingress entry (R251). -/
structure Ingress where
  port   : Nat
  dbuf   : Nat
  group  : Nat
  fv     : Bool
  fport  : Nat
  fdbuf  : Nat
  kind   : Nat
  xin    : Nat
  deriving DecidableEq, Repr, Inhabited

/-- A logit map entry (R203, R311). -/
structure LogitEnt where
  cluster : Nat
  rbuf    : Nat
  nblk    : Nat
  first   : Nat
  deriving DecidableEq, Repr, Inhabited

/-- One channel of an array's column map (R72): output channel, width, base column, tally slot offset and lane. -/
structure ColChan where
  chan : Nat
  width : Nat
  base : Nat
  off  : Nat
  lane : Nat
  deriving DecidableEq, Repr, Inhabited

/-- One tile's program: entry and draft-entry indexes (4,095 = none) and stitches 0 to COUNT − 1 (R310, R474). -/
structure TileProg where
  entry  : Nat
  dentry : Nat
  tab    : List Stitch
  deriving DecidableEq, Repr, Inhabited

/-- One array of a placement (R317): the array, its matrix, segment, first channel and channel count. -/
structure Placed where
  array   : Nat
  matrix  : Nat
  seg     : Nat
  firstCh : Nat
  nch     : Nat
  deriving DecidableEq, Repr, Inhabited

/-- What the tannery chooses freely at LOAD_COMMIT: the placement of the runs, and the parts of the table set it generates (R317, R477). The
manual fixes what they must obey, not which they are. `slots`: array, output block and tally slot offset of the column maps; `rows`: tile,
step table row, matrix and output block; `groups`: the groups it fills with receiving tiles. -/
structure Plan where
  placed : List Placed
  progs  : List (Nat × TileProg)
  slots  : List (Nat × Nat × Nat)
  rows   : List (Nat × Nat × Nat × Nat)
  groups : List (Nat × List Member)
  logit  : List LogitEnt
  dlogit : List LogitEnt
  deriving DecidableEq, Repr, Inhabited

/-- The outcome of programming rows (R318, R319): for an array, the physical columns that still differ after four
attempts. An array that is not listed programs cleanly. -/
abbrev Faulty := List (Nat × List Nat)

/-- The result of one column's calibration step (R390, R394): the column, and its OFFSET and GAIN trims. -/
structure Trim where
  array  : Nat
  column : Nat
  offset : Int
  gain   : Int
  deriving DecidableEq, Repr, Inhabited

/-- One pair of token ID and binary32 value (R205, R221). -/
abbrev TokVal := Nat × Nat

/-- A draft record (R255): handle, class S flag, and per drafted position the token and its pairs of ID and q. -/
structure DraftRec where
  handle : Nat
  classS : Bool
  toks   : List (Nat × List TokVal)
  deriving DecidableEq, Repr, Inhabited

/-- What a claim carries round the girth (R186, R218, R292, R342). -/
structure ClaimMsg where
  handle  : Nat
  tier    : Bool
  rslot   : Nat
  maxlen  : Nat
  draft   : Nat
  classS  : Bool
  embed   : Bool
  inlay   : Option Nat
  sel     : List Nat
  seed    : Nat
  hist    : Nat
  out     : Nat
  tag     : Nat
  plen    : Nat
  tokens  : Nat
  lateOk  : Bool
  deriving DecidableEq, Repr, Inhabited

/-- A verdict (R226, R197, R214): the request, accepted count and delivered tokens, whether they were late, whether the
step was braked, and the status that ends the request: 0 none, 6 DEADLINE_MISSED, 10 FAULT_ABORT. -/
structure VerdictMsg where
  handle : Nat
  a      : Nat
  toks   : List Nat
  late   : Bool
  brake  : Bool
  status : Nat
  deriving DecidableEq, Repr, Inhabited

/-- A member's report of the start round (R179, R249): the maxima of one stage, in ticks and cycles. -/
structure Figures where
  stage  : Nat
  w      : Nat
  ar     : Nat
  as     : Nat
  hopIn  : Nat
  hkPerm : Nat
  hkChunk : Nat
  deriving DecidableEq, Repr, Inhabited

/-- What CHECK brings back from one member (R266). -/
structure CheckReport where
  gpos   : Nat
  boot   : Nat
  state  : Nat
  intact : Bool
  deriving DecidableEq, Repr, Inhabited

/-- One girth entry of a hello (R245). -/
structure HelloEnt where
  ledger    : Nat
  gpos      : Nat
  state     : Nat
  beatSlots : Nat
  resPos    : Nat
  resCount  : Nat
  digest    : List Byte
  deriving DecidableEq, Repr, Inhabited

/-- A hello body (R245). -/
structure Hello where
  deviceId : Nat
  port     : Nat
  hseq     : Nat
  boot     : Nat
  echoSeq  : Nat
  echoV    : Bool
  hold     : Nat
  entries  : List HelloEnt
  deriving DecidableEq, Repr, Inhabited

/-- Flit classes (R238): 0 REIN, 1 TOKEN, 2 TALLY, 3 ACT, 4 KV, 5 MGMT, 6 IDLE. A Luawin flit as it arrives: its
header fields, and whether its TAG verifies. -/
structure Flit where
  cls    : Nat
  som    : Bool
  eom    : Bool
  seq    : Nat
  ack    : Nat
  av     : Bool
  nak    : Bool
  cclass : Nat
  ccount : Nat
  girth  : Nat
  epoch  : Nat
  len    : Nat
  tagOk  : Bool
  deriving DecidableEq, Repr, Inhabited

/-- A row-program attempt (R318): the array, the row, and the physical columns whose bit still differs after it. -/
structure Attempt where
  array : Nat
  row   : Nat
  diff  : List Nat
  deriving DecidableEq, Repr, Inhabited

/-- What the housekeeping converters and counters read in one round (R376–R378): per channel the two converters'
codes (the two conversions of a diode are codes at the low and at the high current), and per ring oscillator its count. -/
structure HkReading where
  codes0 : List (Nat × Nat)
  codes1 : List (Nat × Nat)
  low    : List (Nat × Nat)
  counts : List (Nat × Nat)
  deriving DecidableEq, Repr, Inhabited

/-- What boot verification finds in the PUF, the record store and the flash (R402–R410); of a firmware slot: 0 its header and
signature are good, 1 the signature fails, 3 the format does. -/
structure BootFound where
  idOk     : Bool
  pair0Ok  : Bool
  slotA    : Nat
  slotB    : Nat
  cfgSig   : Bool
  certOk   : Bool
  deriving DecidableEq, Repr, Inhabited

/-- A firmware image as PLDM delivers it (R408, R412): its version, security version, digest, and whether the
signature and format verify. -/
structure FwImage where
  version : Nat
  svn     : Nat
  digest  : List Byte
  sigOk   : Bool
  fmtOk   : Bool
  deriving DecidableEq, Repr, Inhabited

/-- Uncorrectable memory error sites (R367). -/
inductive UeSite where
  | slice | stack | recordStore | processor
  deriving DecidableEq, Repr, Inhabited

/-- Reference clocks (R430). -/
inductive RefClk where
  | tclk | cxl | link0 | link1
  deriving DecidableEq, Repr, Inhabited

/-- A fault inside a partition (R365, R375). -/
inductive PartFault where
  | tallyEref | hdrMismatch | bankRange | stitchParity | columnUncovered | fabric | kvGap | girthRestart
  deriving DecidableEq, Repr, Inhabited

/-- What a saddlebag block read back says of itself (R160, R163): HANDLE, PEPOCH and PART, and whether its tag is good. -/
structure BagRead where
  handle : Nat
  pepoch : Nat
  part   : Nat
  tagOk  : Bool
  deriving DecidableEq, Repr, Inhabited

/-- What a rein STOP carries (R256): a stop, or a member's answer that it and the devices below it are STOPPED (R298, log 37). -/
inductive StopKind where
  | girthStop | cancel (handle : Nat) | tenantEnd | stopped
  deriving DecidableEq, Repr, Inhabited

/-- A 64-byte peer mailbox message (R256): WARN state (R386), THERMAL_STOP (R387), or other words. -/
inductive PeerMsg where
  | warn (on : Bool)
  | thermalStop (drain : Bool)
  | words (ws : List Nat)
  deriving DecidableEq, Repr, Inhabited

/-- Detectors of a check disagreement (R358, R373). -/
inductive Detector where
  | keeper | bound | proof | xcheck | readback
  deriving DecidableEq, Repr, Inhabited

/-! ### The commands -/

/-- One constructor per row of the opcode table. `b` is a ring block (0–15 partition rings, 16 the management
ring), `h` host memory, `t` a tile as cluster · 64 + tile, `c` a cluster, `p` a partition or a port, `trusted` whether a BAR0
access arrives in the trusted stream (R418), `us` the SWAP_US that the start of a swap has brought on the rein tree (R333). -/
inductive Instr where
  -- command packets in flight of one ring block (R295)
  | submit (b : Nat) (h : HostMem)
  | cancel (b : Nat)
  | pause (b : Nat)
  | resume (b : Nat)
  | query (b : Nat)
  | drop (b : Nat)
  | loadShard (b : Nat) (h : HostMem)
  | loadCommit (b : Nat) (h : HostMem) (plan : Plan) (bad : Faulty) (flashOk : Bool)
  | swapBegin (b : Nat) (h : HostMem) (us : Option Nat)
  | swapLayer (b : Nat) (bad : Faulty)
  | swapEnd (b : Nat) (flashOk : Bool)
  | inlayLoad (b : Nat) (h : HostMem)
  | inlayDrop (b : Nat)
  | partitionSet (b : Nat) (h : HostMem)
  | girthSet (b : Nat) (h : HostMem)
  | girthStart (b : Nat)
  | girthStop (b : Nat)
  | tenantBegin (b : Nat)
  | tenantEnd (b : Nat)
  | eventRead (b : Nat)
  | statusRead (b : Nat)
  | tableLoad (b : Nat) (h : HostMem)
  | promiseModelSet (b : Nat)
  | calibrate (b : Nat) (trims : List Trim)
  | proofRun (b : Nat) (err : Analog)
  | xcheckRun (b : Nat) (err : Analog)
  | housekeepSet (b : Nat)
  | arrayReadback (b : Nat)
  | logitBiasSet (b : Nat) (h : HostMem)
  | powerCapSet (b : Nat)
  | repairMapEdit (b : Nat) (bad : Faulty)
  | weightsClear (b : Nat) (residue : List (Nat × Nat)) (flashOk : Bool)
  | unsupportedOpcode (b : Nat)
  -- rings, doorbells, registers, mailboxes
  | commandFetch (b : Nat) (h : HostMem) (err : Bool)
  | cqWrite (b : Nat)
  | tokenRecordPost (p : Nat)
  | msixRaise (v : Nat)
  | sqDb (b : Nat) (value : Nat) (trusted : Bool)
  | cqDb (b : Nat) (value : Nat) (trusted : Bool)
  | tqDb (b : Nat) (value : Nat) (trusted : Bool)
  | ringEnable (b : Nat) (trusted : Bool)
  | ringDisable (b : Nat) (trusted : Bool)
  | registerWrite (offset size value : Nat) (trusted : Bool)
  | rcRead (offset : Nat) (trusted : Bool)
  | accessErr (offset size : Nat) (write : Bool) (trusted : Bool)
  | mbxSend (m : Nat) (trusted : Bool)
  | mbxWithdraw (m : Nat) (trusted : Bool)
  | mbxTake (m : Nat) (trusted : Bool)
  | mbxCommandTake (m : Nat) (h : HostMem)
  | mbxTimeout (m : Nat)
  | onDieMbxWrite (c : Nat) (toSaddler : Bool) (words : List Nat)
  | lwRetrain (p : Nat) (trusted : Bool)
  | lwEnable (p : Nat) (on : Bool) (trusted : Bool)
  | dormantRequest (trusted : Bool)
  | periodWrite (value : Nat) (trusted : Bool)
  | injectKeep (array column : Nat) (trusted : Bool)
  | injectProof (array column : Nat) (trusted : Bool)
  | injectCe (array column : Nat) (trusted : Bool)
  -- the tile
  | nop (t : Nat)
  | pass (t : Nat)
  | passCodesReady (t : Nat) (tracing : Bool) (err : Analog)
  | alt (t : Nat)
  | tally (t : Nat)
  | skive (t : Nat)
  | send (t : Nat)
  | recv (t : Nat)
  | wait (t : Nat)
  | proof (t : Nat) (err : Analog)
  | kcmp (t : Nat)
  | inlay (t : Nat)
  | inlayEngineCommit (c : Nat)
  | beatEnd (t : Nat)
  -- fabric, slices, burnisher, attention engine
  | fabricFlitArrive (n : Nat) (ue : Option Channel)
  | fabStall (t : Nat)
  | sliceRefresh (c bank : Nat)
  | add (c : Nat)
  | rmsnorm (c : Nat)
  | lnorm (c : Nat)
  | act (c : Nat)
  | gate (c : Nat)
  | rope (c : Nat)
  | scale (c : Nat)
  | route (c : Nat)
  | store (c : Nat)
  | attn (c : Nat)
  | stload (c : Nat)
  | ststore (c : Nat)
  | dispatch (c : Nat)
  | combine (c : Nat)
  -- beats, selection, drafting
  | beatIssue (p : Nat) (emb : List (List Block))
  | beatStart (p : Nat)
  | beatOut (p slot : Nat)
  | ingressMessage (port girth dbuf epoch : Nat) (hdr : VecHdr) (body : Payload)
  | readyMark (port girth epoch : Nat)
  | draftRecord (port girth epoch : Nat) (rec : DraftRec)
  | awlGather (c p : Nat)
  | awlSelect (p : Nat)
  | verdict (p epoch : Nat) (v : VerdictMsg)
  | draftRound (p handle : Nat) (vec : List Block)
  -- rein messages and the girth
  | commit (p handle newL epoch : Nat) (toks : List Nat)
  | claim (p : Nat) (m : ClaimMsg)
  | claimReturn (p handle : Nat)
  | refuse (p handle : Nat)
  | release (p handle : Nat) (undo : Bool)
  | stop (p : Nat) (up : Bool) (k : StopKind)
  | restart (p gpos epoch : Nat) (chipReset : Bool)
  | peerDown (p gpos : Nat)
  | linkUp (p gpos : Nat)
  | flush (p : Nat)
  | check (p : Nat) (reports : List CheckReport) (commits : List (Nat × Nat × List Nat)) (ended : List Nat)
  | releaseHalt (p epoch : Nat)
  | grant (p port dbuf epoch : Nat)
  | peerMbx (gpos dst p : Nat) (m : PeerMsg)
  | mbxNak (p : Nat) (m : PeerMsg)
  | thermalStop (p gpos : Nat) (drain : Bool)
  | thermalDrainTimeout (p : Nat)
  | girthGo (p tGap : Nat)
  | startRoundTimeout (p : Nat)
  | beatReturnTimeout (p : Nat)
  | halterTimeout (p : Nat)
  | holdDeadline (p handle : Nat)
  | ttlExpiry (p handle : Nat)
  | pauseMigrate (p handle : Nat) (writeFails : Bool)
  | saddlebagWriteDone (p handle : Nat) (failed : List Nat)
  | resumeRead (p handle : Nat) (blocks : List (Option BagRead))
  | readmit (p handle : Nat)
  -- Luawin ports
  | lwTrainingDone (p : Nat) (result : Option Nat) (peerKeyId : Nat)
  | linkKeyUpdate (p : Nat) (tx : Bool)
  | helloSend (p : Nat)
  | helloReceive (p : Nat) (hello : Hello) (rtt : Nat)
  | flitReceive (p : Nat) (f : Flit)
  | nakReceive (p ack : Nat)
  | lossOfSignal (p lane : Nat)
  | ackTimeout (p : Nat)
  | linkDown (p : Nat)
  -- checking and faults
  | disputeRepetition (t : Nat) (err : Analog)
  | settlement (t : Nat)
  | partitionRestart (p : Nat) (f : PartFault) (bad : Faulty)
  | patchDone (array column : Nat) (bad : Faulty)
  | keeperRotation (array k : Nat)
  | crossCheck (array seed : Nat) (err : Analog)
  | periodicReadback (array : Nat) (drift : List (Nat × Nat)) (bad : Faulty)
  | rowProgramAttempt (a : Attempt)
  | memUe (site : UeSite) (loc : Nat)
  | memCe (loc syndrome : Nat)
  | chipReset (cause loc : Nat) (found : BootFound)
  | watchdog (found : BootFound)
  -- housekeeping, temperature, calibration
  | hkChunkStart (c : Nat)
  | hkOverdue (array activity : Nat)
  | hkRound (r : HkReading)
  | calStep (trim : Trim)
  | thermtrip
  -- power, clocks, reset
  | aclkChange (mhz : Nat)
  | brakeOn
  | brakeToggle
  | brakeOff
  | brakeBeyond
  | brakeHeld
  | refclkLost (k : RefClk)
  | tclkRecovered (found : BootFound)
  | railBrownout
  | restEntry
  | restExit
  | dormantWake
  | tileGate (t : Nat)
  | tileWake (t : Nat)
  | powerOnReset (found : BootFound)
  | warmReset (perst : Bool) (found : BootFound)
  | functionLevelReset
  | mainRailsValid (found : BootFound)
  | cxlTrain (width gts : Nat)
  | rebuild (drift : List (Nat × Nat × Nat)) (recordOk : Bool) (plan : List (Nat × Plan))
  | startupReady
  -- tenancy and attestation
  | scrubComplete
  | fillComplete
  | stopInterface
  | tdispError (cause : Nat)
  | ideKm (stream : Nat)
  | getVersion
  | getCapabilities
  | negotiateAlgorithms (algs : List Nat)
  | getDigests (slot : Nat)
  | getCertificate (slot offset length : Nat)
  | challenge (nonce : Nat)
  | getMeasurements (index : Nat) (signed : Bool)
  | keyExchange (exchange : Nat)
  | finish (verifyOk : Bool)
  | keyUpdate (both : Bool)
  | heartbeat
  | endSession
  | firmwareUpdate (img : FwImage)
  | getEventRecords
  | clearEventRecords
  | cperRead (count : Nat)
  | mctpStatus
  | trngFail (test : Nat)
  | startRoundFigures (p : Nat) (step : Nat) (stages : List Figures) (slots resPos resCount : Nat) (hret : Nat) (ok : Bool) (gpos : Nat)
      (boots : List (Nat × Nat))
  | knownSumsComputed (array : Nat) (wrong : List (Nat × Int))
  | powerRemoved
  | tdiRun
  | refclkRestored (k : RefClk)
  | trngHealthPass
  | beyondClear
  | stagingWindowAccess (line : Nat) (write : Option (List Byte))
  | jtagInstruction (ir : Nat)
  deriving DecidableEq, Repr

end Sys2Proof
end

