-- ==== Sys2Proof/Decode.lean ====
section
/-!
DEFINITION. Reading words. The opcode table gives no row any bits, so no word spells a command: the commands of this block
are events, not encodings.
-/

namespace Sys2Proof

/-- The command that a word spells by the table's bits: the table gives no row bits, so none. -/
def decodeTableWord (_nbits _w : Nat) : Option Instr := none

end Sys2Proof
end

