-- ==== Sys2Proof/Config.lean ====
section
/-!
DEFINITION. What one C16 fixes and the manual leaves open: constants of the part, and the free values (guide, "What the
manual leaves undefined"). Every constant here is opaque: nothing can prove a value of it. Assumption log 3 lists them.
-/

namespace Sys2Proof.Config

/-- FREE VALUE: the n-th value that the manual leaves open, as a number; `State.free` counts them (log 3). -/
opaque freeNat : Nat → Nat

/-- FREE VALUE: the byte that a never-written KV or staging byte reads as (R147, R273; log 3). -/
opaque unwrittenByte : Nat → BitVec 8

/-- The public identity key in SEC1 uncompressed form, 133 bytes (R402, R403): derived from the PUF of one part. -/
opaque publicKey : List (BitVec 8)

/-- DEV_REV.STEP, the silicon stepping of one part ("Host interface", DEV_REV). -/
opaque stepping : BitVec 8

/-- The digest of the boot ROM, measurement block 1 (R414). -/
opaque bootRomDigest : List (BitVec 8)

/-- The digest of the 4 KiB configuration block as applied, measurement block 4 (R410, R414): of its fields CONF, LOCK, JTAG, UNLOCK and
TARGET_ID, and of the bytes that the model does not hold. -/
opaque configDigest : (conf lock jtag unlock : Bool) → (target : Nat) → List (BitVec 8)

/-- The slot 0 certificate chain: Korinrek root, product intermediate, device certificate (R413). -/
opaque certChain : List (BitVec 8)

/-- The 64-bit tag and signature functions of the part's cryptography (R238, R404): a digest-sized answer for a
purpose number and a message; the manual names the algorithms, and no claim here looks inside them (log 11). -/
opaque signature : List (BitVec 8) → List (BitVec 8)

/-- A channel's compensation: the temperature in 1/16 °C that sensor `s` reads for a count or code difference `n`
with rail reading `mv` (R377, R383). The compensation tables are the part's own. -/
opaque compensate : (s n mv : Nat) → Int

/-- Whether a scaled housekeeping VALUE is rounded up (R376, R377 give the span and the unit, not the rounding). -/
opaque hkRoundUp : (channel code : Nat) → Bool

/-- Whether a round trip in flit times of 1.25 ns is rounded up to whole nanoseconds in LW_RTT (R247 does not say). -/
opaque rttRoundUp : Nat → Bool

/-- FREE VALUE: the bytes of an EMBED request's pooled vector as the pommel of partition `p` knows them (R296 states the check
against OUT_BYTES, and no rule how the pommel learns the size; log 33). -/
opaque pooledBytes : (p : Nat) → Nat

/-- The encrypted payload of a saddlebag block: AES-256-GCM under the tenant keys of a generation, over header bytes 0–43 and the payload
(R160, R421). The model computes no cipher. -/
opaque bagCipher : (keys : Nat) → (header payload : List (BitVec 8)) → List (BitVec 8)

/-- Its 128-bit tag (R160, R421). -/
opaque bagTag : (keys : Nat) → (header payload : List (BitVec 8)) → List (BitVec 8)

/-- FREE VALUE: the bytes of a verdict message's body, which R240 does not lay out (R257; log 38). -/
opaque verdictBytes : Nat

end Sys2Proof.Config
end

