-- ==== Sys2Proof/Machine/State.lean ====
section
/-!
DEFINITION. The state of one C16 as plain data: every register, buffer, queue, memory, mode and pin the manual gives the
device, and the queue of commands that wait. After each field: what it is | the rule and the file of spec/ that name it
| its value after a power-on reset ("DC n" = DESIGN CHOICE, log entry n, where the manual gives none).
-/

namespace Sys2Proof.Machine

/-- Why the machine stops with a fault. No effect that the manual describes ends so: a fault of the device itself is a next state, which
restarts a partition or resets the chip (R365–R368). -/
inductive Fault where
  /-- A command names a unit that no C16 has (a tile above 1,023, a cluster above 15, a port above 7); raised by a meaning whose operand
  is such a number, through `guardUnit`. Safe: the hardware has no such unit, so no run of it is cut short. -/
  | noSuchUnit
  deriving DecidableEq, Repr

/-- Why a command is refused by the model. -/
inductive Refusal where
  /-- A command whose meaning is not written yet; raised by `exec`'s refused arms alone. Safe: the model stops. -/
  | notModelled (mnemonic : String)
  /-- An access to the debug and trace region, or a JTAG instruction of the part's own, outside confidential mode: the manual defines both
  only in their closed state (R275, R428, R470); raised by REGISTER_WRITE and JTAG_INSTRUCTION. Safe: the model stops where a debug unit acts. -/
  | debugUnit
  deriving DecidableEq, Repr

/-! ### Host interface -/

/-- Where a command packet came from: a ring block (16 = management) or a host-to-firmware mailbox 0–3 (R284, R304). -/
inductive CmdSrc where
  | ring (blk : Nat)
  | mbx (m : Nat)
  deriving DecidableEq, Repr

/-- A command packet fetched and not yet replied (R280, R285). -/
structure Fetched where
  src     : CmdSrc      -- where it came from | R284 (09) | none fetched
  words   : List Nat    -- its 16 words | R283 (09) | none fetched
  running : Bool        -- carried out and waiting for its reply | R285 (09) | none fetched
  stalled : Bool := false -- started, and waiting within its own effect | R285 (09) | none fetched
  todo    : Option (List Nat) := none -- arrays that a started CALIBRATE, PROOF_RUN or XCHECK_RUN has still to take | R300 (09) | none fetched
  done    : Nat := 0    -- arrays it has done | R300 (09) | none fetched
  found   : Nat := 0    -- arrays on which it found disagreements | R300 (09) | none fetched
  lost    : Bool        -- a chip reset began before its reply (R368) | R368 (11) | none fetched
  deriving DecidableEq, Repr

/-- A completion-ring entry before its phase bit (R287): the eight words with PH = 0. -/
abbrev CqEntry := List Nat

/-- A token record waiting for the TQ (R291), with the history entry to write first (R292). -/
structure TokRec where
  words    : List Nat       -- the four words with PH = 0 | R291 (09) | none waiting
  histAddr : Nat            -- address of the history entry, or of OUT_ADDR for EMB | R292 (09) | none waiting
  histData : List Byte      -- bytes written there first | R292 (09) | none waiting
  handle   : Nat            -- request | R291 (09) | none waiting
  first    : Bool           -- first record of its step | R197 (06) | none waiting
  verdict  : Option VerdictMsg -- last record of its step: the verdict to send when it is posted | R226 (07) | none waiting
  deriving DecidableEq, Repr

/-- One ring block (R278). -/
structure Ring where
  sqBase     : Nat := 0     -- SQ_BASE address, 64 bits, [11:0] zero | R278 (09) | 0
  cqBase     : Nat := 0     -- CQ_BASE address, 64 bits, [11:0] zero | R278 (09) | 0
  tqBase     : Nat := 0     -- TQ_BASE address, 64 bits, [11:0] zero | R278 (09) | 0
  sqLog2     : Nat := 4     -- RING_SIZE.SQ_LOG2, 5 bits | R278 (09) | 4
  cqLog2     : Nat := 4     -- RING_SIZE.CQ_LOG2, 5 bits | R278 (09) | 4
  tqLog2     : Nat := 4     -- RING_SIZE.TQ_LOG2, 5 bits | R278 (09) | 4
  en         : Bool := false -- RING_CTRL.EN | R278 (09) | 0
  sqHead     : Nat := 0     -- RING_STAT.SQ_HEAD, 16 bits | R277 (09) | 0
  sqTail     : Nat := 0     -- host's SQ tail as recorded, 16 bits | R277, R281 (09) | 0
  cqHead     : Nat := 0     -- host's CQ head as recorded, 16 bits | R277, R281 (09) | 0
  cqTail     : Nat := 0     -- device's CQ tail, 16 bits | R277 (09) | 0
  tqHead     : Nat := 0     -- host's TQ head as recorded, 16 bits | R277, R281 (09) | 0
  tqTail     : Nat := 0     -- device's TQ tail, 16 bits | R277 (09) | 0
  cqPhase    : Bool := true -- CQ write phase PH | R279, R280 (09) | 1 (set at enable)
  tqPhase    : Bool := true -- TQ write phase PH | R279, R280 (09) | 1 (set at enable)
  dbRange    : Bool := false -- RING_ERR.DB_RANGE | R281 (09) | 0
  badCfg     : Bool := false -- RING_ERR.BAD_CFG | R279 (09) | 0
  fetchErr   : Bool := false -- RING_ERR.FETCH | R278 (09) | 0
  enBusy     : Bool := false -- RING_ERR.EN_BUSY | R279 (09) | 0
  nopart     : Bool := false -- RING_ERR.NOPART | R279 (09) | 0
  holdUs     : Nat := 0     -- IRQ_HOLD.HOLD_US, 10 bits | R282 (09) | 0
  noticeLost : Nat := 0     -- NOTICE_LOST.COUNT, 32 bits saturating, RC | R290 (09) | 0
  cqWait     : List CqEntry := [] -- replies and notices waiting for the CQ, in order | R290 (09) | empty
  tqWait     : List TokRec := [] -- token records waiting for the TQ, at most 1,024 | R291 (09) | empty
  cqRaised   : Option Nat := none -- tick of the last raise of the CQ vector | R282 (09) | none
  tqRaised   : Option Nat := none -- tick of the last raise of the TQ vector | R282 (09) | none
  cqNew      : Bool := false -- CQ entries written since the last raise | R282 (09) | 0
  tqNew      : Bool := false -- TQ entries written since the last raise | R282 (09) | 0
  deriving DecidableEq, Repr

/-- A mailbox of the mailbox region, either direction (R301): 0–3 MBX_S0, S1, N0, N1; 4–7 their mirrors. -/
structure Mbx where
  staging : List Nat := []          -- MBX_DATA0–15 staging words, 16 × 32 bits, missing words zero | R301 (09) | 0
  held    : Option (List Nat) := none -- the held message; MBX_STAT.FULL | R301, R302 (09) | none (FULL 0)
  since   : Nat := 0                -- tick at which FULL was set | R302 (09) | 0
  reject  : Bool := false           -- MBX_STAT.REJECT | R302 (09) | 0
  timeout : Bool := false           -- MBX_STAT.TIMEOUT | R302 (09) | 0
  tmoDone : Bool := false           -- the timeout of the held message has been raised | R302 (09) | 0
  taken   : Bool := false           -- a message has been taken from a mirror since reset | R301 (09) | 0
  deriving DecidableEq, Repr

/-- ACC_LOG (R276). -/
structure AccLog where
  offset : Nat := 0      -- OFFSET, 25 bits | R276 (09) | 0
  size   : Nat := 0      -- SIZE, log2 of the width in bytes, 3 bits | R276 (09) | 0
  wr     : Bool := false -- WR | R276 (09) | 0
  cause  : Nat := 0      -- CAUSE, 2 bits | R276 (09) | 0
  v      : Bool := false -- V | R276 (09) | 0
  deriving DecidableEq, Repr

/-- The registers of the identity region, the rings and the mailboxes. -/
structure HostIf where
  devId    : Nat := 0     -- DEV_ID.DEVICE_ID, 64 bits, fw | R403 (13) | 0 before start-up sets it, DC 7
  step     : Nat := 0     -- DEV_REV.STEP, 8 bits, fw | DEV_REV (09) | 0 before start-up sets it, DC 7
  fwVer    : Nat := 0     -- FW_VER [23:0], fw | FW_VER (09) | 0 before start-up sets it, DC 7
  conf     : Bool := true -- MODE.CONF, fw | R410 (13) | 1 before start-up sets it (an erased block gives CONF = 1), DC 7
  loaded   : Bool := false -- MODE.LOADED, kept | R330 (10) | 0
  linkW    : Nat := 0     -- MODE.LINK_W, 4 bits | MODE (09) | 0
  linkGts  : Nat := 0     -- MODE.LINK_GTS, 8 bits | MODE (09) | 0
  boot     : Nat := 0     -- BOOT, 32 bits, fw | R245 (08) | 0 before start-up sets it, DC 7
  acc      : AccLog := {} -- ACC_LOG, 64 bits | R276 (09) | 0
  accCnt   : Nat := 0     -- ACC_CNT.COUNT, 32 bits saturating, RC | R276 (09) | 0
  rings    : Tbl Ring := []  -- the 17 ring blocks by number | R278 (09) | all at their reset values
  fetched  : List Fetched := [] -- commands fetched and not yet replied, in fetch order | R280, R285 (09) | empty
  mbx      : Tbl Mbx := []   -- the eight mailboxes | R301 (09) | all at their reset values
  tmoMs    : Nat := 10       -- MBX_TMO.TMO_MS, 16 bits | R301 (09) | 10
  onDie    : Tbl (List Nat) := [] -- on-die mailboxes, 2·c from supervisor c to the saddler core, 2·c+1 back; listed = full | R101, R102 (04) | empty
  peerBox  : Option (Nat × List Nat) := none -- peer mailbox: sender's GPOS and 64-byte message not yet taken | R256 (08) | empty
  vecRaised : List Nat := [] -- MSI-X vectors raised and not yet sent | R282 (09) | none
  teeTick  : Option Nat := none -- tick of the last TEE_REFUSED | R418 (13) | none
  deriving DecidableEq, Repr

/-! ### Events and errors -/

/-- An event record (R293). LKIND 0 nothing, 1 array, 2 on-die address, 3 unit. -/
structure Event where
  code   : Nat         -- CODE, 16 bits | R293 (09) | none logged
  sev    : Nat         -- SEV, 2 bits | R293 (09) | none logged
  part   : Option Nat  -- PART with PV | R293 (09) | none logged
  lkind  : Nat         -- LKIND, 2 bits | R293 (09) | none logged
  handle : Nat         -- HANDLE, 32 bits | R293 (09) | none logged
  tick   : Nat         -- TICK, 64 bits | R293 (09) | none logged
  loc    : Nat         -- LOC, 64 bits | R293 (09) | none logged
  detail : Nat         -- DETAIL, 64 bits | R293 (09) | none logged
  deriving DecidableEq, Repr

/-- A failure signature (R373), as its 80 bytes. -/
abbrev Signature := List Byte

/-- The events and errors region, the logs and the error queue. -/
structure EvRegs where
  log       : List Event := []    -- event log, at most 1,024 records, oldest first; EV_LEVEL.HELD | R293 (09) | empty
  dropped   : Nat := 0            -- records dropped since the last EVENT_READ | R293, R298 (09) | 0
  fresh     : List (Nat × Nat) := [] -- RW1C bits that events have set in the present tick: register offset, bit | R10 (00) | none
  errSum    : Nat := 0            -- ERR_SUM bits [8:0], RW1C; [4] CHIP kept | R375 (11) | 0
  cause     : Nat := 0            -- RESET_CAUSE.CAUSE, 4 bits, kept | RESET_CAUSE (11) | 0
  halted    : Bool := false       -- RESET_CAUSE.HALTED, kept | R370 (11) | 0
  chips     : Nat := 0            -- CHIP_RESETS.COUNT, 32 bits saturating, kept | CHIP_RESETS (11) | 0
  loc       : Nat := 0            -- RESET_LOC.ADDR, 64 bits, kept | R368 (11) | 0
  disputes  : Nat := 0            -- CHK_CNT0 DISPUTES, 32 bits saturating | CHK_CNT (11) | 0
  transient : Nat := 0            -- CHK_CNT1 TRANSIENT, 32 bits saturating | CHK_CNT (11) | 0
  settled   : Nat := 0            -- CHK_CNT2 SETTLED, 32 bits saturating | CHK_CNT (11) | 0
  proofs    : Nat := 0            -- CHK_CNT3 PROOFS, 32 bits saturating | CHK_CNT (11) | 0
  xchecks   : Nat := 0            -- CHK_CNT4 XCHECKS, 32 bits saturating | CHK_CNT (11) | 0
  ce        : Nat := 0            -- CHK_CNT5 CE, 32 bits saturating | CHK_CNT (11) | 0
  injArray  : Nat := 0            -- CHK_INJECT.ARRAY, 16 bits, RWL | CHK_INJECT (11) | 0
  injColumn : Nat := 0            -- CHK_INJECT.COLUMN, 8 bits, RWL | CHK_INJECT (11) | 0
  injKeep   : Option (Nat × Nat) := none -- armed KEEP injection: array, column | CHK_INJECT (11) | none
  injProof  : Option (Nat × Nat) := none -- armed PROOF injection: array, column | CHK_INJECT (11) | none
  injCe     : Option Nat := none  -- armed CE injection: array | CHK_INJECT (11) | none
  sigs      : List Signature := [] -- failure log, the latest 256 signatures, oldest first | R374 (11) | empty
  cperNext  : Nat := 0            -- CPER records already returned by the MCTP command | R374 (11) | 0
  errQ      : List Nat := []      -- the saddler core's error queue: severities, at most 16 | R371 (11) | empty
  errDrops  : Nat := 0            -- error queue entries dropped, ERRQ_DROP's DETAIL | R371 (11) | 0
  resetTicks : List Nat := []     -- ticks of the latest chip resets, at most 4 | R370 (11) | none
  resetDue  : Option (Nat × Nat) := none -- chip reset due: cause, location | R367, R371 (11) | none
  xcheckNo  : Nat := 0            -- cross-checks drawn, counter c0 | R355 (11) | 0
  deriving DecidableEq, Repr

/-! ### Requests -/

/-- Request states (R167). -/
inductive ReqState where
  | free | admitted | prefill | decode | paused | resuming | done | failed
  deriving DecidableEq, Repr, Inhabited

/-- PEND (R167). -/
inductive Pend where
  | none | pause | cancel
  deriving DecidableEq, Repr, Inhabited

/-- A ledger entry (R167), at index handle [19:0] of the ledger share (R105). -/
structure Entry where
  st      : ReqState := .free -- STATE, 4 bits | R167 (06) | FREE (the fill writes zero, R423)
  part    : Nat := 0      -- PART, 4 bits | R167 (06) | 0
  classS  : Bool := false -- CLASS | R167 (06) | 0
  streamed : Bool := false -- TIER | R167 (06) | 0
  lateOk  : Bool := false -- LATE_OK | R167 (06) | 0
  be      : Bool := false -- BE | R167 (06) | 0
  embed   : Bool := false -- EMBED | R167 (06) | 0
  pend    : Pend := .none -- PEND | R167 (06) | 0
  halt    : Bool := false -- HALT | R167 (06) | 0
  gen     : Nat := 0      -- GEN, 12 bits | R167 (06) | 0
  draft   : Nat := 0      -- DRAFT, 4 bits | R167 (06) | 0
  l       : Nat := 0      -- L, 24 bits | R167 (06) | 0
  maxlen  : Nat := 0      -- MAXLEN, 24 bits | R167 (06) | 0
  rslot   : Nat := 0      -- RSLOT, 8 bits | R167 (06) | 0
  plen    : Nat := 0      -- PLEN, 24 bits | R167 (06) | 0
  row     : Nat := 0      -- ROW, 8 bits | R167 (06) | 0
  ttft    : Nat := 0      -- TTFT, 32 bits, µs | R167 (06) | 0
  tpt     : Nat := 0      -- TPT, 32 bits, µs | R167 (06) | 0
  tRef    : Nat := 0      -- T_REF, 64 bits, ticks | R167 (06) | 0
  tokens  : Nat := 0      -- TOKENS, 24 bits | R167 (06) | 0
  slot    : Nat := 0      -- SLOT, 6 bits | R167 (06) | 0
  budget  : Nat := 0      -- BUDGET, 32 bits | R167, R175 (06) | 0
  tIn     : Nat := 0      -- T_IN, 32 bits | R167 (06) | 0
  tag     : Nat := 0      -- TAG, 16 bits | R167 (06) | 0
  seed    : Nat := 0      -- SEED, 64 bits | R167 (06) | 0
  status  : Nat := 0      -- STATUS, 8 bits | R167 (06) | 0
  void    : Nat := 0      -- VOID, 8 bits | R167 (06) | 0
  restarts : Nat := 0     -- RESTARTS, 16 bits saturating | R167 (06) | 0
  prio    : Nat := 0      -- PRIO, 8 bits | R167 (06) | 0
  kbase   : Nat := 0      -- KBASE, 24 bits | R167 (06) | 0
  deriving DecidableEq, Repr

/-- A ledger extension (R169) with the selection parameters of R218, and the request data the manual places beside it. -/
structure Ext where
  spans    : Tbl Nat := []  -- SPAN_BASE[c] where SPAN_V[c] = 1, 24 bits each | R169 (06) | none
  pool     : Nat := 0       -- POOL, 64 bits | R169 (06) | 0
  nblk     : Nat := 0       -- NBLK, 32 bits | R169 (06) | 0
  pepoch   : Nat := 0       -- PEPOCH, 16 bits | R169 (06) | 0
  inlay    : Option Nat := none -- INLAY with INLAY_V | R169 (06) | none
  late     : Nat := 0       -- LATE, 32 bits saturating | R169 (06) | 0
  drafted  : Nat := 0       -- DRAFTED, 32 bits saturating | R169 (06) | 0
  accepted : Nat := 0       -- ACCEPTED, 32 bits saturating | R169 (06) | 0
  sel      : List Nat := [] -- words 24–39, selection parameters | R218 (07) | zero
  ld       : Nat := 0       -- LD, draft length pointer, 24 bits | R218, R220 (07) | 0
  hist     : Nat := 0       -- HIST_ADDR, 64 bits | R292, R296 (09) | 0
  out      : Nat := 0       -- OUT_ADDR, 64 bits | R292, R296 (09) | 0
  outBytes : Nat := 0       -- OUT_BYTES, 32 bits | R296 (09) | 0
  ttlMs    : Nat := 0       -- time to live of the pause, ms, 32 bits | R162 (05) | 0
  lptr     : Nat := 0       -- LPTR of the request's saddlebag blocks | R160 (05) | 0
  poolData : Bool := false  -- saddlebag blocks of this pause are complete and readable | R160, R161 (05) | 0
  migrating : Bool := false -- a migration is running | R161 (05) | 0
  migWait  : Bool := false  -- its migration has not begun: a more urgent activity runs | R161, R194 (05, 06) | 0
  saved    : List Host.Cell := [] -- KV bytes on their way through pooled memory: cluster · 2^40 + span offset | R159, R160 (05) | none
  subPart  : Nat := 0       -- partition ring that received the SUBMIT | R288 (09) | 0
  admTick  : Nat := 0       -- tick at which the request's present promise was made: acceptance, resume or re-admission | R333, R446 (10, 14) | 0
  inFlight : Bool := false  -- a step of the request awaits its commit | R148, R228 (05, 07) | 0
  stepPos  : Nat := 0       -- positions that the step in flight writes | R148 (05) | 0
  missed   : Bool := false  -- MISSED of the step in flight at this device | R178 (06) | 0
  drafts   : List (Nat × List TokVal) := [] -- drafted tokens and their q lists: the draft record | R221, R255 (07, 08) | none
  draftAt  : Option Nat := none -- position of the draft run whose logits the pommel's drafting awaits | R220, R221 (07) | none
  drafted1 : Bool := false  -- the pommel's drafting for the next step is done | R181, R221 (06, 07) | 0
  claimed  : Bool := false  -- at a member, spans were allocated by the claim of a resume and its read is not done | R163, R186 (05, 06) | 0
  carried  : Option ClaimMsg := none -- what the request's claim carried, kept at every member and at the pommel | R170, R186, R218, R292 (06, 07, 09) | none
  noPost   : Bool := false  -- CANCEL has reached the cantle: no record of the step in flight is posted | R199 (06) | 0
  late1    : Bool := false  -- the step in progress is delivered late | R197 (06) | 0
  got      : List Nat := [] -- tokens that the cantle delivered in the step awaiting its commit | R210 (07) | none
  decided  : List Nat := [] -- drafted tokens accepted so far in the step in progress at the cantle | R224, R225 (07) | none
  selDone  : Bool := false -- the awl has decided the step in progress | R224–R226, R228 (07) | 0
  seen     : Nat := 0       -- slots of the step in progress that the cantle's select stage has taken | R206, R228 (07) | 0
  nextStep : Option (Nat × Nat × Nat) := none -- a step that started here before the commit of the one before: positions, budget, T_IN | R148, R228 (05, 07) | none
  rideTurn : Option Nat := none -- turn of the wheel of the last best-effort prefill ride | R189 (06) | none
  deriving DecidableEq, Repr

/-- One entry of a request's wear list (R209): token and count. -/
abbrev Wear := List (Nat × Nat)

/-! ### Table sets, weights and partitions -/

/-- The table set in force on a partition (R97, R107, R139, R203, R251, R312). -/
structure TableSet where
  generated  : Bool := true   -- built at LOAD_COMMIT, not loaded with TABLE_LOAD | R97, R330 (03, 10) | no table set
  beatSlots  : Nat := 1       -- BEAT_SLOTS | R312 (10) | no table set
  gate       : Bool := false  -- GATE | R312 (10) | no table set
  dmax       : Nat := 0       -- DMAX | R312 (10) | no table set
  fbLevel    : Nat := 256     -- fallback level | R71 (02) | no table set
  stallLimit : Nat := 0       -- STALL_LIMIT in ACLK cycles | R127 (04) | no table set
  resPos     : Nat := 4096    -- RES_POS | R145 (05) | no table set
  resCount   : Nat := 0       -- RES_COUNT | R145 (05) | no table set
  vocab      : Nat := 0       -- VOCAB | R203 (07) | no table set
  head       : Nat := 0       -- HEAD | R312 (10) | no table set
  dhead      : Nat := 0xFFFF  -- DHEAD | R312 (10) | no table set
  groups     : Tbl (List Member) := [] -- multicast groups | R122 (04) | no table set
  burn       : Tbl (List BurnDesc) := [] -- burnisher descriptors by cluster | R131 (04) | no table set
  attn       : Tbl (List AttnDesc) := [] -- attention descriptors by cluster | R139 (05) | no table set
  ingress    : List Ingress := [] -- ingress map | R251 (08) | no table set
  actTbl     : Tbl (List (Nat × Nat)) := [] -- activation tables 3–7 | R135 (04) | no table set
  logit      : List LogitEnt := [] -- logit map | R203 (07) | no table set
  dlogit     : List LogitEnt := [] -- draft logit map | R219 (07) | no table set
  progs      : Tbl TileProg := [] -- stitch images by tile | R107 (04) | no table set
  w          : List Nat := [] -- W(1..BEAT_SLOTS) | R99, R100 (03) | no table set
  ar         : List Nat := [] -- AR(1..BEAT_SLOTS) | R153 (05) | no table set
  as         : List Nat := [] -- AS(1..BEAT_SLOTS) | R153 (05) | no table set
  dw         : List Nat := [] -- DW(1..BEAT_SLOTS), draft figures | R222 (07) | no table set
  xout       : Tbl Nat := [] -- st + path_bound of its PATH 7 SENDs: port · 32 + DBUF | R257 (08) | no table set
  deriving DecidableEq, Repr

/-- A matrix entry of a manifest (R313). -/
structure MatrixEnt where
  layer    : Nat  -- LAYER | R313 (10) | no manifest
  cmask    : Nat  -- CMASK | R313 (10) | no manifest
  shard    : Nat  -- SHARD_ID | R313 (10) | no manifest
  offset   : Nat  -- OFFSET | R313 (10) | no manifest
  stride   : Nat  -- STRIDE | R313 (10) | no manifest
  inDim    : Nat  -- IN_DIM | R313 (10) | no manifest
  outDim   : Nat  -- OUT_DIM | R313 (10) | no manifest
  targetW  : Nat  -- TARGET_W with its default | R313 (10) | no manifest
  scaleV   : Bool -- SCALE_V | R313 (10) | no manifest
  trace    : Bool -- TRACE | R313 (10) | no manifest
  outKind  : Nat  -- OUT_KIND | R313 (10) | no manifest
  outPort  : Nat  -- OUT_PORT | R313 (10) | no manifest
  outDbuf  : Nat  -- OUT_DBUF | R313 (10) | no manifest
  inGroup  : Nat  -- IN_GROUP | R313 (10) | no manifest
  outGroup : Nat  -- OUT_GROUP | R313 (10) | no manifest
  scaleOff : Nat  -- SCALE_OFF | R313 (10) | no manifest
  deriving DecidableEq, Repr, Inhabited

/-- One array entry of the layout record (R322). -/
structure LayoutEnt where
  placed : Placed     -- ARRAY, MATRIX, SEG, FIRST_CH, NCH | R322 (10) | no record
  part   : Nat        -- PART | R322 (10) | no record
  ad     : List Byte  -- AD, array digest | R320 (10) | no record
  widths : List Nat   -- widths of the channels | R322 (10) | no record
  deriving DecidableEq, Repr

/-- The weights a partition holds (R321, R324). -/
structure Weights where
  manifest : List Byte        -- manifest bytes as received | R322 (10) | none
  matrices : List MatrixEnt   -- its matrix entries | R313 (10) | none
  entries  : List LayoutEnt   -- its array entries of the layout record | R322 (10) | none
  steps    : List (List Nat)  -- step words per matrix in channel order | R322 (10) | none
  plan     : Plan             -- the generated part of its table set | R317 (10) | none
  deriving DecidableEq, Repr

/-- A swap open on this device (R331–R336). -/
structure Swap where
  announced : Nat                 -- announced bound NHOLD · SWAP_US, µs | R333 (10) | no swap
  swapUs    : Nat                 -- SWAP_US | R332 (10) | no swap
  matrices  : List (Nat × MatrixEnt) -- matrices listed, by index | R331 (10) | no swap
  image     : Tbl (Tbl Nat)       -- pending image: logical rows by array | R333 (10) | no swap
  newSteps  : List (Nat × List Nat) -- new channel steps by matrix index | R331 (10) | no swap
  swapped   : List Nat            -- layers swapped so far | R336 (10) | no swap
  held      : List Nat            -- layers held at the halter barrier | R334, R335 (10) | no swap
  deriving DecidableEq, Repr

/-- One difference of an inlay (R340), with the tile and the inlay segment that hold it. -/
structure Diff where
  tile  : Nat   -- tile, cluster · 64 + tile | R340 (10) | none
  seg   : Nat   -- inlay segment of the tile, 0–127 | R77, R340 (03, 10) | none
  row   : Nat   -- ROW, 0–511 | R340 (10) | none
  lane  : Nat   -- LANE, 0–127 | R340 (10) | none
  delta : Int   -- Δ, −254 to +254 | R340 (10) | none
  deriving DecidableEq, Repr, Inhabited

/-- A beat of a partition arriving or in progress on this device (R91, R252). -/
structure Beat where
  arrived : List Ingress       -- BEAT entries complete for the slot with LAST | R252 (08) | no beat
  ready   : List Nat           -- ports whose ready mark has arrived | R252 (08) | no beat
  started : Option Nat         -- tick at which the beat started | R91 (03) | no beat
  slots   : List (Nat × Nat × Nat × Nat) -- slots: slot, handle, position, TICKS_in word | R253 (08) | no beat
  ended   : List Nat           -- tiles whose BEAT_END of the LAST run has come | R91 (03) | no beat
  deriving DecidableEq, Repr

/-- The gather list of a cluster for one slot (R204, R205). -/
structure Gather where
  cluster : Nat          -- cluster | R205 (07) | no list
  hdr     : VecHdr       -- words 1–3 of the slot's vectors | R92 (03) | no list
  bad     : Bool         -- a logit overflowed binary32 | R204 (07) | no list
  pairs   : List TokVal  -- the G largest logits and the biased tokens, as token ID and binary32 | R205, R206 (07) | no list
  deriving DecidableEq, Repr, Inhabited

/-- A partition of this device (R3, R120). -/
structure Part where
  clusters  : Nat := 0         -- cluster mask, 16 bits; 0 = undefined | R3, R120 (00, 04) | 0 (no partition)
  ttlMs     : Nat := 60000     -- default time to live, ms, 32 bits | R162 (05) | 60,000
  pools     : List (Nat × Nat) := [] -- pool ranges: base, size | R298 (09) | none
  table     : Option TableSet := none -- table set in force | R97 (03) | none
  weights   : Option Weights := none -- committed weights | R324 (10) | none
  swap      : Option Swap := none -- swap open | R333 (10) | none
  inlays    : Tbl (List Diff) := [] -- inlays loaded | R338 (10) | none
  bias      : Tbl (List TokVal) := [] -- logit-bias tables, up to 256 | R213 (07) | none
  hkPerm    : Nat := 20        -- HK_PERMILLE | R191 (06) | 20
  hkChunk   : Nat := 100       -- HK_CHUNK, ticks | R191 (06) | 100
  hkNext    : Option (Nat × Nat) := none -- HOUSEKEEP_SET values waiting for the wheel to stop | R192 (06) | none
  epoch     : Nat := 0         -- partition epoch, 4 bits | R123 (04) | 0
  spanUnder : Nat := 0         -- span underflows, 32 bits saturating | R56 (02) | 0
  stale     : Nat := 0         -- stale-flit count, 32 bits saturating | R123 (04) | 0
  n4Skives  : Nat := 0         -- N4 SKIVE count, saturating | R71, R299 (02, 09) | 0
  fallbacks : Nat := 0         -- fallbacks, saturating | R71, R299 (02, 09) | 0
  fbEvents  : Nat := 0         -- FALLBACK_RATE events, saturating | R299 (09) | 0
  fbWinN    : Nat := 0         -- N4 SKIVEs in the current window of 4,096 | R71 (02) | 0
  fbWinF    : Nat := 0         -- fallbacks in the current window | R71 (02) | 0
  restarts  : Nat := 0         -- PART_RESTARTS.COUNT, 32 bits saturating | PART_RESTARTS (11) | 0
  restarting : Option (Nat × Nat × Nat) := none -- containment raised and not carried out: cause, LKIND, LOC | R366, R371 (11) | none
  beats     : List Beat := []  -- beats arriving or in progress, oldest first | R91 (03) | none
  embedQ    : List (VecHdr × List Block) := [] -- embedded vectors of issued beats that wait for credit, at the pommel | R181, R231 (06, 08) | none
  draftQ    : List (VecHdr × List Block) := [] -- embedded vectors of draft runs that wait for credit, at the pommel | R220, R222 (07) | none
  draftRuns : Nat := 0         -- draft runs issued since the partition last started | R222 (07) | 0
  stepLog   : List (Nat × Nat) := [] -- step log: handle and tick, at most 131,072, oldest first | R363 (11) | empty
  logLost   : Option Nat := none -- tick at which a chip reset cleared the step log | R364 (11) | none
  abort     : List Nat := []   -- handles that end FAULT_ABORT at the end of the beat | R50, R62, R147 (02, 05) | none
  egress    : List (Nat × Nat × VecHdr × Payload) := [] -- PATH 7 messages at the edge router: port, DBUF, header, body | R84, R177 (03, 06) | empty
  atIngress : List (Nat × Nat × VecHdr × Payload) := [] -- messages that wait at ingress while a layer is held at the halter barrier: port, DBUF, header, body | R334, R337 (10) | empty
  edgeGranted : List Nat := []  -- ingress entries whose grant has been sent and not used | R254 (08) | none
  gathered  : List Gather := [] -- gather lists waiting for the select stage | R205 (07) | none
  deriving DecidableEq, Repr

/-! ### Tiles -/

/-- A block in the input buffer, with the passes that still hold it (R72, R351). -/
structure InBlk where
  blk : Block    -- the block, held at N8 size | R72 (03) | no valid block
  rsv : Nat      -- the reservation that filled it | R85 (03) | no valid block
  deriving DecidableEq, Repr

/-- A pass in flight or recorded for keeper compare (R27, R78, R81). -/
structure PassRec where
  run    : Nat                    -- run that issued it | R73 (03) | none in flight
  wkind  : Nat                    -- window kind | R77 (03) | none in flight
  widx   : Nat                    -- window index | R77 (03) | none in flight
  h      : Nat                    -- half-window | R77 (03) | none in flight
  plane  : Nat                    -- plane | R77 (03) | none in flight
  iblk   : Nat                    -- input buffer entry, absolute | R73 (03) | none in flight
  wr     : Nat                    -- window-result register, absolute | R73 (03) | none in flight
  arrays : List Nat               -- arrays named, 0–63 of the tile | R20 (01) | none in flight
  base   : Nat                    -- first row driven | R18 (01) | none in flight
  drive  : List Int               -- drive levels from that row | R21 (01) | none in flight
  e8     : Nat                    -- exponent of the window | R53 (02) | none in flight
  codes  : List (Nat × List Int)  -- codes by array, 272 columns | R24, R39 (01) | none in flight
  serve  : List (Nat × Nat) := [] -- data columns whose code came from another column, and that column, when the codes were ready | R30, R345, R360 (01, 11) | none in flight
  comp   : List (Nat × Nat) := [] -- keepers that compared on the pass, and their data columns | R344, R393 (11, 12) | none in flight
  deriving DecidableEq, Repr

/-- A window-result register of one array (R53, R72, R74). -/
structure Wr where
  exp     : Option Nat := none    -- exponent it holds | R53 (02) | none
  vals    : List Int := []        -- window results in column-map order, 24 bits signed each | R53 (02) | zero
  checked : Bool := false         -- marked checked | R81, R82 (03) | 0
  recs    : List PassRec := []    -- passes since it was last drained | R81 (03) | none
  deriving DecidableEq, Repr

/-- A tally slot (R72, R74). -/
structure Slot where
  eref  : Option Nat := none      -- E_ref its lanes are counted in | R58 (02) | none
  lanes : List Int := []          -- 128 tallies of 64 bits, missing lanes zero | R72 (03) | zero
  deriving DecidableEq, Repr

/-- An open reservation of a tile (R85). -/
structure Resv where
  tallyKind : Bool               -- KIND | R77 (03) | closed
  base      : Nat                -- first entry, absolute | R85 (03) | closed
  count     : Nat                -- COUNT | R85 (03) | closed
  nprod     : Nat                -- NPROD | R85 (03) | closed
  vreg      : Nat                -- VREG, absolute | R85 (03) | closed
  ifmt      : Bool               -- IFMT = N8 | R85 (03) | closed
  run       : Nat                -- run that opened it | R126 (04) | closed
  seq       : Nat                -- issue number of the RECV that opened it | R94 (03) | closed
  senders   : List Nat           -- senders that have used their credit | R84, R85 (03) | closed
  granted   : Bool               -- credit granted | R85, R94 (03) | closed
  draft     : Bool := false      -- opened by a draft run | R87, R222 (03, 07) | closed
  hdrs      : Nat                -- headers arrived | R85 (03) | closed
  filled    : List Nat           -- entries filled, or tally messages added | R85 (03) | closed
  eref      : Nat                -- largest E_REF so far | R55 (02) | closed
  done      : Bool               -- complete | R85 (03) | closed
  deriving DecidableEq, Repr

/-- A stitch in a unit's queue: issue number, run, stitch index and operation (R76, R94). -/
structure QEnt where
  seq : Nat        -- issue number | R94 (03) | empty queue
  run : Nat        -- run | R73 (03) | empty queue
  draft : Bool := false -- issued by a draft run | R87, R222 (03, 07) | empty queue
  idx : Nat        -- stitch index | R75 (03) | empty queue
  op  : StitchOp   -- operation | R76 (03) | empty queue
  deriving DecidableEq, Repr

/-- A dispute open in a tile (R349). -/
structure Dispute where
  det   : Detector               -- what found it | R358 (11) | none open
  pass  : PassRec                -- the disputed pass with its first codes | R349 (11) | none open
  array : Nat                    -- the disputed array, 0–63 of the tile | R349 (11) | none open
  cols  : List Nat               -- disputed data columns | R349 (11) | none open
  expect : List (Nat × Int)      -- known sums or reserve codes by column | R354, R356 (11) | none open
  reps  : List (List Int)        -- codes of the repetitions | R349 (11) | none open
  perm  : Bool                   -- permanent: waits for the reference path | R349 (11) | none open
  injected : Bool                -- an injected disagreement | CHK_INJECT (11) | none open
  deriving DecidableEq, Repr

/-- Kinds of run (R87, R93, R222). -/
inductive RunKind where
  | main | draft | hk
  deriving DecidableEq, Repr, Inhabited

/-- A tile (R72). -/
structure Tile where
  at_     : Nat := 0             -- index of the stitch the stitcher is at | R75 (03) | 0
  kind    : RunKind := .main     -- kind of run | R87 (03) | main
  runs    : Nat := 0             -- run count | R73 (03) | 0
  drafts  : Nat := 0             -- draft runs of the partition that the tile has begun | R222 (07) | 0
  hkAct   : Option (Nat × Nat) := none -- activity and array that its housekeeping sequence runs | R93, R194 (03, 06) | none
  seq     : Nat := 0             -- stitches issued (orders the unit queues) | R94 (03) | 0
  inBuf   : Tbl InBlk := []      -- input buffer, 64 entries in two banks | R72 (03) | no valid block
  eref    : Tbl Nat := []        -- E_ref registers, 4 per bank | R72 (03) | 0 (the fill writes zero)
  wrs     : Tbl Wr := []         -- window-result registers: array · 4 + register | R72, R74 (03) | zero, no exponent
  slots   : Tbl Slot := []       -- tally slots 0–63 | R72, R74 (03) | zero
  outBuf  : Tbl Block := []      -- output buffer, 64 entries | R72, R74 (03) | no valid block
  fb      : Bool := false        -- FB flag | R83 (03) | 0
  resv    : Tbl Resv := []       -- reservations 0–63 | R85 (03) | closed
  tallyQ  : List QEnt := []      -- tally unit's queue, at most 8 | R76 (03) | empty
  skiveQ  : List QEnt := []      -- skiver's queue, at most 8 | R76 (03) | empty
  sendQ   : List QEnt := []      -- send port's queue, at most 8 | R76 (03) | empty
  kcmpQ   : List QEnt := []      -- checker's queue, at most 8 | R76 (03) | empty
  inlayQ  : List QEnt := []      -- INLAY stitches issued to the cluster's engine and not committed | R76, R86 (03) | empty
  flight  : List PassRec := []   -- main passes in flight, oldest first | R27 (01) | none
  trace   : List PassRec := []   -- tracing passes in flight, oldest first | R41 (01) | none
  hdrs    : Tbl VecHdr := []     -- header words of the runs' input, by run | R92 (03) | none
  disputes : List Dispute := []  -- disputes open, in order | R349 (11) | none
  gated   : Bool := true         -- the tile is gated | R435 (14) | 1 (a tile outside every partition)
  colMaps : Tbl (List ColChan) := [] -- column maps by array 0–63 | R72 (03) | empty
  steps   : Tbl Nat := []        -- step table: row · 128 + lane, 16 bits | R72 (03) | zero step
  calib   : Option (Nat × Nat × Int) := none -- calibrator: array, steps done, T_c at the start | R391, R392 (12) | idle
  deriving DecidableEq, Repr

/-! ### Arrays -/

/-- Keeper states (R344). -/
inductive KeepState where
  | shadow | rotate | stand | off
  deriving DecidableEq, Repr, Inhabited

/-- A keeper of an array (R344, R361). -/
structure Keeper where
  m      : Nat := 0           -- column k + 8m it shadows, m 0–31 | R344 (11) | 0 (restored by the rebuild)
  st     : KeepState := .shadow -- state | R344 (11) | SHADOW (restored by the rebuild)
  stand  : Nat := 0           -- column it stands in for | R360 (11) | 0
  passes : Nat := 0           -- passes compared on this column | R361 (11) | 0
  since  : Nat := 0           -- tick since which it shadows the column | R361 (11) | 0
  rot    : Nat := 0           -- rows rewritten of a rotation | R361 (11) | 0
  deriving DecidableEq, Repr

/-- An array: its cells and what its periphery and the supervisor hold of it. -/
structure Arr where
  rows     : Tbl Nat := []     -- 512 rows of 272 cells, column 0 in bit 0 | R16, R17 (01) | 0 as delivered, DC 8
  keepers  : Tbl Keeper := []  -- keepers 0–7 | R344 (11) | as the keeper
  trims    : Tbl (Int × Int) := [] -- OFFSET and GAIN by column, 6 bits signed each | R390 (12) | lost: invalid
  calOk    : Bool := false     -- calibrated since start-up step 7: the next three fields hold for it | R398 (12) | 0
  calPend  : Bool := false     -- triggered (CAL_QRES.PEND) | R391 (12) | 0
  trigTick : Nat := 0          -- tick of its trigger | R193 (06) | 0
  tcal     : Int := 0          -- T_cal, 1/16 °C | R391 (12) | 0
  calTick  : Nat := 0          -- tick at which its last calibration completed | R392 (12) | 0
  sumsOk   : Bool := false     -- its known sums exist in the known-sum area | R326 (10) | 0
  sumsTick : Nat := 0          -- tick at which they came to exist | R326 (10) | 0
  pb       : Nat := 0          -- PB(a), proof block, 6 bits | R326 (10) | 0
  proofs   : Nat := 0          -- completed proofs n | R353 (11) | 0
  clean    : Tbl Nat := []     -- tick of the last clean proof by basic window | R364 (11) | 0
  proofTick : Nat := 0         -- tick of its last completed proof | R193 (06) | 0
  xTick    : Nat := 0          -- tick of its last completed cross-check | R193 (06) | 0
  readTick : Nat := 0          -- tick of its last completed readback | R193 (06) | 0
  overdue  : List Nat := []    -- activities whose HK_OVERDUE is raised | R195 (06) | none
  prog     : Option (Nat × Nat) := none -- row program in progress: row, attempts done | R318 (10) | none
  uncov    : List Nat := []    -- uncovered columns: faulty, with no keeper in STAND | R359 (11) | none
  judged   : List Nat := []    -- faulty data columns already counted in FAULTS | R372 (11) | none
  dirty    : Bool := false     -- the proof in progress has had a permanent disagreement | R354 (11) | 0
  deriving DecidableEq, Repr

/-- A repair-map entry (R346). -/
structure Repair where
  st       : Nat := 0          -- STATE: 0 in service, 1 retired, 2 dead | R346 (11) | 0 (no entry)
  keepOff  : Nat := 0          -- KEEP_OFF, 8 bits | R346 (11) | 0
  faults   : Nat := 0          -- FAULTS, 0–9 | R346 (11) | 0
  patchV   : Nat := 0          -- PATCH_V, 8 bits | R346 (11) | 0
  patchBad : Nat := 0          -- PATCH_BAD, 8 bits | R346 (11) | 0
  patchCol : Tbl Nat := []     -- PATCH_COL byte by patch | R346 (11) | 0
  deriving DecidableEq, Repr

/-- A copy of the repair map in record-store pairs 4–5 (R346, R405). -/
structure MapCopy where
  seq : Nat := 0               -- sequence number, 64 bits | R346, R405 (11, 13) | 0
  map : Tbl Repair := []       -- its entries by array | R346 (11) | empty
  deriving DecidableEq, Repr

/-! ### Clusters and the fabric -/

/-- A reservation of the burnisher, the attention engine or the slice: one bank (R132, R140, R203). -/
structure EngResv where
  hdrs   : List VecHdr := []   -- headers arrived | R85 (03) | empty
  senders : List Nat := []     -- senders that have used their credit | R84, R85 (03) | empty
  blks   : Tbl Block := []     -- blocks by entry | R140 (05) | empty
  full   : Bool := false       -- complete | R132 (04) | 0
  fired  : List Nat := []      -- descriptors that have fired on this filling | R132 (04) | empty
  deriving DecidableEq, Repr

/-- A cluster's shared units (R101). -/
structure Cluster where
  burn    : Tbl EngResv := []  -- burnisher reservations: rbuf · 2 + bank | R132 (04) | empty
  attn    : Tbl EngResv := []  -- attention reservations: rbuf · 2 + bank | R140 (05) | empty
  logit   : Tbl EngResv := []  -- slice reservations on port 66: rbuf · 2 + bank | R203 (07) | empty
  burnBank : Tbl Nat := []     -- bank receiving, by burnisher reservation | R132 (04) | 0
  attnBank : Tbl Nat := []     -- bank receiving, by attention reservation | R140 (05) | 0
  logitBank : Tbl Nat := []    -- bank receiving, by slice reservation | R203 (07) | 0
  burnQ   : List Nat := []     -- burnisher descriptors ready, in order | R132 (04) | none
  attnQ   : List Nat := []     -- attention descriptors ready, in order | R140 (05) | none
  inlayQ  : List (Nat × Nat) := [] -- INLAY stitches asked of the engine: tile, issue number | R341 (10) | none
  wrote   : List (Nat × Nat × Nat) := [] -- positions written by the step in progress: handle, layer, position | R146, R147 (05) | none
  stored  : List (Nat × Nat × Nat) := [] -- state layers stored by the step: handle, layer, last position | R155 (05) | none
  credit  : Int := 0           -- housekeeping credit in thousandths of a tick | R191 (06) | 0, DC 5
  creditTick : Nat := 0        -- tick up to which credit has accrued | R191 (06) | 0
  debt    : Bool := false      -- HK_DEBT raised for this excursion | R352 (11) | 0
  chunk   : Bool := false      -- a housekeeping chunk is running | R191 (06) | 0
  refTrim : Int := 0           -- array reference trim | R383 (12) | 0, DC 5
  startTcal : Int := 0         -- T_cal of the arrays calibrated at start-up, 1/16 °C | R391, R449 (12, 14) | 0
  startTrig : Bool := false    -- those arrays are triggered | R391 (12) | 0
  startTrigTick : Nat := 0     -- tick of that trigger | R193 (06) | 0
  refreshed : Tbl Nat := []    -- tick of the last refresh by bank | R110 (04) | 0
  deriving DecidableEq, Repr

/-- A copy of a message on the fabric, on its way to one member (R124). -/
structure Copy where
  part   : Nat            -- partition that owns it | R123 (04) | none
  epoch  : Nat            -- epoch carried | R123 (04) | none
  group  : Nat            -- group named, 1,024 for a unicast | R122 (04) | none
  bank   : Nat            -- bank of an engine reservation | R132 (04) | none
  dest   : Member         -- destination, a tile's reservation as its absolute entry | R84 (03) | none
  chan   : Channel        -- virtual channel | R115 (04) | none
  hdr    : VecHdr         -- vector header | R84 (03) | none
  hdrIn  : Bool           -- the header has arrived | R124 (04) | none
  body   : Payload        -- what is still to arrive | R84 (03) | none
  index  : Nat            -- pieces arrived | R124 (04) | none
  mesh   : Option Nat     -- message of the mesh that it belongs to | R114 (04) | none
  flits  : Nat            -- flits arrived | R114 (04) | none
  total  : Nat            -- flits in all | R114 (04) | none
  bytes  : Nat            -- bytes of the pieces that have arrived | R114 (04) | none
  drop   : Bool           -- its later flits are discarded | R125, R128 (04) | none
  deriving DecidableEq, Repr

/-- A message on the mesh: how many of its flits have entered each router's input buffer (R114–R116). -/
structure MeshMsg where
  no      : Nat           -- number | R114 (04) | none
  chan    : Channel       -- virtual channel | R115 (04) | none
  src     : Nat           -- cluster whose router it enters by | R114 (04) | none
  edge    : Bool          -- it enters by the Luawin port | R118 (04) | none
  crossed : Tbl Nat       -- flits that have entered a router's input buffer, by cluster | R116 (04) | 0
  deriving DecidableEq, Repr

/-- A block of a KV write on its way to the slice (R115, R128). -/
structure KvWr where
  part   : Nat            -- partition | R128 (04) | none
  epoch  : Nat            -- epoch carried | R123 (04) | none
  cluster : Nat           -- cluster | R142 (05) | none
  handle : Nat            -- request | R142 (05) | none
  layer  : Nat            -- layer | R142 (05) | none
  pos    : Nat            -- position | R142 (05) | none
  was    : List (Nat × Option Byte) -- bytes that it replaces | R128 (04) | none
  deriving DecidableEq, Repr

/-! ### Girths and links -/

/-- A member of a girth record (R233). -/
structure GMember where
  deviceId : Nat  -- DEVICE_ID | R233 (08) | no record
  stage    : Nat  -- STAGE | R233 (08) | no record
  deriving DecidableEq, Repr, Inhabited

/-- A link of a girth record (R233): USE 1 RING, 2 RETURN, 3 ABREAST. -/
structure GLink where
  gposA : Nat    -- GPOS_A | R233 (08) | no record
  gposB : Nat    -- GPOS_B | R233 (08) | no record
  portA : Nat    -- PORT_A | R233 (08) | no record
  portB : Nat    -- PORT_B | R233 (08) | no record
  use   : Nat    -- USE | R233 (08) | no record
  cable : Nat    -- CABLE_NS | R233 (08) | no record
  deriving DecidableEq, Repr, Inhabited

/-- A girth record (R233). -/
structure Record where
  ledger   : Nat            -- LEDGER | R233 (08) | no record
  gpos     : Nat            -- GPOS | R233 (08) | no record
  stages   : Nat            -- S | R233 (08) | no record
  n        : Nat            -- N | R233 (08) | no record
  halterMs : Nat            -- HALTER_MS with its default | R233 (08) | no record
  members  : List GMember   -- member entries | R233 (08) | no record
  links    : List GLink     -- link entries | R233 (08) | no record
  digest   : List Byte      -- CONFIG_DIGEST, 8 bytes | R235 (08) | no record
  deriving DecidableEq, Repr, Inhabited

/-- Girth states (R248). -/
inductive GState where
  | unset | set | linked | running | held | stopped
  deriving DecidableEq, Repr, Inhabited

/-- The promise model (R179). A zero PF_ROWS or T_DRAFT takes the default. -/
structure Model where
  fpMhz   : Nat := 800      -- FP_MHZ | R179 (06) | 800
  nCap    : Nat := 32768    -- N_CAP | R179 (06) | 32,768
  resOnly : Bool := false   -- RES_ONLY | R179 (06) | 0
  pfRows  : Nat := 0        -- PF_ROWS, 0 = ceil(K / 4) | R179, R300 (06, 09) | default
  tDraft  : Nat := 0        -- T_DRAFT ticks, 0 = default | R179, R222 (06, 07) | default
  deriving DecidableEq, Repr, Inhabited

/-- The wheel's figures, in ticks except K, B and PF_ROWS (R180). -/
structure Wheel where
  k      : Nat := 0     -- K | R180 (06) | 0
  b      : Nat := 0     -- B | R178 (06) | 0
  tGap   : Nat := 0     -- T_gap | R180 (06) | 0
  c      : Nat := 0     -- C | R180 (06) | 0
  tRing  : Nat := 0     -- T_ring | R180 (06) | 0
  hRet   : Nat := 0     -- H_ret | R180 (06) | 0
  pfRows : Nat := 0     -- PF_ROWS in force | R180 (06) | 0
  tDraft : Nat := 0     -- T_DRAFT in force | R179 (06) | 0
  model  : Model := {}  -- the model it was computed from | R180 (06) | default
  deriving DecidableEq, Repr

/-- What the pommel knows of a claim in flight (R186). -/
structure Pending where
  src    : Option CmdSrc    -- command to reply to (none for a re-admission) | R186, R201 (06) | none
  words  : List Nat         -- its packet | R186 (06) | none
  handle : Nat              -- handle claimed | R186 (06) | none
  resume : Bool             -- a RESUME's claim | R163 (05) | none
  entry  : Entry            -- the entry to write when the claim succeeds | R171, R186 (06) | none
  deriving DecidableEq, Repr

/-- A beat the pommel has issued and whose commits are not all back (R181, R261). -/
structure IssuedBeat where
  j      : Nat                        -- beat number | R181 (06) | none
  tick   : Nat                        -- issue tick | R181 (06) | none
  slots  : List (Nat × Nat × Nat × Nat) -- slot, handle, position, budget | R91, R176 (03, 06) | none
  deriving DecidableEq, Repr

/-- A girth of this device, by partition (R230, R248). -/
structure Girth where
  st        : GState := .unset  -- girth state | R248 (08) | UNSET
  record    : Option Record := none -- girth record | R233 (08) | none
  epoch     : Nat := 0          -- girth epoch, 4 bits | R238, R249 (08) | 0
  kidsIn    : Nat := 0          -- children whose report of the round's present step has come | R249 (08) | 0
  hopRx     : Tbl Nat := []     -- hop bounds that inbound links brought, by port | R249, R250 (08) | none
  floors    : Tbl (Nat × Nat) := [] -- housekeeping floors that members have set since the round, by GPOS | R192 (06) | none
  prev      : GState := .unset  -- state before the start round | R249 (08) | UNSET
  round     : Option Nat := none -- tick at which the start round began; at a member, at which B came | R249 (08) | none
  roundSrc  : Option CmdSrc := none -- GIRTH_START waiting for its reply | R249 (08) | none
  roundPkt  : List Nat := []    -- its packet | R249 (08) | none
  figs      : List Figures := [] -- figures reported, by stage | R249 (08) | none
  stops     : List (CmdSrc × List Nat × Nat) := [] -- GIRTH_STOP commands that wait for the members, each with its count of requests ended | R298 (09) | none
  stopIn    : Nat := 0          -- children whose part of the tree is STOPPED, since this device's own stop | R298 (09) | 0
  b         : Nat := 0          -- B, the girth's beat size | R178, R249 (06, 08) | 0
  resPos    : Nat := 0          -- girth's RES_POS | R145 (05) | 0
  resCount  : Nat := 0          -- girth's RES_COUNT | R145 (05) | 0
  hopIn     : Nat := 0          -- this device's hop_in, ticks | R250 (08) | 0
  hRet      : Nat := 0          -- H_ret reported by the cantle | R249 (08) | 0
  model     : Model := {}       -- promise model set on the pommel | R179 (06) | default
  wheel     : Wheel := {}       -- figures of the wheel in force | R180 (06) | 0
  t0        : Option Nat := none -- T0; none = the wheel is stopped | R181 (06) | stopped
  beatNo    : Nat := 0          -- next beat j | R181 (06) | 0
  lastIssue : Option Nat := none -- issue tick of beat j − 1 | R181, R190 (06) | none
  margin    : Option Nat := none -- margin of the previous beat | R190 (06) | none
  issued    : List IssuedBeat := [] -- beats issued and not back | R181 (06) | none
  queue     : List Nat := []    -- admitted prefills not yet in a row, in order: handles | R185 (06) | none
  pfRow     : Tbl Nat := []     -- prefill rows: the handle that holds each | R182, R185 (06) | free
  claims    : List Pending := [] -- claims in flight | R186 (06) | none
  boots     : List (Nat × Nat) := [] -- BOOT serial by GPOS at the start round | R266 (08) | none
  down      : List Nat := []    -- GPOS of members that sent PEER_DOWN and not LINK_UP | R262, R266 (08) | none
  heldTick  : Nat := 0          -- tick of the peer loss | R264, R267 (08) | 0
  voided    : Bool := false     -- promises voided during the hold | R265, R266 (08) | 0
  restartPend : Bool := false   -- a restart to carry out at release | R268 (08) | 0
  swapTerm  : Nat := 0          -- swap_term, ticks | R187 (06) | 0
  swapBound : Nat := 0          -- announced swap bound, ticks | R261 (08) | 0
  swapSrc   : Option CmdSrc := none -- pommel's SWAP_BEGIN waiting for its reply | R333 (10) | none
  swapPkt   : List Nat := []    -- its packet | R333 (10) | none
  swapTick  : Nat := 0          -- tick at which it took effect | R333 (10) | 0
  warn      : List Nat := []    -- GPOS of members that report WARN | R187, R386 (06, 12) | none
  thermal   : Option Nat := none -- tick of a draining thermal stop | R387 (12) | none
  thermalStop : Bool := false   -- a thermal stop has been reported | R387 (12) | 0
  closed    : Bool := false     -- reservations held closed until release | R263 (08) | 0
  grants    : List (Nat × Nat) := [] -- grants held for PATH 7 SENDs: port, DBUF | R254 (08) | none
  checked   : Bool := false     -- CHECK has come back from every member since the last loss of a link | R266 (08) | 0
  ended     : List Nat := []    -- handles that ended during the hold | R266 (08) | none
  restartSent : Bool := false   -- this member has sent RESTART for its own restart and awaits the broadcast | R258, R366 (08, 11) | 0
  readmits  : List Nat := [] -- handles waiting to be re-admitted, in order | R201, R366 (06, 11) | none
  deriving DecidableEq, Repr

/-- Port states (LW_STAT.STATE). -/
inductive PortState where
  | disabled | training | hello | up | down
  deriving DecidableEq, Repr, Inhabited

/-- A flit to send or sent: its header and its payload before encryption (R238). -/
structure TxFlit where
  hdr  : Flit       -- header fields | R238 (08) | none
  data : List Byte  -- payload, at most 240 bytes | R238 (08) | none
  deriving DecidableEq, Repr

/-- A message that waits at a port (R240, R241). -/
structure TxMsg where
  cls   : Nat          -- class | R238, R239 (08) | none
  girth : Nat          -- ledger number; 16 for a hello | R238 (08) | none
  flits : List TxFlit  -- its flits still to send | R240 (08) | none
  deriving DecidableEq, Repr

/-- A Luawin port (R236–R247). -/
structure Port where
  en       : Bool := false  -- LW_CTRL.EN | LW_CTRL (08) | 0
  chan     : Nat := 0       -- LW_CTRL.CHAN, 2 bits | LW_CTRL (08) | 0
  txeq     : Nat := 0       -- LW_CTRL.TXEQ, 8 bits, RWL | LW_CTRL (08) | 0
  st       : PortState := .disabled -- LW_STAT.STATE | LW_STAT (08) | 0 DISABLED
  los      : Bool := false  -- LW_STAT.LOS | LW_STAT (08) | 0
  lock     : Nat := 0       -- LW_STAT.LOCK, 8 bits | LW_STAT (08) | 0
  replaying : Bool := false -- LW_STAT.REPLAYING | LW_STAT (08) | 0
  lost     : Nat := 0       -- girths whose peer loss on this port has been declared, by ledger number | R261 (08) | 0
  girths   : Nat := 0       -- LW_STAT.GIRTHS, 16 bits | LW_STAT (08) | 0
  err      : Nat := 0       -- LW_ERR bits [8:0], RW1C | LW_ERR (08) | 0
  causeL   : Nat := 0       -- LW_HELLO_CAUSE.LEDGER, 4 bits | LW_HELLO_CAUSE (08) | 0
  cause    : Nat := 0       -- LW_HELLO_CAUSE.CAUSE, 4 bits | LW_HELLO_CAUSE (08) | 0
  peerId   : Nat := 0       -- LW_PEER_ID, 64 bits | LW_PEER_ID (08) | 0
  peerPort : Nat := 0       -- LW_PEER.PEER_PORT, 3 bits | LW_PEER (08) | 0
  peerBoot : Nat := 0       -- LW_PEER_BOOT.BOOT, 32 bits | LW_PEER_BOOT (08) | 0
  rtt      : Nat := 0       -- LW_RTT.RTT_NS, 16 bits | R247 (08) | 0
  replays  : Nat := 0       -- REPLAYS, 32 bits saturating | LW_COUNT0 (08) | 0
  fecCorr  : Nat := 0       -- FEC_CORR, 32 bits saturating | LW_COUNT1 (08) | 0
  fecUnc   : Nat := 0       -- FEC_UNCORR, 32 bits saturating | LW_COUNT2 (08) | 0
  stale    : Nat := 0       -- STALE_CNT, 32 bits saturating | LW_COUNT3 (08) | 0
  seqNext  : Nat := 0       -- SEQ of the next flit sent, 12 bits | R238 (08) | 0
  seqExp   : Nat := 0       -- SEQ expected, 12 bits | R243 (08) | 0
  lastGood : Option Nat := none -- last SEQ received in order (ACK with AV) | R238 (08) | none
  nakSent  : Bool := false  -- NAK already sent for this gap | R243 (08) | 0
  replayBuf : List Nat := [] -- SEQs sent and not acknowledged, at most 1,024 | R243 (08) | empty
  resend   : List Nat := []  -- SEQs due to be resent, in order | R243 (08) | empty
  nakRow   : Nat := 0       -- NAKs in a row with no advance of ACK | R244 (08) | 0
  ackTick  : Nat := 0       -- tick of the last advance of ACK | R244 (08) | 0
  replayTicks : List Nat := [] -- ticks of recent replays | R244 (08) | none
  credRein : Nat := 32      -- REIN credits granted to the peer and unused | R242 (08) | 32
  credMgmt : Nat := 16      -- MGMT credits | R242 (08) | 16
  credits  : Tbl Nat := []  -- credits used: girth · 8 + class | R242 (08) | none used
  txQ      : List TxMsg := [] -- messages waiting for flit slots and credits, in order | R240, R241 (08) | empty
  txUsed   : Tbl Nat := []  -- peer's credits used and not returned: girth · 8 + class, REIN 0, MGMT 5 | R242 (08) | none used
  owed     : Tbl Nat := []  -- credits to return to the peer, by the same keys | R242 (08) | none
  nakDue   : Bool := false  -- the next flit carries NAK = 1 | R243 (08) | 0
  sent     : Tbl TxFlit := [] -- flits in the replay buffer by SEQ | R243 (08) | empty
  slots    : Nat := 0       -- flit slots of the present tick that have passed, 0–32 | R237 (08) | 0
  sinceRein : Nat := 15     -- slots since the last REIN flit, at most 15 | R241 (08) | 15 (a REIN flit may go)
  sinceMgmt : Nat := 255    -- slots since the last MGMT flit, at most 255 | R241 (08) | 255 (a MGMT flit may go)
  lastGirth : Nat := 16     -- girth whose flit went last, 16 none | R241 (08) | 16
  helloTick : Option Nat := none -- tick of the last hello sent since training | R245 (08) | none
  helloSent : List HelloEnt := [] -- girth entries of that hello | R245 (08) | none
  gotTick  : Nat := 0       -- tick at which the last hello arrived | R245 (08) | 0
  hseq     : Nat := 0       -- HSEQ of the next hello | R245 (08) | 0
  sentH    : List Nat := [] -- HSEQs sent since training | R245 (08) | none
  gotH     : Option Nat := none -- HSEQ of the last hello received | R245 (08) | none
  echoed   : Bool := false  -- own hello has been echoed | R245 (08) | 0
  peerKey  : Nat := 0       -- DEVICE_ID computed from the peer's identity key | R419 (13) | 0
  keyed    : Bool := false  -- the two link keys are set | R419 (13) | 0
  txCount  : Nat := 0       -- flits first sent under the key, 64 bits | R419 (13) | 0
  rxCount  : Nat := 0       -- flits received under the key, 64 bits | R419 (13) | 0
  txGen    : Nat := 0       -- key replacements of the send direction | R419 (13) | 0
  rxGen    : Nat := 0       -- key replacements of the receive direction | R419 (13) | 0
  deriving DecidableEq, Repr

/-! ### Housekeeping and temperature -/

/-- One housekeeping channel (HK_DATA). -/
structure HkChan where
  value : Int := 0       -- VALUE, 16 bits signed | HK_DATA (12) | 0
  code  : Nat := 0       -- CODE, 12 bits | HK_DATA (12) | 0
  xc    : Bool := false  -- XC | HK_DATA (12) | 0
  old   : Bool := false  -- OLD | HK_DATA (12) | 0
  out   : Nat := 0       -- consecutive rounds outside ±5 % | R381 (12) | 0
  within : Nat := 0      -- consecutive rounds within ±5 % since the event | R381 (12) | 0
  raised : Bool := false -- RAIL_RANGE raised and not re-armed | R381 (12) | 0
  deriving DecidableEq, Repr

/-- The housekeeping and thermal region. -/
structure Hk where
  period   : Nat := 4       -- HK_CTRL.PERIOD, 6 bits | HK_CTRL (12) | 4
  inForce  : Nat := 4       -- period of the current round | R385 (12) | 4
  lp       : Bool := false  -- HK_CTRL.LP | HK_CTRL (12) | 0
  xtol     : Nat := 8       -- HK_CTRL.XTOL, 8 bits | HK_CTRL (12) | 8
  mask     : Nat := 0x00FFFFFF -- HK_MASK.MASK, 32 bits | HK_MASK (12) | 0x00FF_FFFF
  rounds   : Nat := 0       -- HK_STAT.ROUNDS, 16 bits wrapping | HK_STAT (12) | 0
  xch      : Nat := 0       -- HK_STAT.XCH, 5 bits | HK_STAT (12) | 0
  degraded : Bool := false  -- HK_STAT.DEGRADED | R380 (12) | 0
  disagree : Nat := 0       -- consecutive rounds with a disagreement | R380 (12) | 0
  agree    : Nat := 0       -- consecutive rounds without one | R380 (12) | 0
  warnRate : Nat := 16      -- THERM_CTRL.WARN_RATE, 8 bits, RWL | THERM_CTRL (12) | 16
  stopRate : Nat := 64      -- THERM_CTRL.STOP_RATE, 8 bits, RWL | THERM_CTRL (12) | 64
  hotLimit : Nat := 105     -- THERM_CTRL.HOT_LIMIT, 8 bits, RWL | THERM_CTRL (12) | 105
  warn     : Bool := false  -- THERM_STAT.WARN | R386 (12) | 0
  stop     : Bool := false  -- THERM_STAT.STOP | R387 (12) | 0
  tripSeen : Bool := false  -- THERM_STAT.TRIP_SEEN, fw | R389 (12) | 0 before start-up sets it, DC 7
  ev       : Nat := 0       -- THERM_EV bits [5:0], RW1C | THERM_EV (12) | 0
  maxTemp  : Int := 0       -- TEMP_MAX.TEMP, 16 bits signed | TEMP_MAX (12) | 0
  maxSens  : Nat := 0       -- TEMP_MAX.SENSOR, 7 bits | TEMP_MAX (12) | 0
  chans    : Tbl HkChan := [] -- HK_DATA0–31 | HK_DATA (12) | 0
  temps    : Tbl Int := []  -- TEMP0–81 readings, 1/16 °C | TEMP (12) | 0
  rates    : Tbl Int := []  -- TEMP0–81 RATE, 1/64 °C/ms | TEMP (12) | 0
  perWr    : Bool := false  -- a PERIOD write restarts the windows after the next round | R385 (12) | 0
  hist     : List (Tbl Int) := [] -- readings of the last rounds of one period, newest first, at most 5 | R385 (12) | empty
  warnQuiet : Nat := 0      -- consecutive rounds in which WARN's conditions do not hold | R386 (12) | 0
  stopQuiet : Nat := 0      -- consecutive quiet rounds for STOP | R388 (12) | 0
  resend   : List (Nat × PeerMsg) := [] -- peer messages to send again at the next round: partition, message | R386 (12) | none
  bg0      : Int := 0       -- trim of BG0 | R383 (12) | 0, DC 5
  bg1      : Int := 0       -- trim of BG1 | R383 (12) | 0, DC 5
  dtcal    : Nat := 16      -- CAL_CTRL.DTCAL, 6 bits | CAL_CTRL (12) | 16
  auto     : Bool := true   -- CAL_CTRL.AUTO, RWL | CAL_CTRL (12) | 1
  calDone  : Nat := 0       -- CAL_DONE.COUNT, 32 bits saturating | CAL_DONE (12) | 0
  stopNow  : Bool := false  -- an immediate stop holds stitchers and engines | R387 (12) | 0
  drain    : List Nat := [] -- beats, by partition, whose message had arrived when a draining stop began and that have not started | R387 (12) | none
  startTick : Nat := 0      -- tick at which start-up step 7 ended | R449 (14) | 0
  startCal : Bool := false  -- start-up step 7 complete: every array calibrated since its trims were lost | R398, R449 (12, 14) | 0
  qsel     : Nat := 0       -- CAL_QSEL.ARRAY, 16 bits | CAL_QSEL (12) | 0
  deriving DecidableEq, Repr

/-! ### Power, clocks, reset -/

/-- BRAKE_N filter states (R442). -/
inductive Filter where
  | clear | braked | toggle
  deriving DecidableEq, Repr, Inhabited

/-- Power states (R434). -/
inductive PState where
  | run | idle | rest | dormant | off
  deriving DecidableEq, Repr, Inhabited

/-- A POWER_CAP_SET waiting under R446. -/
structure CapWait where
  src   : CmdSrc      -- command to reply to | R446 (14) | none
  words : List Nat    -- its packet | R446 (14) | none
  tick  : Nat         -- tick of its arrival | R446 (14) | none
  deriving DecidableEq, Repr

/-- The power region and the clocks. -/
structure Pwr where
  st       : PState := .run   -- power state; PWR_STAT.STATE | R434 (14) | RUN
  restEn   : Bool := true     -- PWR_CTRL.REST_EN | PWR_CTRL (14) | 1
  restDelay : Nat := 10       -- PWR_CTRL.REST_DELAY, 8 bits, ms | PWR_CTRL (14) | 10
  idleSince : Nat := 0        -- tick at which a condition of REST last did not hold | R436 (14) | 0
  restAt   : Nat := 0         -- tick at which REST was entered | R436 (14) | 0
  clkFloor : Nat := 800       -- CLK_CTRL.CLK_FLOOR, 10 bits, MHz | CLK_CTRL (14) | 800
  aclk     : Nat := 0         -- CLK_STAT.ACLK_MHZ, 10 bits | CLK_STAT (14) | 0 before the PLL locks, DC 7
  want     : Nat := 0         -- requested ACLK | R431 (14) | 0 before the PLL locks, DC 7
  capClk   : Nat := 800       -- the cap's clock, MHz | R440 (14) | 800
  capLow   : Nat := 0         -- consecutive rounds below 0.95 · CAP_W | R440 (14) | 0
  floorRaised : Bool := false -- CAP_FLOOR raised | R440 (14) | 0
  pllLock  : Bool := false    -- CLK_STAT.LOCK, fw | CLK_STAT (14) | 0 before the PLL locks, DC 7
  cxlRef   : Bool := true     -- CLK_STAT.CXL_REF, fw | R432 (14) | 1, DC 7
  lref0    : Bool := true     -- CLK_STAT.LREF0, fw | R432 (14) | 1, DC 7
  lref1    : Bool := true     -- CLK_STAT.LREF1, fw | R432 (14) | 1, DC 7
  tclkOk   : Bool := true     -- TCLK is good | R432 (14) | 1
  capW     : Nat := 550       -- PCAP.CAP_W, 10 bits | PCAP (14) | 550
  brakeW   : Nat := 200       -- PCAP.BRAKE_W, 10 bits | PCAP (14) | 200
  allowUs  : Nat := 0         -- PBRK.ALLOW_US, 14 bits | PBRK (14) | 0
  capWait  : List CapWait := [] -- POWER_CAP_SET commands waiting | R446 (14) | none
  filter   : Filter := .clear -- BRAKE_N filter | R442, R452 (14) | CLEAR
  brakeOn  : Option Nat := none -- tick at which the present episode began | R442 (14) | none
  episodes : List (Nat × Nat) := [] -- past braked intervals within the window: first tick, last tick + 1 | R444 (14) | none
  heldRaised : Bool := false  -- BRAKE_HELD raised in this episode | R442 (14) | 0
  beyond   : Bool := false    -- PWR_STAT.BEYOND | R444 (14) | 0
  brkCnt   : Nat := 0         -- BRK_CNT.COUNT, 32 bits saturating, RC | BRK_CNT (14) | 0
  meas     : Nat := 0         -- PWR_MEAS.POWER, 16 bits, 0.1 W | PWR_MEAS (14) | 0
  ev       : Nat := 0         -- PWR_EV bits [4:0], RW1C | PWR_EV (14) | 0
  phase    : Nat := 0         -- START_STAT.PHASE, 4 bits | R449 (14) | 0
  rebuilt  : Bool := false    -- start-up step 8 is over: the rebuild has ended | R329, R449 (10, 14) | 0
  last     : Nat := 0         -- START_STAT.LAST_RESET, 4 bits, kept | START_STAT (14) | 0 power-on
  railsOk  : Bool := false    -- every main rail valid (drives enabled) | R462 (15) | 0
  trip     : Bool := false    -- the fixed trip is latched; THERMTRIP_N driven low | R389 (12) | 0
  wakeN    : Bool := true     -- WAKE_N level | R439 (14) | 1 (released)
  chipHold : Bool := false    -- a chip reset is held until TCLK is good | R432 (14) | 0
  deriving DecidableEq, Repr

/-! ### Identity, tenancy, stores -/

/-- A firmware slot of the SPI flash (R407, R408). -/
structure FwSlot where
  version : Nat := 0x010000        -- version in the format of FW_VER | R408 (13) | 0x010000 as delivered, DC 6
  svn     : Nat := 0               -- SVN | R408 (13) | 0 as delivered, DC 6
  digest  : List Byte := []        -- image digest | R414 (13) | empty as delivered, DC 6
  deriving DecidableEq, Repr

/-- A copy of the layout record in the SPI flash (R322). -/
structure LayoutCopy where
  seq     : Nat := 0                   -- sequence number | R322 (10) | 0
  entries : List LayoutEnt := []       -- array entries in address order | R322 (10) | empty
  steps   : List (Nat × List (List Nat)) := [] -- step tables by partition | R322 (10) | empty
  manifests : List (Nat × List Byte) := [] -- manifests by partition | R322 (10) | empty
  deriving DecidableEq, Repr

/-- The record store and the SPI flash (R405, R407): what outlasts power. -/
structure Store where
  svnMin    : Nat := 0         -- SVN_MIN | R405, R411 (13) | 0 as delivered, DC 6
  bootSer   : Nat := 0         -- boot serial, 32 bits | R405 (13) | 0 as delivered, DC 6
  lock      : Bool := false    -- configuration LOCK | R405 (13) | 0 as delivered, DC 6
  image     : List Byte := []  -- image digest | R323 (10) | empty as delivered, DC 6
  seq       : Nat := 0         -- layout record sequence number | R323 (10) | 0 as delivered, DC 6
  copyB     : Bool := false    -- copy that holds the record | R323 (10) | A as delivered, DC 6
  tripFlag  : Bool := false    -- thermal trip flag | R389 (12) | 0 as delivered, DC 6
  mapA      : MapCopy := {}    -- repair map, copy A | R346, R405 (11, 13) | empty as delivered, DC 6
  mapB      : MapCopy := {}    -- repair map, copy B | R346, R405 (11, 13) | empty as delivered, DC 6
  recA      : LayoutCopy := {} -- layout record copy A | R322 (10) | empty as delivered, DC 6
  recB      : LayoutCopy := {} -- layout record copy B | R322 (10) | empty as delivered, DC 6
  prefB     : Bool := false    -- boot pointer: preferred slot | R407 (13) | A as delivered, DC 6
  slotA     : FwSlot := {}     -- firmware slot A | R407 (13) | version 0x010000, SVN 0, no digest, as delivered, DC 6
  slotB     : FwSlot := {}     -- firmware slot B | R407 (13) | version 0x010000, SVN 0, no digest, as delivered, DC 6
  cfgConf   : Bool := false    -- configuration block CONF | R410 (13) | 0 as delivered, DC 6
  cfgLock   : Bool := false    -- configuration block LOCK | R410 (13) | 0 as delivered, DC 6
  cfgJtag   : Bool := false    -- configuration block JTAG | R410 (13) | 0 as delivered, DC 6
  cfgUnlock : Bool := false    -- configuration block UNLOCK | R410 (13) | 0 as delivered, DC 6
  cfgTarget : Nat := 0         -- configuration block TARGET_ID | R410 (13) | 0 as delivered, DC 6
  deriving DecidableEq, Repr

/-- TDISP states of the one TDI (R415, R416). -/
inductive Tdi where
  | unlocked | locked | run | error
  deriving DecidableEq, Repr, Inhabited

/-- Stages of the end of a tenant (R423). -/
inductive Scrub where
  | none | scrubbing | filling | rebuilding
  deriving DecidableEq, Repr, Inhabited

/-- A SPDM session (R413). -/
structure Spdm where
  version   : Bool := false  -- GET_VERSION answered | R413 (13) | 0
  caps      : Bool := false  -- GET_CAPABILITIES answered | R413 (13) | 0
  algs      : Bool := false  -- algorithms negotiated | R413 (13) | 0
  exchanged : Bool := false  -- KEY_EXCHANGE answered, handshake open | R413 (13) | 0
  session   : Bool := false  -- session established | R413 (13) | 0
  keyGen    : Nat := 0       -- key updates of the session | R413 (13) | 0
  deriving DecidableEq, Repr

/-- Tenancy, keys and attestation. -/
structure Sec where
  idOk     : Bool := false    -- identity derived and checked | R402, R403 (13) | 0 before the boot ROM runs
  bootOk   : Bool := false    -- a firmware slot runs | R409 (13) | 0 before the boot ROM runs
  bootFail : Bool := false    -- BOOT_FAIL reported over MCTP | R409 (13) | 0
  idFail   : Bool := false    -- IDENTITY_FAIL reported over MCTP | R403 (13) | 0
  certOk   : Bool := false    -- the certificate names the identity key | R413 (13) | 0 before start-up checks it
  jtag     : Bool := false    -- full JTAG access | R410 (13) | 0
  runB     : Bool := false    -- slot B is the running slot | R409 (13) | A
  tenant   : Option Nat := none -- active tenant's TENANT_ID, 64 bits; MODE.TENANT | R422 (13) | none
  viaTrust : Bool := false    -- the trusted path opened the tenant | R422 (13) | 0
  tdi      : Tdi := .unlocked -- TDISP state; MODE.TRUSTED = RUN | R415 (13) | CONFIG_UNLOCKED
  ideKeys  : List Nat := []   -- IDE streams with keys programmed | R415 (13) | none
  spdm     : Spdm := {}       -- SPDM state | R413 (13) | no session
  devKeys  : Option Nat := none -- device keys: generation | R421 (13) | none
  tenKeys  : Option Nat := none -- tenant keys: generation | R421 (13) | none
  keyGen   : Nat := 0         -- key generations set so far | R421 (13) | 0
  wrapCnt  : Nat := 0         -- saddlebag blocks written under the tenant key, 64 bits | R421 (13) | 0
  trngOk   : Bool := true     -- the generator's health tests pass | R420 (13) | 1
  scrub    : Scrub := .none   -- stage of a tenant's end | R423 (13) | none
  scrubSrc : Option CmdSrc := none -- TENANT_END waiting for its reply | R423 (13) | none
  scrubPkt : List Nat := []   -- its packet | R423 (13) | none
  scrubWhy : Nat := 0         -- cause of TENANT_ENDED | R424 (13) | 0
  scrubHad : Bool := false    -- the scrub ends a tenant, so TENANT_ENDED follows | R423, R424 (13) | 0
  svnRun   : Nat := 0         -- SVN of the running firmware | R409 (13) | 0 before the boot ROM runs
  deriving DecidableEq, Repr

/-! ### What leaves the device -/

/-- A rein message (R256). -/
inductive Rein where
  | grant (port dbuf epoch : Nat)
  | claim (m : ClaimMsg)
  | refuse (handle : Nat)
  | release (handle : Nat) (undo : Bool)
  | commit (handle newL : Nat)
  | stop (k : StopKind)
  | restart (epoch : Nat) (chipReset : Bool)
  | peerDown (gpos : Nat)
  | linkUp (gpos : Nat)
  | flush
  | check (commits : List (Nat × Nat)) (ended : List Nat)
  | report (gpos boot state : Nat) (intact : Bool)
  | releaseHalt (epoch : Nat)
  | ready
  | hk (perm chunk : Nat)
  | swap (us : Nat)
  | peerMbx (gpos dst : Nat) (m : PeerMsg)
  | mbxNak (gpos : Nat) (m : PeerMsg)
  deriving DecidableEq, Repr

/-- What leaves the device, in order. A girth's message appears as the port takes it (`link`, `rein`, `verdict` …), and as flits (`flit`: the 64-bit
header and the payload before encryption, R238) once R241 and the credits of R242 let them go. `tee` marks a request of the trusted stream (R417);
pool blocks (`poolWrite`, `poolRead`) and MCTP messages go outside it. -/
inductive Out where
  | hostWrite (addr : Nat) (data : List Byte) (tee : Bool)
  | hostRead (addr bytes : Nat) (tee : Bool)
  | msix (vector : Nat)
  | readData (offset value : Nat)
  | busError
  | aer (offset : Nat)
  | rein (p : Nat) (m : Rein)
  | link (port girth dbuf : Nat) (hdr : VecHdr) (body : Payload)
  | hello (port : Nat) (h : Hello)
  | round (p step : Nat) (stages : List Figures) (slots resPos resCount hret : Nat) (ok : Bool) (gpos : Nat) (boots : List (Nat × Nat))
  | hopBound (port ticks : Nat)
  | xin (port dbuf cycles : Nat)
  | go (p tGap : Nat)
  | flit (port header : Nat) (payload : List Byte)
  | nak (port : Nat) (ack : Option Nat)
  | resend (port : Nat) (seqs : List Nat)
  | ready (port girth : Nat)
  | draft (p : Nat) (d : DraftRec)
  | verdict (p : Nat) (v : VerdictMsg)
  | faultAbort (p handle : Nat)
  | poolWrite (p handle addr : Nat) (data : List Byte)
  | poolRead (p handle blocks : Nat)
  | doe (what : Nat) (data : List Byte)
  | mctp (what : Nat) (data : List Byte)
  | jtag (value : Nat)
  | stagingLine (line : Nat) (data : List Byte)
  | backInvalidate (line : Nat)
  deriving DecidableEq, Repr

/-! ### The machine -/

/-- The state of one C16. -/
structure State where
  pending  : List Instr := []    -- commands waiting, first in first out | the block's queue (model's own, log 1) | empty
  out      : List Out := []      -- what has left the device, oldest first | model's own (log 1) | empty
  free     : Nat := 0            -- free values drawn so far | model's own (log 3) | 0, DC 3
  tick     : Nat := 0            -- TICK, always-on counter, 64 bits, kept | R167 (06) | 0
  host     : HostIf := {}        -- host interface | 09 | reset values
  ev       : EvRegs := {}        -- events and errors | 11 | reset values
  ledger   : Tbl Entry := []     -- ledger entries by index | R105, R167 (04, 06) | all FREE
  ext      : Tbl Ext := []       -- ledger extensions by index | R169 (06) | none
  wear     : Tbl Wear := []      -- wear counts by index | R209 (07) | none
  parts    : Tbl Part := []      -- partitions 0–15 | R3 (00) | none defined
  girths   : Tbl Girth := []     -- girths by partition | R248 (08) | all UNSET
  ports    : Tbl Port := []      -- Luawin ports 0–7 | R236 (08) | reset values
  tiles    : Tbl Tile := []      -- tiles: cluster · 64 + tile | R72 (03) | reset values
  arrays   : Tbl Arr := []       -- arrays by global address | R2 (00) | reset values
  clusters : Tbl Cluster := []   -- clusters 0–15 | R101 (04) | reset values
  fabric   : List Copy := []     -- message copies on the fabric | R124 (04) | none
  mesh     : List MeshMsg := []  -- messages on the mesh, and so the routers' input buffers | R114–R116 (04) | none
  kvWr     : List KvWr := []     -- KV writes whose flits have not arrived | R128 (04) | none
  spill    : List Host.Cell := [] -- spill regions: cluster · 2^24 + offset; unlisted bytes read 0 (the fill, R423) | R103, R104 (04) | zero
  kv       : List Host.Cell := [] -- KV bytes: tier and cluster · 2^40 + address; unlisted bytes hold nothing written | R143 (05) | nothing written
  staging  : List Host.Cell := [] -- staging window bytes by offset | R273 (09) | nothing written
  stackCopy : Tbl (Tbl Nat) := [] -- stack copy of the image: logical rows by array | R321 (10) | lost
  sums     : Tbl (Tbl Int) := [] -- known-sum area: signed bytes by array and by offset 1,792 k + 256 j + c, unlisted 0 | R326 (10) | lost
  shards   : Tbl (Bool × List Byte) := [] -- shard store: FP8 flag and bytes by SHARD_ID | R309 (10) | empty
  store    : Store := {}         -- record store and SPI flash | R405, R407 (13) | as delivered
  hk       : Hk := {}            -- housekeeping and calibration regions | 12 | reset values
  pwr      : Pwr := {}           -- power region | 14 | reset values
  sec      : Sec := {}           -- identity, tenancy, attestation | 13 | reset values
  deriving DecidableEq, Repr

/-- The machine right after a power-on reset, before start-up has run (R9, R447, R449): every register at its Reset
value, nothing listed in any memory, the queue empty. -/
def State.reset : State := {}

end Sys2Proof.Machine
end

