-- ==== Sys2Proof/Machine/Wire.lean ====
section
/-!
DEFINITION. What the shared operations stand on: sparse tables, bytes and words (R5), the form of blocks, headers, flits and messages on a
wire (R48, R54, R238, R240, R245, R255), the links of a girth (R231, R256), and the choice of a port's next flit (R241, R242).
-/

namespace Sys2Proof.Machine

open Sys2Proof

/-! ### Sparse tables -/

/-- What a table lists at a key. -/
def find? {α : Type} (k : Nat) : Tbl α → Option α
  | [] => none
  | (k', v) :: t => if k = k' then some v else if k < k' then none else find? k t

/-- What a table holds at a key, `d` where nothing is listed. -/
def getD {α : Type} (d : α) (k : Nat) (t : Tbl α) : α := (find? k t).getD d

/-- A table with a value listed at a key, keys kept strictly rising. -/
def put {α : Type} (k : Nat) (v : α) : Tbl α → Tbl α
  | [] => [(k, v)]
  | (k', v') :: t =>
    if k < k' then (k, v) :: (k', v') :: t
    else if k = k' then (k, v) :: t
    else (k', v') :: put k v t

/-- A table without a key. -/
def del {α : Type} (k : Nat) : Tbl α → Tbl α
  | [] => []
  | (k', v') :: t => if k = k' then t else if k < k' then (k', v') :: t else (k', v') :: del k t

/-- Keys strictly rising. -/
def sortedKeys {α : Type} : Tbl α → Bool
  | [] => true
  | [_] => true
  | (k, _) :: (k', v') :: t => k < k' && sortedKeys ((k', v') :: t)

/-! ### Bytes and words -/

/-- The byte `i` of a number, little-endian (R5). -/
def byteOf (n i : Nat) : Byte := BitVec.ofNat 8 (n / 2 ^ (8 * i))

/-- A number as `k` bytes, little-endian (R5). -/
def leBytes (k n : Nat) : List Byte := (List.range k).map (byteOf n)

/-- A little-endian number from bytes (R5). -/
def leNat : List Byte → Nat
  | [] => 0
  | b :: bs => b.toNat + 256 * leNat bs

/-- 32-bit words as bytes, little-endian (R5). -/
def wordBytes (ws : List Nat) : List Byte := ws.flatMap (leBytes 4)

/-- The 32-bit word `i` of a byte string, zero beyond its end (R5). -/
def wordAt (bs : List Byte) (i : Nat) : Nat := leNat ((bs.drop (4 * i)).take 4)

/-! ### Blocks and headers as bytes (R48, R54, R92) -/

/-- Element `i` of a block: its byte in N8 form. -/
def blockElem (b : Block) (i : Nat) : Nat := (b.elems.getD i 0).toNat

/-- A block as its bytes: header word, then the elements of its format (R48). -/
def blockBytes (b : Block) : List Byte :=
  leBytes 4 (b.e8 + 2 ^ 8 * b2n b.n8 + 2 ^ 9 * b2n b.fb + 2 ^ 16 * b.sat + 2 ^ 24 * b.zero) ++
    if b.n8 then (List.range 128).map (fun i => b.elems.getD i 0)
    else (List.range 64).map (fun i =>
      let nib (k : Nat) := let e := blockElem b k; (if e ≥ 128 then 8 else 0) + e % 8
      BitVec.ofNat 8 (nib (2 * i) + 16 * nib (2 * i + 1)))

/-- The words of a vector header (R54, R92). -/
def hdrWords (h : VecHdr) : List Nat :=
  [h.eref + 2 ^ 8 * h.blocks + 2 ^ 18 * b2n h.part, h.handle,
   h.pos + 2 ^ 24 * h.slot + 2 ^ 30 * b2n h.last, h.budget]

/-! ### Links of a girth (R231, R233, R256) -/

/-- The stage of a position. -/
def Record.stageOf (r : Record) (g : Nat) : Nat := ((r.members[g]?).map (·.stage)).getD 0

/-- A link of this device. -/
structure MyLink where
  port     : Nat
  peer     : Nat
  peerPort : Nat
  use      : Nat
  cable    : Nat
  up       : Bool
  deriving DecidableEq, Repr

/-- The links that end at this device; `up` where it is end A, the upstream end. -/
def Record.mine (r : Record) : List MyLink :=
  r.links.filterMap (fun l =>
    if l.gposA = r.gpos then some ⟨l.portA, l.gposB, l.portB, l.use, l.cable, true⟩
    else if l.gposB = r.gpos then some ⟨l.portB, l.gposA, l.portA, l.use, l.cable, false⟩
    else none)

/-- The DEVICE_ID at a position. -/
def Record.deviceAt (r : Record) (g : Nat) : Nat := ((r.members[g]?).map (·.deviceId)).getD 0

/-- Another position's primary upstream link: of its RING links, the one from the lowest position, by that device's lowest port (R231). -/
def Record.primaryOf (r : Record) (g : Nat) : Option GLink :=
  (r.links.filter (fun l => l.use = 1 && l.gposB = g)).foldl (fun (best : Option GLink) l => match best with
    | none => some l
    | some b => if l.gposA < b.gposA ∨ (l.gposA = b.gposA ∧ l.portA < b.portA) then some l else some b) none

/-- The pommel's primary upstream link is the RETURN link (R231); every other device's leads up the rein tree. -/
def Record.upPort (r : Record) : Option Nat :=
  if r.gpos = 0 then (r.mine.find? (fun l => l.use = 2 && !l.up)).map (·.port) else (r.primaryOf r.gpos).map (·.portB)

/-- The ports of this device's children in the rein tree (R231). -/
def Record.childPorts (r : Record) : List Nat :=
  (r.links.filter (fun l => l.use = 1 && l.gposA = r.gpos && decide (r.primaryOf l.gposB = some l))).map (·.portA)

/-- The port of the child whose subtree holds position `d` (R231). -/
def Record.childTo (r : Record) : Nat → Nat → Option Nat
  | 0, _ => none
  | n + 1, d => match r.primaryOf d with
    | none => none
    | some l => if l.gposA = r.gpos then some l.portA else r.childTo n l.gposA

/-- Where a rein message goes (R256). -/
inductive ReinTo where
  | up | down | peer (gpos : Nat)
  deriving DecidableEq, Repr

/-- A message passes from the pommel down the tree, or up to it (R256): a grant goes to the device that feeds the port, and a peer mailbox
message's answer to its sender. -/
def Record.reinTo (r : Record) (m : Rein) : ReinTo :=
  match m with
  | .grant port .. => match r.mine.find? (fun l => l.port = port) with
    | some l => .peer l.peer
    | none => .up
  | .mbxNak gpos _ => .peer gpos
  | .peerMbx _ dst _ => .peer dst
  | .refuse _ | .peerDown _ | .linkUp _ | .report .. | .ready | .stop .stopped | .hk .. => .up
  | .claim _ | .release .. | .commit .. | .stop _ | .restart .. | .flush | .check .. | .releaseHalt _ | .swap _ => .down

/-- The ports on which a device sends a rein message; `lost` the ports whose link is DOWN: a way up that is lost turns down the tree and
over the RETURN link (R256). -/
def Record.reinPorts (r : Record) (lost : Nat → Bool) (to_ : ReinTo) : List Nat :=
  let up : List Nat :=
    if r.gpos = 0 then []
    else match r.upPort with
      | none => []
      | some q =>
        if ¬ lost q then [q]
        else if r.gpos + 1 = r.n then ((r.mine.find? (fun l => l.use = 2 && l.up)).map (·.port)).toList
        else (r.childTo r.stages (r.n - 1)).toList
  match to_ with
  | .up => up
  | .down => r.childPorts
  | .peer d => if d = r.gpos then [] else match r.childTo r.stages d with
    | some q => [q]
    | none => up

/-- The port over which draft records reach the lowest device of the next stage (R255): its lowest RING link to it. -/
def Record.draftPort (r : Record) : Option Nat :=
  let next := (List.range r.n).find? (fun g => r.stageOf g = r.stageOf r.gpos + 1)
  (r.mine.filter (fun l => l.use = 1 && l.up && some l.peer == next)).foldl (fun (best : Option Nat) l => match best with
    | none => some l.port
    | some b => some (min b l.port)) none

/-! ### Messages as flits (R238–R240) -/

/-- The header of a flit as its 64 bits (R238). -/
def flitHeader (f : Flit) : Nat :=
  f.cls + 2 ^ 3 * b2n f.som + 2 ^ 4 * b2n f.eom + 2 ^ 8 * f.seq + 2 ^ 20 * f.ack + 2 ^ 32 * b2n f.av + 2 ^ 33 * b2n f.nak +
    2 ^ 34 * f.cclass + 2 ^ 37 * f.ccount + 2 ^ 45 * f.girth + 2 ^ 49 * f.epoch + 2 ^ 53 * f.len

/-- A message header (R240): BYTES counts what follows it. -/
def msgHeader (kind dbuf src dst n : Nat) : List Byte := leBytes 4 (kind + 2 ^ 8 * dbuf + 2 ^ 16 * src + 2 ^ 24 * dst) ++ leBytes 4 n ++ leBytes 8 0

/-- A flit that carries one piece of a message and nothing else yet. -/
def newFlit (cls girth epoch : Nat) (som eom : Bool) (len : Nat) : Flit :=
  { cls, som, eom, seq := 0, ack := 0, av := false, nak := false, cclass := 0, ccount := 0, girth, epoch, len, tagOk := true }

/-- The flits of a message, 240 payload bytes each (R238, R240). -/
def msgFlits (cls girth epoch : Nat) (bytes : List Byte) : List TxFlit :=
  let n := ceilDiv bytes.length 240
  (List.range n).map (fun i =>
    let d := (bytes.drop (240 * i)).take 240
    { hdr := newFlit cls girth epoch (i = 0) (i + 1 = n) d.length, data := d })

/-- A message's body: vector header, then each block, a zero block as its header alone, or the 128 tallies (R84, R240). -/
def bodyOf (hdr : VecHdr) (body : Payload) : List Byte :=
  wordBytes (hdrWords hdr) ++ match body with
    | .blocks bs => bs.flatMap (fun b => if b.e8 = 0 then (blockBytes b).take 4 else blockBytes b)
    | .tally lanes => (List.range 128).flatMap (fun i => leBytes 8 (BitVec.ofInt 64 (lanes.getD i 0)).toNat)

/-- The class of a PATH 7 message (R239). -/
def bodyClass (dbuf : Nat) (body : Payload) : Nat :=
  match body with
  | .tally _ => 2
  | .blocks _ => if dbuf ≤ 27 then 3 else 4

/-- A hello's body (R245). -/
def helloBytes (h : Hello) : List Byte :=
  leBytes 8 h.deviceId ++ leBytes 1 h.port ++ leBytes 1 h.entries.length ++ leBytes 2 h.hseq ++ leBytes 4 h.boot ++ leBytes 2 h.echoSeq ++
    leBytes 1 (b2n h.echoV) ++ leBytes 1 0 ++ leBytes 4 h.hold ++
    h.entries.flatMap (fun e => leBytes 1 e.ledger ++ leBytes 1 e.gpos ++ leBytes 1 e.state ++ leBytes 1 e.beatSlots ++ leBytes 4 e.resPos ++
      leBytes 4 e.resCount ++ leBytes 4 0 ++ (List.range 8).map (fun i => e.digest.getD i 0))

/-- A draft record's body (R255): 16 bytes of HANDLE, d_eff and the class, then per position the token and, for class S, its 32 pairs of
token ID and q. -/
def draftBytes (d : DraftRec) : List Byte :=
  wordBytes [d.handle, d.toks.length, b2n d.classS, 0] ++ d.toks.flatMap (fun x => leBytes 4 x.1 ++
    if d.classS then (List.range 32).flatMap (fun i => let y := x.2.getD i (0, 0); leBytes 4 y.1 ++ leBytes 4 y.2) else [])

/-- FREE VALUE: byte `i` of the body of a message that R240 does not lay out: a rein message, a verdict, start-round figures (log 131). -/
opaque wireByte : Out → Nat → Byte

/-- The body of a message that R240 does not lay out: `n` bytes that the model leaves free (log 131). -/
def freeBody (o : Out) (n : Nat) : List Byte := (List.range n).map (wireByte o)

/-! ### Credits and a port's next flit (R241, R242) -/

/-- The credits of a class that a port grants (R242): 32 REIN and 16 MGMT shared, and per girth TOKEN 16, TALLY 128, ACT 384,
KV 128. -/
def poolSize (cls : Nat) : Nat :=
  match cls with
  | 0 => 32 | 1 => 16 | 2 => 128 | 3 => 384 | 4 => 128 | 5 => 16
  | _ => 0

/-- The key of a credit pool: REIN and MGMT are shared by all girths (R242). -/
def poolKey (girth cls : Nat) : Nat := if cls = 0 ∨ cls = 5 then cls else girth * 8 + cls

/-- A message may send its next flit (R232, R242): a credit of its pool is free, and its girth's hello has passed unless it is MGMT. -/
def Port.sendable (q : Port) (m : TxMsg) : Bool :=
  decide (getD 0 (poolKey m.girth m.cls) q.txUsed < poolSize m.cls) && (m.cls = 5 || bit q.girths m.girth)

/-- The messages that may send now, by their place in the queue: the first of each girth and class, since those do not interleave (R241). -/
def Port.heads (q : Port) : List (Nat × TxMsg) :=
  ((List.range q.txQ.length).filterMap (fun i => (q.txQ[i]?).map (fun m => (i, m)))).filter (fun x =>
    q.sendable x.2 && !(q.txQ.take x.1).any (fun m => m.girth = x.2.girth && m.cls = x.2.cls))

/-- The message whose flit goes next (R241): REIN, 1 in 16; MGMT, at least 1 in 256; else the next girth in turn, its classes in the order
TOKEN, TALLY, ACT, KV, MGMT. -/
def Port.pick (q : Port) : Option (Nat × TxMsg) :=
  let hs := q.heads
  let rein := hs.find? (fun x => x.2.cls = 0)
  let mgmt := hs.find? (fun x => x.2.cls = 5)
  let rest := hs.filter (fun x => x.2.cls ≠ 0)
  if rein.isSome ∧ 15 ≤ q.sinceRein then rein
  else if mgmt.isSome ∧ 255 ≤ q.sinceMgmt then mgmt
  else rest.foldl (fun (best : Option (Nat × TxMsg)) x =>
    let turn (m : TxMsg) : Nat := ((m.girth + 16 - q.lastGirth) % 17) * 8 + m.cls
    match best with
    | none => some x
    | some b => if turn x.2 < turn b.2 then some x else some b) none

/-- The credits that a flit of girth `girth` returns (R238, R242): the first pool owed that is its girth's or shared. -/
def Port.owedTo (q : Port) (girth : Nat) : Option (Nat × Nat) :=
  q.owed.find? (fun x => x.1 = 0 || x.1 = 5 || x.1 / 8 = girth)

/-- A flit takes its acknowledgement, its NAK and the credits it returns (R238, R242, R243). -/
def Port.stamp (q : Port) (f : Flit) : Flit × Port :=
  let c := q.owedTo f.girth
  let (k, n) := c.getD (0, 0)
  let n := min n 255
  let left := (getD 0 k q.owed) - n
  ({ f with ack := q.lastGood.getD 0xFFF, av := q.lastGood.isSome, nak := q.nakDue, cclass := k % 8, ccount := n },
   { q with nakDue := false, owed := if c.isNone then q.owed else if left = 0 then del k q.owed else put k left q.owed })

/-- A flit goes out for the first time (R238, R241–R244, R419): it takes the next SEQ and a credit, the replay buffer keeps it, and the
key counts it. -/
def Port.sendFlit (q : Port) (tick : Nat) (f : TxFlit) : TxFlit × Port :=
  let (h, q) := q.stamp { f.hdr with seq := q.seqNext }
  let f : TxFlit := { f with hdr := h }
  let k := poolKey h.girth h.cls
  let buf := q.replayBuf ++ [h.seq]
  (f, { q with seqNext := (q.seqNext + 1) % 4096, replayBuf := buf.drop (buf.length - 1024), sent := put h.seq f q.sent
               txCount := (q.txCount + 1) % 2 ^ 64, ackTick := if q.replayBuf.isEmpty then tick else q.ackTick
               txUsed := put k (getD 0 k q.txUsed + 1) q.txUsed
               sinceRein := if h.cls = 0 then 0 else q.sinceRein
               sinceMgmt := if h.cls = 5 then 0 else q.sinceMgmt
               lastGirth := if h.cls = 0 then q.lastGirth else h.girth })

/-- A message of the queue without its first flit. -/
def dropFlit (i : Nat) (qs : List TxMsg) : List TxMsg :=
  match qs[i]? with
  | some m => if m.flits.length ≤ 1 then qs.eraseIdx i else qs.set i { m with flits := m.flits.drop 1 }
  | none => qs

/-- A flit slot passes (R237, R241). -/
def Port.slot (q : Port) : Port :=
  { q with slots := q.slots + 1, sinceRein := min 15 (q.sinceRein + 1), sinceMgmt := min 255 (q.sinceMgmt + 1) }

/-- What a port sends in its next `n` flit slots (R241, R242): a flit that is resent goes ahead of every new one, a REIN flit beyond its
share waits for its slot, and a port with nothing to send stops. -/
def Port.pump (tick : Nat) : Nat → Port → List TxFlit × Port
  | 0, q => ([], q)
  | n + 1, q => match q.resend with
    | k :: ks =>
      let (fs, q') := Port.pump tick n { q.slot with resend := ks, replaying := !ks.isEmpty }
      ((find? k q.sent).toList ++ fs, q')
    | [] => match q.pick with
      | some (i, m) => match m.flits with
        | [] => Port.pump tick n { q with txQ := q.txQ.eraseIdx i }
        | f :: _ =>
          let (f, q') := q.slot.sendFlit tick f
          let (fs, q'') := Port.pump tick n { q' with txQ := dropFlit i q.txQ }
          (f :: fs, q'')
      | none => if q.heads.isEmpty then ([], q) else Port.pump tick n q.slot

/-- An IDLE flit for each pool whose credits are still owed, or one for an acknowledgement (R238, R242). -/
def Port.idle : Nat → Port → List TxFlit × Port
  | 0, q => ([], q)
  | n + 1, q =>
    let g := match q.owed.head? with
      | some x => if x.1 = 0 ∨ x.1 = 5 then 0 else x.1 / 8
      | none => 0
    let (h, q') := q.stamp { newFlit 6 g 0 false false 0 with seq := q.seqNext }
    if q'.owed.isEmpty then ([⟨h, []⟩], q')
    else
      let (fs, q'') := Port.idle n q'
      (⟨h, []⟩ :: fs, q'')

/-- The link of a port carries flits: trained and keyed (R236, R419). -/
def Port.carries (q : Port) : Bool := q.keyed && (q.st = .hello || q.st = .up)

end Sys2Proof.Machine
end

