-- ==== Sys2Proof/Machine/Ops.lean ====
section
/-!
DEFINITION. The named operations over the state: byte memories, the units of the device, outputs, events,
free values and replies. Every meaning is written over these.
-/

namespace Sys2Proof.Machine

/-! ### Byte memories -/

/-- A byte memory: addresses strictly rising. -/
abbrev Memory := List Host.Cell

/-- What a memory lists at an address: none where nothing has been written. -/
def Memory.read (m : Memory) (a : Nat) : Option Byte := find? a m

/-- A memory with one byte written. -/
def Memory.write (m : Memory) (a : Nat) (b : Byte) : Memory := put a b m

/-- A memory with `data` written from an address upwards. -/
def Memory.writeAll (m : Memory) (a : Nat) : List Byte → Memory
  | [] => m
  | b :: bs => Memory.writeAll (Memory.write m a b) (a + 1) bs

/-- A zero-filled memory (R423's fill): an unlisted byte reads zero, and zero is never listed. -/
def Memory.readZ (m : Memory) (a : Nat) : Byte := getD 0 a m

/-- A zero-filled memory with one byte written: a zero removes the entry. -/
def Memory.writeZ (m : Memory) (a : Nat) (b : Byte) : Memory := if b = 0 then del a m else put a b m

/-- A zero-filled memory with `data` written from an address upwards. -/
def Memory.writeAllZ (m : Memory) (a : Nat) : List Byte → Memory
  | [] => m
  | b :: bs => Memory.writeAllZ (Memory.writeZ m a b) (a + 1) bs

/-- The canonical form of a memory whose unlisted bytes hold nothing: addresses strictly rising. -/
def Memory.wf (m : Memory) : Bool := sortedKeys m

/-- The canonical form of a zero-filled memory: addresses strictly rising, no zero listed. -/
def Memory.wfZ (m : Memory) : Bool := sortedKeys m && m.all (fun c => c.2 ≠ 0)

/-- A byte that reads as a free value where nothing has been written (R147, R273; log 3). -/
def Memory.readFree (m : Memory) (a : Nat) : Byte := (Memory.read m a).getD (Config.unwrittenByte a)

/-- The word `i` of a list of words, zero beyond its end. -/
def nthW (ws : List Nat) (i : Nat) : Nat := ws.getD i 0

/-- A double word from words `i` and `i + 1`. -/
def dword (ws : List Nat) (i : Nat) : Nat := nthW ws i + 2 ^ 32 * nthW ws (i + 1)

/-- Bytes of host memory as a command finds them. -/
def hostBytes (h : HostMem) (a n : Nat) : List Byte :=
  (List.range n).map (fun i => ((h.find? (fun c => c.1 = a + i)).map (·.2)).getD 0)

/-! ### Units of the device -/

/-- Ring block `b`, 16 the management block (R278). -/
def State.ring (s : State) (b : Nat) : Ring := getD {} b s.host.rings
def State.setRing (s : State) (b : Nat) (r : Ring) : State := { s with host := { s.host with rings := put b r s.host.rings } }
/-- Mailbox `m`: 0–3 host to firmware, 4–7 their mirrors (R301). -/
def State.mbx (s : State) (m : Nat) : Mbx := getD {} m s.host.mbx
def State.setMbx (s : State) (m : Nat) (x : Mbx) : State := { s with host := { s.host with mbx := put m x s.host.mbx } }
/-- Partition `p` (R3). -/
def State.part (s : State) (p : Nat) : Part := getD {} p s.parts
def State.setPart (s : State) (p : Nat) (x : Part) : State := { s with parts := put p x s.parts }
/-- The girth of partition `p` (R3, R248). -/
def State.girth (s : State) (p : Nat) : Girth := getD {} p s.girths
def State.setGirth (s : State) (p : Nat) (x : Girth) : State := { s with girths := put p x s.girths }
/-- Luawin port `p` (R236). -/
def State.port (s : State) (p : Nat) : Port := getD {} p s.ports
def State.setPort (s : State) (p : Nat) (x : Port) : State := { s with ports := put p x s.ports }
/-- Tile `t` = cluster · 64 + tile (R1). -/
def State.tile (s : State) (t : Nat) : Tile := getD {} t s.tiles
def State.setTile (s : State) (t : Nat) (x : Tile) : State := { s with tiles := put t x s.tiles }
/-- Array `a`, a global array address (R2). -/
def State.arr (s : State) (a : Nat) : Arr := getD {} a s.arrays
def State.setArr (s : State) (a : Nat) (x : Arr) : State := { s with arrays := put a x s.arrays }
/-- Cluster `c` (R101). -/
def State.cluster (s : State) (c : Nat) : Cluster := getD {} c s.clusters
def State.setCluster (s : State) (c : Nat) (x : Cluster) : State := { s with clusters := put c x s.clusters }
/-- Ledger entry `i` (R167). -/
def State.entry (s : State) (i : Nat) : Entry := getD {} i s.ledger
def State.setEntry (s : State) (i : Nat) (x : Entry) : State := { s with ledger := put i x s.ledger }
/-- Ledger extension `i` (R169). -/
def State.extn (s : State) (i : Nat) : Ext := getD {} i s.ext
def State.setExt (s : State) (i : Nat) (x : Ext) : State := { s with ext := put i x s.ext }
/-- The repair map in force: the copy with the higher sequence number (R346, R405). -/
def State.repairMap (s : State) : Tbl Repair := if s.store.mapA.seq < s.store.mapB.seq then s.store.mapB.map else s.store.mapA.map
/-- The repair-map entry of array `a` (R346). -/
def State.repair (s : State) (a : Nat) : Repair := getD {} a s.repairMap
/-- The map has no room for an entry of array `a`: it holds 8,190 (R346). -/
def State.mapFull (s : State) (a : Nat) : Bool := (find? a s.repairMap).isNone && s.repairMap.length ≥ 8190
/-- The repair map is written, copy A and then copy B, under the next sequence number (R346, R405). It holds an entry for an array that has
any repair, and none for another; a new entry that finds no room is not written. -/
def State.setRepair (s : State) (a : Nat) (r : Repair) : State :=
  if r = s.repair a ∨ s.mapFull a then s
  else
    let c : MapCopy := { seq := (max s.store.mapA.seq s.store.mapB.seq + 1) % 2 ^ 64
                         map := if r = {} then del a s.repairMap else put a r s.repairMap }
    { s with store := { s.store with mapA := c, mapB := c } }

/-- MODE.TRUSTED: 1 exactly while the TDI is in RUN (R415). -/
def State.trusted (s : State) : Bool := s.sec.tdi = .run

/-- The device is READY: rings fetch and commands are carried out (R449). -/
def State.isReady (s : State) : Bool := s.pwr.phase = 4

/-- Whether array `a` has been calibrated since its trims were last lost (R398). -/
def State.calOk (s : State) (a : Nat) : Bool := (s.arr a).calOk || s.hk.startCal

/-- Array `a` is triggered: by its own last calibration, or with its cluster's arrays since start-up; before their first
calibration all are (R391, R398). So CAL_STAT.PENDING reads 65,536 and CAL_QRES.PEND 1 before start-up step 7, where their Reset column says 0:
R398 triggers every array, and R9 gives the column for the same moment (DESIGN CHOICE, log 134). -/
def State.calPending (s : State) (a : Nat) : Bool :=
  if (s.arr a).calOk then (s.arr a).calPend else !s.hk.startCal || (s.cluster (a / 4096)).startTrig

/-- The tick at which array `a`'s last calibration completed (R392). -/
def State.calTick (s : State) (a : Nat) : Nat := if (s.arr a).calOk then (s.arr a).calTick else s.hk.startTick

/-- The clusters of a partition, ascending (R3, R120). -/
def Part.clusterList (p : Part) : List Nat := (List.range 16).filter (bit p.clusters)

/-- A partition exists (R3). -/
def Part.defined (p : Part) : Bool := p.clusters ≠ 0

/-- The tiles of a partition, ascending. -/
def Part.tileList (p : Part) : List Nat :=
  p.clusterList.flatMap (fun c => (List.range 64).map (fun t => c * 64 + t))

/-- The partition that owns cluster `c` (R3), 16 where none does. -/
def State.partOfCluster (s : State) (c : Nat) : Nat :=
  ((List.range 16).find? (fun p => bit (s.part p).clusters c)).getD 16

/-- The partition that owns tile `t`, 16 where none does. -/
def State.partOfTile (s : State) (t : Nat) : Nat := s.partOfCluster (t / 64)

/-- The global array address of array `a` of tile `t` (R2). -/
def arrayAddr (t a : Nat) : Nat := t * 64 + a

/-! ### Outputs, events, free values -/

/-- Something leaves the device. -/
def State.emit (s : State) (o : Out) : State := { s with out := s.out ++ [o] }

/-- A free value: nothing constrains it, and the counter moves on (log 3). -/
def State.draw (s : State) : Nat × State := (Config.freeNat s.free, { s with free := s.free + 1 })

/-- An MSI-X vector is due; MSIX_RAISE sends it (R282). -/
def State.dueVector (s : State) (v : Nat) : State :=
  if v ∈ s.host.vecRaised then s else { s with host := { s.host with vecRaised := s.host.vecRaised ++ [v] } }

/-- A log of at most 1,024 records takes a new one (R293). -/
def logPush (log : List Event) (e : Event) : Option (List Event) :=
  if log.length < 1024 then some (log ++ [e])
  else if e.sev ≥ 2 then
    match log.findIdx? (fun x => x.sev ≤ 1) with
    | some i => some (log.eraseIdx i ++ [e])
    | none => none
  else none

/-- An event is raised (R293): it is stamped with TICK and logged, and vector 1 is due when the log was empty. -/
def State.raise (s : State) (code sev : Nat) (part : Option Nat := none) (lkind loc detail handle : Nat := 0) : State :=
  let e : Event := { code, sev, part, lkind, handle, tick := s.tick, loc, detail }
  let s' := if s.ev.log.isEmpty then s.dueVector 1 else s
  match logPush s.ev.log e with
  | some l => { s' with ev := { s'.ev with log := l } }
  | none => { s' with ev := { s'.ev with dropped := s'.ev.dropped + 1 } }

/-- An event has set bit `i` of the RW1C register at BAR0 offset `off` in this tick (R10). -/
def State.noteBit (s : State) (off i : Nat) : State :=
  if s.ev.fresh.contains (off, i) then s else { s with ev := { s.ev with fresh := s.ev.fresh ++ [(off, i)] } }

/-- A write of `v` to the RW1C register at `off` clears bit `i` (R8), unless an event has set it in the same tick (R10). -/
def State.clears (s : State) (off v i : Nat) : Bool := bit v i && !s.ev.fresh.contains (off, i)

/-- The RW1C register at `off` holding `x` after a write of `v` (R8, R10). -/
def State.rw1c (s : State) (off x v : Nat) : Nat := ((List.range 32).map (fun i => if bit x i && !s.clears off v i then 2 ^ i else 0)).sum

/-- Bit `i` of ERR_SUM is set ("Checking", ERR_SUM). -/
def State.errSum (s : State) (i : Nat) : State :=
  { s with ev := { s.ev with errSum := s.ev.errSum ||| 2 ^ i } }.noteBit 0x30000 i

/-- Bit `i` of LW_ERR of port `p` is set (LW_ERR). -/
def State.lwErr (s : State) (p i : Nat) : State :=
  (s.setPort p { s.port p with err := (s.port p).err ||| 2 ^ i }).noteBit (0x70008 + 0x800 * p) i

/-- The bytes of a block in a message, a zero block's 4-byte header alone (R48, R54). -/
def blockLen (b : Block) : Nat := if b.e8 = 0 then 4 else if b.n8 then 132 else 68

/-- The bytes of a message body: vector header, then blocks, a zero block as its 4-byte header, or tallies (R48, R84). -/
def bodyBytes : Payload → Nat
  | .blocks bs => 16 + (bs.map blockLen).sum
  | .tally _ => 16 + 1024

/-- Flits leave on a port (R238). -/
def State.emitFlits (s : State) (port : Nat) (fs : List TxFlit) : State :=
  fs.foldl (fun s f => s.emit (.flit port (flitHeader f.hdr) f.data)) s

/-- A port sends what its queue, its credits, R241 and the tick's 32 flit slots let it (R237). -/
def State.pump (s : State) (port : Nat) : State :=
  let q := s.port port
  if ¬ q.carries ∨ (q.txQ.isEmpty ∧ q.resend.isEmpty) then s
  else
    let (fs, q) := q.pump s.tick (32 - q.slots)
    (s.setPort port q).emitFlits port fs

/-- The port answers what it has received: waiting flits carry the acknowledgement and the credits, and IDLE flits what they leave (R238,
R242, R243). -/
def State.answer (s : State) (port : Nat) : State :=
  if ¬ (s.port port).carries then s
  else
  let n := s.out.length
  let s := s.pump port
  let q := s.port port
  if n < s.out.length ∧ q.owed.isEmpty ∧ ¬ q.nakDue then s
  else
    let (fs, q) := q.idle (q.owed.length + 1)
    (s.setPort port q).emitFlits port fs

/-- A message joins a port's queue, and the port sends what it can (R238–R242); a link that does not carry flits takes none. -/
def State.queueMsg (s : State) (port cls girth epoch kind dbuf src dst : Nat) (body : List Byte) : State :=
  let q := s.port port
  if ¬ q.carries then s
  else (s.setPort port { q with
    txQ := q.txQ ++ [{ cls, girth, flits := msgFlits cls girth epoch (msgHeader kind dbuf src dst body.length ++ body) }] }).pump port

/-- A message of partition `p`'s girth joins a port's queue. -/
def State.girthMsg (s : State) (p port cls kind dbuf dst : Nat) (body : List Byte) : State :=
  match (s.girth p).record with
  | some r => s.queueMsg port cls r.ledger (s.girth p).epoch kind dbuf r.gpos dst body
  | none => s

/-- A hello leaves on a port as a MGMT message (R239, R245). -/
def State.sendHello (s : State) (port : Nat) (h : Hello) (src dst : Nat) : State :=
  let b := helloBytes h
  let s := s.emit (.hello port h)
  (s.setPort port { s.port port with
    txQ := (s.port port).txQ ++ [{ cls := 5, girth := 16, flits := msgFlits 5 0 0 (msgHeader 5 0 src dst b.length ++ b) }] }).pump port

/-- A blocks or tally message leaves on a port, with a message header of 16 bytes before its body (R239, R240, R257). -/
def State.sendMsg (s : State) (port girth dbuf : Nat) (hdr : VecHdr) (body : Payload) : State :=
  let g := ((s.girths.map (·.2)).find? (fun g => (g.record.map (·.ledger)) == some girth)).getD {}
  let kind := match body with
    | .tally _ => 1
    | .blocks _ => 0
  (s.emit (.link port girth dbuf hdr body)).queueMsg port (bodyClass dbuf body) girth g.epoch kind dbuf
    ((g.record.map (·.gpos)).getD 0) 0xFF (bodyOf hdr body)

/-- The message goes out as one flit of its class on each of these ports (R239, R240, log 131). -/
def State.sendFree (s : State) (p : Nat) (o : Out) (cls kind : Nat) (ports : List Nat) : State :=
  ports.foldl (fun s q => s.girthMsg p q cls kind 0 0xFF (freeBody o 64)) (s.emit o)

/-- The ports that carry a rein message of partition `p`'s girth (R256). -/
def State.reinPorts (s : State) (p : Nat) (to_ : ReinTo) : List Nat :=
  match (s.girth p).record with
  | some r => r.reinPorts (fun q => (s.port q).st = .down) to_
  | none => []

/-- A rein message leaves along the rein tree of partition `p`'s girth (R256). -/
def State.rein (s : State) (p : Nat) (m : Rein) : State :=
  s.sendFree p (.rein p m) 0 4 (match (s.girth p).record with
    | some r => s.reinPorts p (r.reinTo m)
    | none => [])

/-- A STOP or RESTART of a member goes up to the pommel (R256, R258, R305). -/
def State.reinUp (s : State) (p : Nat) (m : Rein) : State := s.sendFree p (.rein p m) 0 4 (s.reinPorts p .up)

/-- A start-round message goes along the rein tree as MGMT (R239, R249). -/
def State.figures (s : State) (p : Nat) (o : Out) (to_ : ReinTo) : State := s.sendFree p o 5 6 (s.reinPorts p to_)

/-- A draft record goes on to the lowest device of the next stage as an ACT message (R239, R255). -/
def State.sendDraft (s : State) (p : Nat) (d : DraftRec) : State :=
  let s := s.emit (.draft p d)
  match ((s.girth p).record.map (·.draftPort)).getD none with
  | some q => s.girthMsg p q 3 2 0 0xFF (draftBytes d)
  | none => s

/-- A verdict goes over the RETURN link as a TOKEN message (R226, R239, R255). -/
def State.sendVerdict (s : State) (p : Nat) (v : VerdictMsg) : State :=
  let s := s.emit (.verdict p v)
  match (s.girth p).record with
  | some r => (r.mine.filter (fun l => l.use = 2 && l.up)).foldl (fun s l =>
      s.girthMsg p l.port 1 3 0 0 (freeBody (.verdict p v) Config.verdictBytes)) s
  | none => s

/-- A flit or grant with an old epoch is discarded and counted (R258, LW_ERR, LW_COUNT3). -/
def State.staleOn (s : State) (port : Nat) : State :=
  (s.setPort port { s.port port with stale := satAdd 32 (s.port port).stale 1 }).lwErr port 6

/-- The port of this device's RETURN link (R231); 8 where it has none. -/
def State.returnPort (s : State) (p : Nat) : Nat :=
  (((s.girth p).record.bind (fun r => r.mine.find? (fun l => l.use = 2))).map (·.port)).getD 8

/-- Bit `i` of PWR_EV is set (PWR_EV). -/
def State.pwrEv (s : State) (i : Nat) : State := { s with pwr := { s.pwr with ev := s.pwr.ev ||| 2 ^ i } }.noteBit 0x60024 i

/-- Bit `i` of THERM_EV is set (THERM_EV). -/
def State.thermEv (s : State) (i : Nat) : State := { s with hk := { s.hk with ev := s.hk.ev ||| 2 ^ i } }.noteBit 0x40018 i

/-- The BAR0 offset of a mailbox register (R301). -/
def mbxOff (m o : Nat) : Nat := 0x20000 + 0x100 * m + o

/-- MBX_STAT.REJECT of mailbox `m` is set, and MBX_REJECT raised (R302). -/
def State.mbxReject (s : State) (m : Nat) : State :=
  ((s.setMbx m { s.mbx m with reject := true }).noteBit (mbxOff m 0x44) 1).raise 0x0052 1 none 3 m

/-- ALERT_N is asserted while any RW1C bit of the events and errors region, any bit of THERM_EV, or any of bits 1–4
of PWR_EV is set, or while TCLK is lost or the device is halted ("Registers" of those chapters, R370, R432). -/
def State.alert (s : State) : Bool :=
  s.ev.errSum ≠ 0 || s.hk.ev ≠ 0 || bits s.pwr.ev 4 1 ≠ 0 || !s.pwr.tclkOk || s.ev.halted

/-! ### Faults and containment -/

/-- A containment is in progress anywhere on the device: raised and not yet carried out, or a chip reset whose
rebuild has not ended (R371). -/
def State.containment (s : State) : Bool :=
  s.ev.resetDue.isSome || s.parts.any (fun x => x.2.restarting.isSome) || (s.pwr.last = 4 && !s.pwr.rebuilt)

/-- An entry for the saddler core's error queue (R371). With no containment in progress the core handles it at once;
otherwise it waits, and a full queue drops an entry and counts it. -/
def State.errPush (s : State) (sev : Nat) : State :=
  if ¬ s.containment then s
  else if s.ev.errQ.length < 16 then { s with ev := { s.ev with errQ := s.ev.errQ ++ [sev] } }
  else
    let q := if sev ≤ 1 then s.ev.errQ
      else match (s.ev.errQ.reverse).findIdx? (· ≤ 1) with
        | some i => s.ev.errQ.eraseIdx (s.ev.errQ.length - 1 - i) ++ [sev]
        | none => s.ev.errQ
    let n := satAdd 32 s.ev.errDrops 1
    (({ s with ev := { s.ev with errQ := q, errDrops := n } }).errSum 6).raise 0x010E 1 (detail := n)

/-- The queue empties once no containment is in progress (R371). -/
def State.errDone (s : State) : State := if s.containment then s else { s with ev := { s.ev with errQ := [] } }

/-- A chip reset is due, with its cause and location; an earlier one stands (R367, R371). -/
def State.dueReset (s : State) (cause loc : Nat) : State :=
  if s.ev.resetDue.isSome then s else { s with ev := { s.ev with resetDue := some (cause, loc) } }

/-- A fault inside partition `p` with its cause and unit (R365): the partition stops and waits for its restart. A fault
raised while another containment is in progress escalates to a chip reset, cause 7 (R371). -/
def State.partFault (s : State) (p cause lkind loc : Nat) : State :=
  let s' := s.errPush 2
  if s.containment then s'.dueReset 7 loc
  else s'.setPart p { s'.part p with restarting := some (cause, lkind, loc) }

/-- The request `handle` of partition `p` ends FAULT_ABORT at the end of the beat (R50, R62, R147). -/
def State.abortAtBeatEnd (s : State) (p handle : Nat) : State :=
  if handle ∈ (s.part p).abort then s else s.setPart p { s.part p with abort := (s.part p).abort ++ [handle] }

/-- The device's clocks run its fast logic: it is in RUN or IDLE with ACLK running, no trip or immediate stop holds it, and no
chip reset is due (R368, R387, R389, R432–R434, R441). -/
def State.awake (s : State) : Bool :=
  (s.pwr.st = .run || s.pwr.st = .idle) && s.pwr.aclk ≠ 0 && s.ev.resetDue.isNone && !s.ev.halted && s.pwr.tclkOk &&
    s.pwr.railsOk && !s.pwr.trip && !s.hk.stopNow

/-- The units of partition `p` run: the device is awake and no restart of the partition is due (R366 step 1). -/
def State.runs (s : State) (p : Nat) : Bool := s.awake && (s.part p).restarting.isNone

/-! ### Replies and notices -/

/-- Word 0 of a CQ entry with PH = 0 (R287). -/
def cqWord0 (status opcode part kind : Nat) : Nat := status + 2 ^ 8 * opcode + 2 ^ 16 * part + 2 ^ 20 * kind

/-- A list of words padded or cut to `n`. -/
def padW (n : Nat) (ws : List Nat) : List Nat := (List.range n).map (nthW ws)

/-- A reply entry for a command packet (R287). -/
def replyEntry (pkt : List Nat) (status : Nat) (res : List Nat) : CqEntry :=
  [cqWord0 status (bits (nthW pkt 0) 7 0) (bits (nthW pkt 0) 19 16) 0, bits (nthW pkt 1) 15 0] ++ padW 6 res

/-- The first command in flight from a source with a packet leaves the list of commands in flight. -/
def dropFetched (src : CmdSrc) (pkt : List Nat) : List Fetched → List Fetched
  | [] => []
  | f :: fs => if f.src = src ∧ f.words = pkt then fs else f :: dropFetched src pkt fs

/-- A reply goes to where its command came from: into the block's pending entries (R290), or, padded to 64 bytes, into
the mirror of the mailbox, with vector 2 due; a mirror that is still full rejects it (R302, R304). The command is in flight no more. -/
def State.reply (s : State) (src : CmdSrc) (pkt : List Nat) (status : Nat) (res : List Nat := []) : State :=
  let e := replyEntry pkt status res
  let s := { s with host := { s.host with fetched := dropFetched src pkt s.host.fetched }
                    pwr := { s.pwr with idleSince := s.tick } }
  match src with
  | .ring b => s.setRing b { s.ring b with cqWait := (s.ring b).cqWait ++ [e] }
  | .mbx m =>
    let x := s.mbx (m + 4)
    if x.held.isSome then s.mbxReject (m + 4)
    else (s.setMbx (m + 4) { x with held := some (padW 16 e), since := s.tick, tmoDone := false }).dueVector 2

/-- A notice to partition ring `p` (R288): dropped and counted when 4,096 wait (R290). KIND 1 END, 2 RESTART, 3 PAUSED. -/
def State.notice (s : State) (p kind status tag : Nat) (res : List Nat) : State :=
  let r := s.ring p
  let waiting := (r.cqWait.filter (fun e => bits (nthW e 0) 23 20 ≠ 0)).length
  if waiting < 4096 then
    s.setRing p { r with cqWait := r.cqWait ++ [[cqWord0 status 0 p kind, tag] ++ padW 6 res] }
  else
    (s.setRing p { r with noticeLost := satAdd 32 r.noticeLost 1 }).raise 0x0054 1 (some p) 3 p
      (satAdd 32 r.noticeLost 1)

/-! ### Outcomes and operands that name a unit -/

/-- The machine goes on. -/
abbrev Result := Host.Outcome State Fault Refusal

/-- A command of a unit that exists runs; one of a unit that no C16 has is a fault (`Fault.noSuchUnit`). -/
def guardUnit (ok : Bool) (s : State) : Result := if ok then .next s else .fault .noSuchUnit

/-- On a tile 0–1,023 (R1, R2). -/
def onTile (t : Nat) (s : State) : Result := guardUnit (t < 1024) s
/-- On a cluster 0–15 (R1). -/
def onCluster (c : Nat) (s : State) : Result := guardUnit (c < 16) s
/-- On a partition 0–15 (R3). -/
def onPart (p : Nat) (s : State) : Result := guardUnit (p < 16) s
/-- On a Luawin port 0–7 (R236). -/
def onPort (p : Nat) (s : State) : Result := guardUnit (p < 8) s
/-- On a ring block 0–16 (R278). -/
def onBlock (b : Nat) (s : State) : Result := guardUnit (b < 17) s
/-- On an array 0–65,535 (R2). -/
def onArray (a : Nat) (s : State) : Result := guardUnit (a < 65536) s

end Sys2Proof.Machine
end

