-- ==== Sys2Proof/Machine/Operands.lean ====
section
/-!
DEFINITION. Operand forms: how the fields of a stitch name entries of a bank (R73), arrays (R20) and rows (R18), and how
an activation block gives drive levels (R21, R47–R51).
-/

namespace Sys2Proof.Machine

open Sys2Proof

/-! ### Entries of a bank (R73) -/

/-- An IBLK, OBLK, TSLOT or RBUF field in run `run`: the entry it addresses (R73). -/
def bankEntry (run field : Nat) : Nat := field + 32 * (run % 2)

/-- A WR field in run `run`: the window-result register it addresses (R73). -/
def bankWr (run field : Nat) : Nat := field + 2 * (run % 2)

/-- A VREG field in run `run`: the E_ref register it addresses (R72, R73). -/
def bankVreg (run field : Nat) : Nat := field + 4 * (run % 2)

/-- The arrays that an ARRAYS field names, ascending (R77). -/
def maskList (m : Nat) : List Nat := (List.range 64).filter (bit m)

/-- The key of window-result register `r` of array `a` of a tile (R72). -/
def wrKey (a r : Nat) : Nat := a * 4 + r

/-! ### Windows (R18) -/

/-- The first row and the number of rows of a window: WKIND 0 basic, 1 half-window, 2 wide, 3 tracing (R18, R40, R77). -/
def windowRows (wkind widx h : Nat) : Nat × Nat :=
  match wkind with
  | 1 => (128 * widx + 64 * h, 64)
  | 2 => (256 * widx, 256)
  | _ => (128 * widx, 128)

/-! ### Activation blocks (R47–R51) -/

/-- The magnitude of element `i`; every element of a zero block counts as zero (R47, R49). -/
def elemMag (b : Block) (i : Nat) : Nat := if b.e8 = 0 then 0 else blockElem b i % 128

/-- The signed magnitude of element `i` (R52). -/
def elemVal (b : Block) (i : Nat) : Int :=
  if blockElem b i ≥ 128 then - (elemMag b i : Int) else (elemMag b i : Int)

/-- The planes of a block's format (R47). -/
def planesOf (b : Block) : Nat := if b.n8 then 7 else 3

/-- The drive level of element `i` on plane `j`: +1, −1 or 0 (R21); an N4 block drives zero on planes 3–6 (R51). -/
def driveLevel (b : Block) (j i : Nat) : Int :=
  if j < planesOf b ∧ bit (elemMag b i) j then (if blockElem b i ≥ 128 then -1 else 1) else 0

/-- The 128 drive levels of a block on one plane. -/
def blockDrive (b : Block) (j : Nat) : List Int := (List.range 128).map (driveLevel b j)

/-- The drive levels of a window on one plane: `b` is the block of the window, `b2` the second block of a wide
window (R18, R21). -/
def windowDrive (wkind h j : Nat) (b b2 : Block) : List Int :=
  match wkind with
  | 1 => ((blockDrive b j).drop (64 * h)).take 64
  | 2 => blockDrive b j ++ blockDrive b2 j
  | _ => blockDrive b j

/-- The zero block of a format (R49, R65). -/
def zeroBlock (n8 : Bool) : Block :=
  { e8 := 0, n8, fb := false, sat := 0, zero := 0, elems := List.replicate 128 0 }

/-- The element byte of a signed magnitude (R48); zero is written without a sign (R49). -/
def elemByte (q : Int) : Byte :=
  BitVec.ofNat 8 (if q < 0 then 128 + q.natAbs % 128 else q.natAbs % 128)

/-- Whether two headers agree in words 1–2 (R92). -/
def hdrAgree (a b : VecHdr) : Bool :=
  a.handle = b.handle && a.pos = b.pos && a.slot = b.slot && a.last = b.last

/-! ### Where a SEND goes (R77, R113, R122) -/

/-- The tile that neighbour link `path` (0 N, 1 E, 2 S, 3 W) of tile `t` leads to (R113). -/
def neighbour (path t : Nat) : Option Nat :=
  let x := t % 64
  match path with
  | 0 => if x ≥ 8 then some (t - 8) else none
  | 1 => if x % 8 < 7 then some (t + 1) else none
  | 2 => if x + 8 < 64 then some (t + 8) else none
  | 3 => if x % 8 > 0 then some (t - 1) else none
  | _ => none

/-- The members a SEND addresses on this device; none for PATH 7, whose member is a Luawin port (R77, R84, R122). -/
def sendMembers (groups : Tbl (List Member)) (t path dest dbuf mcast : Nat) : List Member :=
  if path ≤ 3 then
    match neighbour path t with
    | some u => [⟨u / 64, u % 64, dbuf⟩]
    | none => []
  else if path = 7 then []
  else if mcast = 1 then getD [] dest groups
  else [⟨dest / 64, dest % 64, dbuf⟩]

end Sys2Proof.Machine
end

