-- ==== Sys2Proof/Machine/Flags.lean ====
section
/-!
DEFINITION. The flags that the input buffer raises and the stitcher tests: drive counts P and N (R31), ZERO, SPLIT and
EXPD (R31–R34), WIDE (R72) and the conditions of ALT (R89).
-/

namespace Sys2Proof.Machine

open Sys2Proof

/-- P: rows driven +1 (R31). -/
def countP (d : List Int) : Nat := d.countP (fun x => x = 1)

/-- N: rows driven −1 (R31). -/
def countN (d : List Int) : Nat := d.countP (fun x => x = -1)

/-- ZERO: no row of the window is driven on this plane (R31, R32). -/
def zeroFlag (d : List Int) : Bool := countP d + countN d = 0

/-- SPLIT of a plane over a window (R31): a basic window with P = 128; a wide window with P > 127 or N > 128. -/
def splitFlag (wide : Bool) (d : List Int) : Bool :=
  if wide then countP d > 127 || countN d > 128 else countP d = 128

/-- EXPD: the two blocks of a wide window carry different exponents (R31). -/
def expdFlag (b b2 : Block) : Bool := b.e8 ≠ b2.e8

/-- WIDE: the block has format N8 (R72). -/
def wideFlag (b : Block) : Bool := b.n8

end Sys2Proof.Machine
end

