-- ==== Sys2Proof/Machine/Numbers.lean ====
section
/-!
DEFINITION. The exact integer path and the one rounding: shift-add (R52, R53), alignment into tallies (R56, R59) and the
skiver (R61–R68). A value that a unit emits is a pair (m, e) that stands for m · 2^e.
-/

namespace Sys2Proof.Machine

open Sys2Proof

/-! ### Shift-add (R52) -/

/-- Column significance of bit `j` of a weight of width `w` ≥ 2 ("Weight blocks"). -/
def columnSig (w j : Nat) : Int := if j + 1 = w then - (2 ^ j : Int) else (2 ^ j : Int)

/-- What one pass of plane `j` adds to the window result of a channel of width `w` at column `b`, with the pass's
counts P and N (R52). -/
def passResult (w b j : Nat) (p n : Nat) (code : Nat → Int) : Int :=
  if w = 1 then 2 ^ j * (2 * code b - ((p : Int) - n))
  else 2 ^ j * ((List.range w).map (fun k => columnSig w k * code (b + k))).sum

/-- The factor of one column's code in its channel's window result on plane `j` (R350, R52). -/
def columnFactor (w j k : Nat) : Int := 2 ^ j * (if w = 1 then 2 else columnSig w k)

/-! ### Alignment (R56) -/

/-- The outcome of aligning a window result under R56. -/
inductive Aligned where
  | add (x : Int)
  | underflow
  | invalid
  deriving DecidableEq, Repr

/-- R56: d = E_ref − E_b; up to 24 it adds r · 2^(24 − d), beyond that it underflows, below 0 it is invalid. -/
def alignResult (eref eb : Nat) (r : Int) : Aligned :=
  if eref < eb then .invalid
  else if eref - eb ≤ 24 then .add (r * 2 ^ (24 - (eref - eb)))
  else .underflow

/-- A 64-bit two's complement sum ("Tallies", R58). -/
def wrap64 (x : Int) : Int := (x + 2 ^ 63) % 2 ^ 64 - 2 ^ 63

/-! ### Rounding and emission (R61–R65, R136) -/

/-- x / 2^s rounded to nearest, ties to even; an exact left shift for s ≤ 0 (R61). -/
def rne (x : Int) (s : Int) : Int :=
  if s ≤ 0 then x * 2 ^ (-s).toNat
  else
    let a := x.natAbs
    let d := 2 ^ s.toNat
    let q := a / d
    let rem := a % d
    let q := if 2 * rem > d ∨ (2 * rem = d ∧ q % 2 = 1) then q + 1 else q
    if x < 0 then - (q : Int) else q

/-- The output element of the value m · 2^e at output exponent `eOut` (R61, R136). -/
def laneQ (eOut : Int) (v : Int × Int) : Int := if v.1 = 0 then 0 else rne v.1 (eOut - 127 - v.2)

/-- The magnitude limit of a format (R61). -/
def magLimit (n8 : Bool) : Nat := if n8 then 127 else 7

/-- Dynamic mode: the smallest E_out from 1 to 254 that fits every lane (R62). -/
def dynamicExp (n8 : Bool) (lanes : List (Int × Int)) : Option Nat :=
  let live := lanes.filter (fun v => v.1 ≠ 0)
  (List.range' 1 254).find? (fun (e : Nat) => live.all (fun v => (laneQ e v).natAbs ≤ magLimit n8))

/-- The block of 128 emitted elements at `eOut`, with its counts (R48, R63–R65). -/
def emitBlock (n8 fb : Bool) (eOut : Nat) (lanes : List (Int × Int)) : Block :=
  let lim : Int := magLimit n8
  let raw := (List.range 128).map (fun i => laneQ eOut (lanes.getD i (0, 0)))
  let qs := raw.map (fun q => if q > lim then lim else if q < -lim then -lim else q)
  let sat := raw.countP (fun q => q > lim ∨ q < -lim)
  let zc := (List.range 128).countP (fun i => (lanes.getD i (0, 0)).1 ≠ 0 ∧ raw.getD i 0 = 0)
  { e8 := if qs.all (· = 0) then 0 else eOut, n8, fb, sat, zero := zc, elems := qs.map elemByte }

/-- Dynamic emission; none when no exponent fits (R62). -/
def dynamicBlock (n8 fb : Bool) (lanes : List (Int × Int)) : Option Block :=
  (dynamicExp n8 lanes).map (fun e => emitBlock n8 fb e lanes)

/-! ### The skiver (R61–R68) -/

/-- A lane of the skiver: tally and channel step to the value X · 2^(E_ref + SE − 286); the zero step gives zero (R61). -/
def skiveLane (eref : Nat) (t : Int) (step : Nat) : Int × Int :=
  if step = 0 then (0, 0)
  else (t * (256 + (step % 256 : Nat)), (eref : Int) + (step / 256 : Nat) - 286)

/-- What a SKIVE leaves: the block, whether no exponent fitted (R62), and whether it fell back (R67). -/
structure Skived where
  blk      : Block
  overflow : Bool
  fellBack : Bool
  deriving DecidableEq, Repr

/-- The skiver on the 128 lanes of a tally slot: first attempt by mode, and the N8 dynamic fallback when an N4 attempt is
over its thresholds (R62, R63, R67, R68). -/
def skive (static n8 : Bool) (eSt satMax zeroMax : Nat) (lanes : List (Int × Int)) : Skived :=
  let first := if static then some (emitBlock n8 false eSt lanes) else dynamicBlock n8 false lanes
  match first with
  | none => ⟨zeroBlock n8, true, false⟩
  | some b =>
    if ¬ n8 ∧ (b.sat > satMax ∨ b.zero > zeroMax) then
      match dynamicBlock true true lanes with
      | some b' => ⟨b', false, true⟩
      | none => ⟨{ zeroBlock true with fb := true }, true, true⟩
    else ⟨b, false, false⟩

end Sys2Proof.Machine
end

