-- ==== Sys2Proof/Machine/Float.lean ====
section
/-!
DEFINITION. IEEE 754 binary32 as the engines use it (R133, R150, R204): finite values as pairs (m, e) that stand for m · 2^e,
round to nearest with ties to even, subnormals kept, and no result where a value overflows or is a NaN. The functions of
real numbers (R134, R135, R150) are evaluated in fixed point far below the last rounded place (log 13).
-/

namespace Sys2Proof.Machine

open Sys2Proof

/-- A finite binary32 value m · 2^e. -/
abbrev F32 := Int × Int

/-- An integer quotient rounded to nearest, ties to even. -/
def rneDiv (a d : Nat) : Nat :=
  let q := a / d
  let r := a % d
  if 2 * r > d ∨ (2 * r = d ∧ q % 2 = 1) then q + 1 else q

/-- floor(log2(a / d)) for positive a and d. -/
def floorLog (a d : Nat) : Int :=
  let l : Int := (a.log2 : Int) - d.log2
  let ge := if l ≥ 0 then d * 2 ^ l.toNat ≤ a else d ≤ a * 2 ^ (-l).toNat
  if ge then l else l - 1

/-- num / den · 2^e rounded to binary32; none where it overflows (R133). -/
def roundQ (num : Int) (den : Nat) (e : Int) : Option F32 :=
  if num = 0 then some (0, 0)
  else
    let a := num.natAbs
    let k := max (-149) (e + floorLog a den - 23)
    let q := if e ≥ k then rneDiv (a * 2 ^ (e - k).toNat) den else rneDiv a (den * 2 ^ (k - e).toNat)
    if k > 104 ∨ (k = 104 ∧ q ≥ 2 ^ 24) then none
    else some (if num < 0 then - (q : Int) else q, k)

/-- m · 2^e rounded to binary32. -/
def round32 (v : F32) : Option F32 := roundQ v.1 1 v.2

/-- The exact sum of two values. -/
def addX (a b : F32) : F32 :=
  let e := min a.2 b.2
  (a.1 * 2 ^ (a.2 - e).toNat + b.1 * 2 ^ (b.2 - e).toNat, e)

/-- The exact product of two values. -/
def mulX (a b : F32) : F32 := (a.1 * b.1, a.2 + b.2)

/-- The negative of a value. -/
def negX (a : F32) : F32 := (-a.1, a.2)

def addF (a b : F32) : Option F32 := round32 (addX a b)
def subF (a b : F32) : Option F32 := round32 (addX a (negX b))
def mulF (a b : F32) : Option F32 := round32 (mulX a b)
/-- A multiply-add rounds once (R133). -/
def fmaF (a b c : F32) : Option F32 := round32 (addX (mulX a b) c)
/-- A quotient; none for a zero divisor. -/
def divF (a b : F32) : Option F32 :=
  if b.1 = 0 then none else roundQ (if b.1 < 0 then -a.1 else a.1) b.1.natAbs (a.2 - b.2)

/-- a ≤ b. -/
def leX (a b : F32) : Bool := (addX b (negX a)).1 ≥ 0
/-- a < b. -/
def ltX (a b : F32) : Bool := (addX b (negX a)).1 > 0

/-- The integer square root, bit by bit from bit `b` down. -/
def isqrtAux : Nat → Nat → Nat → Nat
  | 0, r, n => if (r + 1) * (r + 1) ≤ n then r + 1 else r
  | b + 1, r, n => isqrtAux b (if (r + 2 ^ (b + 1)) * (r + 2 ^ (b + 1)) ≤ n then r + 2 ^ (b + 1) else r) n

/-- floor of the square root. -/
def isqrt (n : Nat) : Nat := isqrtAux (n.log2 / 2 + 1) 0 n

/-- The square root, rounded once; none for a negative value (a NaN). The integer root carries a sticky bit below its last
place, so the rounding is that of the exact root. -/
def sqrtF (a : F32) : Option F32 :=
  if a.1 < 0 then none
  else if a.1 = 0 then some (0, 0)
  else
    let odd := a.2 % 2 ≠ 0
    let n := a.1.natAbs * (if odd then 2 else 1) * 2 ^ 64
    let e := (if odd then a.2 - 1 else a.2) / 2 - 32
    let r := isqrt n
    round32 (2 * r + (if r * r = n then 0 else 1), e - 1)

/-- A binary32 bit pattern as a value; none for an infinity or a NaN. -/
def ofBits (w : Nat) : Option F32 :=
  let ex := bits w 30 23
  let m : Int := if ex = 0 then (bits w 22 0 : Nat) else ((2 ^ 23 + bits w 22 0 : Nat) : Int)
  if ex = 255 then none
  else some (if bit w 31 then -m else m, if ex = 0 then -149 else (ex : Int) - 150)

/-- A binary32 value as its bit pattern; zero is +0. -/
def toBits (v : F32) : Nat :=
  if v.1 = 0 then 0
  else
    let a := v.1.natAbs
    let s := if v.1 < 0 then 2 ^ 31 else 0
    let f := v.2 + (a.log2 : Int)
    if f < -126 then s + (if v.2 ≥ -149 then a * 2 ^ (v.2 + 149).toNat else a / 2 ^ (-149 - v.2).toNat)
    else
      let sh := v.2 - (f - 23)
      let m := if sh ≥ 0 then a * 2 ^ sh.toNat else a / 2 ^ (-sh).toNat
      s + (f + 127).toNat * 2 ^ 23 + (m - 2 ^ 23)

/-- −∞ as a bit pattern. -/
def negInfBits : Nat := 0xFF800000

/-- The exact value of an element of a block (R47). -/
def elemF (b : Block) (i : Nat) : F32 := (elemVal b i, (b.e8 : Int) - 127)

/-- An element as the engines decode it; none where it overflows binary32 (R133, R204). -/
def elemF32 (b : Block) (i : Nat) : Option F32 := round32 (elemF b i)

/-! ### Fixed point -/

/-- Fractional bits of the fixed-point evaluations. -/
def fxBits : Nat := 320
/-- One. -/
def fxOne : Int := 2 ^ fxBits
/-- A product. -/
def fxMul (a b : Int) : Int := a * b / 2 ^ fxBits
/-- A quotient. -/
def fxDiv (a b : Int) : Int := a * 2 ^ fxBits / b
/-- A dyadic value in fixed point. -/
def fxOf (v : F32) : Int :=
  if v.2 + fxBits ≥ 0 then v.1 * 2 ^ (v.2 + fxBits).toNat else v.1 / 2 ^ (-(v.2 + fxBits)).toNat
/-- A fixed-point value as a dyadic one. -/
def fxVal (x : Int) : F32 := (x, -(fxBits : Int))

/-- Σ_(i ≤ n) x^i / i!, by Horner's rule from the n-th term. -/
def fxTaylor : Nat → Nat → Int → Int → Int
  | 0, _, _, r => r
  | n + 1, i, x, r => fxTaylor n (i - 1) x (fxOne + fxMul x r / i)

/-- Repeated squaring. -/
def fxSquare : Nat → Int → Int
  | 0, x => x
  | n + 1, x => fxSquare n (fxMul x x)

/-- e^x for x ≥ 0: halved twelve times, expanded, squared twelve times. -/
def fxExpPos (x : Int) : Int := fxSquare 12 (fxTaylor 60 60 (x / 4096) fxOne)

/-- e^x. -/
def fxExp (x : Int) : Int := if x ≥ 0 then fxExpPos x else fxDiv fxOne (fxExpPos (-x))

/-- Σ_(k < n) z^(2k+1) / (2k+1) with alternating or constant sign, from the term of odd index i. -/
def fxOdd (alt : Bool) : Nat → Nat → Int → Int → Int
  | 0, _, _, _ => 0
  | n + 1, i, z2, zp => zp / i + fxOdd alt n (i + 2) z2 (if alt then - fxMul zp z2 else fxMul zp z2)

/-- ln 2 = 2 · artanh(1/3). -/
def fxLn2 : Int := let z := fxOne / 3; 2 * fxOdd false 120 1 (fxMul z z) z

/-- π = 16 · arctan(1/5) − 4 · arctan(1/239). -/
def fxPi : Int :=
  let a := fxOne / 5
  let b := fxOne / 239
  16 * fxOdd true 100 1 (fxMul a a) a - 4 * fxOdd true 40 1 (fxMul b b) b

/-- ln v for v > 0. -/
def fxLn (v : F32) : Int :=
  let l := v.1.natAbs.log2
  let m := fxOf (v.1, -(l : Int))
  let z := fxDiv (m - fxOne) (m + fxOne)
  (v.2 + l) * fxLn2 + 2 * fxOdd false 110 1 (fxMul z z) z

/-- cos and sin of x by their series, after x has been reduced to less than a turn. -/
def fxTrig : Nat → Nat → Int → Int → Int
  | 0, _, _, r => r
  | n + 1, i, x2, r => fxTrig n (i - 2) x2 (fxOne - fxMul x2 r / (i * (i - 1)))

/-- cos x. -/
def fxCos (x : Int) : Int := let r := x % (2 * fxPi) - fxPi; - fxTrig 60 120 (fxMul r r) fxOne
/-- sin x. -/
def fxSin (x : Int) : Int := let r := x % (2 * fxPi) - fxPi; - fxMul r (fxTrig 60 121 (fxMul r r) fxOne)

/-! ### exp32 (R150) -/

/-- 2^(k/256). -/
def fxPow2 (k : Nat) : Int := fxExp (fxLn2 * k / 256)

/-- c_k: 2^(k/256) rounded to binary32. -/
def expC (k : Nat) : F32 := (round32 (fxVal (fxPow2 k))).getD (0, 0)

/-- s_k: 256 · (2^((k+1)/256) − 2^(k/256)) rounded to binary32. -/
def expS (k : Nat) : F32 := (round32 (fxVal (256 * (fxPow2 (k + 1) - fxPow2 k)))).getD (0, 0)

/-- exp32(x) for x ≤ 0 (R150); t below −150 gives +0. -/
def exp32 (x : F32) : Option F32 :=
  match mulF x (0xB8AA3B, -23) with
  | none => some (0, 0)
  | some t =>
    if ltX t (-150, 0) then some (0, 0)
    else
      let n : Int := if t.2 ≥ 0 then t.1 * 2 ^ t.2.toNat else t.1 / 2 ^ (-t.2).toNat
      let f := addX t (-n, 0)
      let k := (if f.2 + 8 ≥ 0 then f.1 * 2 ^ (f.2 + 8).toNat else f.1 / 2 ^ (-(f.2 + 8)).toNat).toNat
      (fmaF (expS k) (addX f (-(k : Int), -8)) (expC k)).bind (fun r => round32 (r.1, r.2 + n))

/-- exp32 of a − b for a ≤ b: a difference below every binary32 value is −∞, whose exp32 is +0 (R150). -/
def expDiff (a b : F32) : Option F32 :=
  match subF a b with
  | some x => exp32 x
  | none => some (0, 0)

/-! ### Activation functions (R135) -/

/-- The three functions that the device generates tables for: 0 SiLU, 1 GELU, 2 the logistic sigmoid. -/
def fxAct (tbl : Nat) (x : Int) : Int :=
  match tbl with
  | 0 => fxDiv x (fxOne + fxExp (-x))
  | 1 =>
    let c := isqrt (fxDiv (2 * fxOne) fxPi * 2 ^ fxBits).toNat
    let u := fxMul c (x + fxMul (fxMul (fxMul x x) x) (fxOne * 44715 / 1000000))
    fxDiv x (fxOne + fxExp (-2 * u))
  | _ => fxDiv fxOne (fxOne + fxExp (-x))

/-- Segment `k` of a generated table: slope and intercept of the secant, each rounded once (R135). -/
def actSegment (tbl k : Nat) : Option (F32 × F32) :=
  let x0 := fxOne * ((k : Int) - 128) / 8
  let x1 := fxOne * ((k : Int) - 127) / 8
  let f0 := fxAct tbl x0
  let f1 := fxAct tbl x1
  let slope := 8 * (f1 - f0)
  match round32 (fxVal slope), round32 (fxVal (f0 - fxMul slope x0)) with
  | some a, some b => some (a, b)
  | _, _ => none

/-- The segment that an input falls in: floor(8 · (x + 16)) clamped to 0–255 (R135). -/
def actIndex (x : F32) : Nat :=
  let y := addX (x.1, x.2 + 3) (128, 0)
  let n := if y.2 ≥ 0 then y.1 * 2 ^ y.2.toNat else y.1 / 2 ^ (-y.2).toNat
  (max 0 (min 255 n)).toNat

/-! ### ROPE (R134) -/

/-- ω_i = PARAM^(−2i/H), the exact real power rounded once. -/
def ropeOmega (param : F32) (i h : Nat) : Option F32 :=
  if i = 0 then some (1, 0)
  else if param.1 ≤ 0 ∨ h = 0 then none
  else round32 (fxVal (fxExp (- (fxLn param * (2 * i) / h))))

/-- cos θ and sin θ, each rounded once. -/
def ropeTrig (theta : F32) : Option (F32 × F32) :=
  match round32 (fxVal (fxCos (fxOf theta))), round32 (fxVal (fxSin (fxOf theta))) with
  | some c, some s => some (c, s)
  | _, _ => none

end Sys2Proof.Machine
end

