-- ==== Sys2Proof/Machine/Hash.lean ====
section
/-!
DEFINITION. The two named algorithms whose results the device computes with: SHA-512 (R235, R320, R323) and Philox-4x32-10
(R208, R325, R355). The manual names them; their constants and rounds are the published ones (log 12, PRESUMED).
-/

namespace Sys2Proof.Machine

open Sys2Proof

/-! ### SHA-512 -/

/-- The 80 round constants of SHA-512. -/
def shaK : List Nat :=
  [0x428a2f98d728ae22, 0x7137449123ef65cd, 0xb5c0fbcfec4d3b2f, 0xe9b5dba58189dbbc] ++
  [0x3956c25bf348b538, 0x59f111f1b605d019, 0x923f82a4af194f9b, 0xab1c5ed5da6d8118] ++
  [0xd807aa98a3030242, 0x12835b0145706fbe, 0x243185be4ee4b28c, 0x550c7dc3d5ffb4e2] ++
  [0x72be5d74f27b896f, 0x80deb1fe3b1696b1, 0x9bdc06a725c71235, 0xc19bf174cf692694] ++
  [0xe49b69c19ef14ad2, 0xefbe4786384f25e3, 0x0fc19dc68b8cd5b5, 0x240ca1cc77ac9c65] ++
  [0x2de92c6f592b0275, 0x4a7484aa6ea6e483, 0x5cb0a9dcbd41fbd4, 0x76f988da831153b5] ++
  [0x983e5152ee66dfab, 0xa831c66d2db43210, 0xb00327c898fb213f, 0xbf597fc7beef0ee4] ++
  [0xc6e00bf33da88fc2, 0xd5a79147930aa725, 0x06ca6351e003826f, 0x142929670a0e6e70] ++
  [0x27b70a8546d22ffc, 0x2e1b21385c26c926, 0x4d2c6dfc5ac42aed, 0x53380d139d95b3df] ++
  [0x650a73548baf63de, 0x766a0abb3c77b2a8, 0x81c2c92e47edaee6, 0x92722c851482353b] ++
  [0xa2bfe8a14cf10364, 0xa81a664bbc423001, 0xc24b8b70d0f89791, 0xc76c51a30654be30] ++
  [0xd192e819d6ef5218, 0xd69906245565a910, 0xf40e35855771202a, 0x106aa07032bbd1b8] ++
  [0x19a4c116b8d2d0c8, 0x1e376c085141ab53, 0x2748774cdf8eeb99, 0x34b0bcb5e19b48a8] ++
  [0x391c0cb3c5c95a63, 0x4ed8aa4ae3418acb, 0x5b9cca4f7763e373, 0x682e6ff3d6b2b8a3] ++
  [0x748f82ee5defb2fc, 0x78a5636f43172f60, 0x84c87814a1f0ab72, 0x8cc702081a6439ec] ++
  [0x90befffa23631e28, 0xa4506cebde82bde9, 0xbef9a3f7b2c67915, 0xc67178f2e372532b] ++
  [0xca273eceea26619c, 0xd186b8c721c0c207, 0xeada7dd6cde0eb1e, 0xf57d4f7fee6ed178] ++
  [0x06f067aa72176fba, 0x0a637dc5a2c898a6, 0x113f9804bef90dae, 0x1b710b35131c471b] ++
  [0x28db77f523047d84, 0x32caab7b40c72493, 0x3c9ebe0a15c9bebc, 0x431d67c49c100d4c] ++
  [0x4cc5d4becb3e42b6, 0x597f299cfc657e2a, 0x5fcb6fab3ad6faec, 0x6c44198c4a475817]

/-- The initial hash value of SHA-512. -/
def shaIV : List Nat :=
  [0x6a09e667f3bcc908, 0xbb67ae8584caa73b, 0x3c6ef372fe94f82b, 0xa54ff53a5f1d36f1] ++
  [0x510e527fade682d1, 0x9b05688c2b3e6c1f, 0x1f83d9abfb41bd6b, 0x5be0cd19137e2179]

/-- A 64-bit rotation to the right. -/
def rotr64 (x n : Nat) : Nat := (x / 2 ^ n) ||| (x % 2 ^ n * 2 ^ (64 - n))

/-- The message schedule: from the 16 words of a block to 80, newest first while it grows. -/
def shaSchedule : Nat → List Nat → List Nat
  | 0, rev => rev.reverse
  | n + 1, rev =>
    let w2 := rev.getD 1 0
    let w7 := rev.getD 6 0
    let w15 := rev.getD 14 0
    let w16 := rev.getD 15 0
    let s0 := rotr64 w15 1 ^^^ rotr64 w15 8 ^^^ (w15 / 2 ^ 7)
    let s1 := rotr64 w2 19 ^^^ rotr64 w2 61 ^^^ (w2 / 2 ^ 6)
    shaSchedule n (((w16 + s0 + w7 + s1) % 2 ^ 64) :: rev)

/-- One round on the eight working words. -/
def shaRound (v : List Nat) (kw : Nat × Nat) : List Nat :=
  match v with
  | [a, b, c, d, e, f, g, h] =>
    let s1 := rotr64 e 14 ^^^ rotr64 e 18 ^^^ rotr64 e 41
    let ch := (e &&& f) ^^^ ((2 ^ 64 - 1 - e) &&& g)
    let t1 := h + s1 + ch + kw.1 + kw.2
    let s0 := rotr64 a 28 ^^^ rotr64 a 34 ^^^ rotr64 a 39
    let maj := (a &&& b) ^^^ (a &&& c) ^^^ (b &&& c)
    [(t1 + s0 + maj) % 2 ^ 64, a, b, c, (d + t1) % 2 ^ 64, e, f, g]
  | _ => v

/-- A big-endian number from bytes. -/
def beNat (bs : List Byte) : Nat := bs.foldl (fun n b => n * 256 + b.toNat) 0

/-- A number as `k` big-endian bytes. -/
def beBytes (k n : Nat) : List Byte := (leBytes k n).reverse

/-- One block of 128 bytes. -/
def shaBlock (hv : List Nat) (blk : List Byte) : List Nat :=
  let ws := (List.range 16).map (fun i => beNat ((blk.drop (8 * i)).take 8))
  let v := (shaK.zip (shaSchedule 64 ws.reverse)).foldl shaRound hv
  (hv.zip v).map (fun x => (x.1 + x.2) % 2 ^ 64)

/-- `n` blocks of a padded message. -/
def shaBlocks : Nat → List Nat → List Byte → List Nat
  | 0, hv, _ => hv
  | n + 1, hv, bs => shaBlocks n (shaBlock hv (bs.take 128)) (bs.drop 128)

/-- The SHA-512 digest of a byte string, 64 bytes. -/
def sha512 (m : List Byte) : List Byte :=
  let z := (239 - m.length % 128) % 128
  let p := m ++ [BitVec.ofNat 8 0x80] ++ List.replicate z (BitVec.ofNat 8 0) ++ beBytes 16 (8 * m.length)
  (shaBlocks (p.length / 128) shaIV p).flatMap (beBytes 8)

/-! ### Philox-4x32-10 -/

/-- Philox's ten rounds: counter words and key words to four output words. -/
def philoxRounds : Nat → Nat × Nat × Nat × Nat → Nat → Nat → Nat × Nat × Nat × Nat
  | 0, c, _, _ => c
  | n + 1, (c0, c1, c2, c3), k0, k1 =>
    let p0 := 0xD2511F53 * c0
    let p1 := 0xCD9E8D57 * c2
    philoxRounds n ((p1 / 2 ^ 32) ^^^ c1 ^^^ k0, p1 % 2 ^ 32, (p0 / 2 ^ 32) ^^^ c3 ^^^ k1, p0 % 2 ^ 32)
      ((k0 + 0x9E3779B9) % 2 ^ 32) ((k1 + 0xBB67AE85) % 2 ^ 32)

/-- Philox-4x32-10: key (k0, k1) and counter (c0, c1, c2, c3) to (out0, out1, out2, out3). -/
def philox (k0 k1 c0 c1 c2 c3 : Nat) : Nat × Nat × Nat × Nat := philoxRounds 10 (c0, c1, c2, c3) k0 k1

/-- The first output word. -/
def philox0 (k0 k1 c0 c1 c2 c3 : Nat) : Nat := (philox k0 k1 c0 c1 c2 c3).1

/-! ### Blocks drawn from Philox -/

/-- Proof block `p` (R325): E8 = 0x7F, N8, element `i` zero when i = p mod 128, else from out0 with key
(0x0000_C016, p) and counter (i, 0, 0, 0). -/
def proofBlock (p : Nat) : Block :=
  { e8 := 0x7F, n8 := true, fb := false, sat := 0, zero := 0
    elems := (List.range 128).map (fun i =>
      if i = p % 128 then BitVec.ofNat 8 0 else BitVec.ofNat 8 (philox0 0xC016 p i 0 0 0)) }

end Sys2Proof.Machine
end

