-- ==== Sys2Proof/Machine/Arrays.lean ====
section
/-!
DEFINITION. An array under a pass: which cells serve (R343, R346, R347), column sums (R22), codes (R24, R39), which column
carries a data column (R30, R345, R360), and keeper compare with the bound check (R26, R81, R345).
-/

namespace Sys2Proof.Machine

open Sys2Proof

/-- A drained window-result register (R74). -/
def Wr.empty : Wr := {}

/-- A released tally slot (R74). -/
def Slot.empty : Slot := {}

/-- The pair reserve of an array: array 61 of the even tile of its pair (R343). -/
def pairReserve (addr : Nat) : Nat := addr / 128 * 128 + 61

/-- Whether an array is a reserve array (R343). -/
def isReserve (addr : Nat) : Bool := addr % 128 = 61

/-- Whether an array is a tracing array (R1). -/
def isTracing (addr : Nat) : Bool := addr % 64 ≥ 62

/-- The array whose cells serve array `addr`: itself, or its pair reserve when it is retired (R343, R346). -/
def State.servingArray (s : State) (addr : Nat) : Nat :=
  if (s.repair addr).st = 1 then pairReserve addr else addr

/-- Keeper `k` of an array (R344). -/
def Arr.keeper (a : Arr) (k : Nat) : Keeper := getD {} k a.keepers

/-- The patch that carries data column `c` (R346). -/
def Repair.patchOf (r : Repair) (c : Nat) : Option Nat :=
  (List.range 8).find? (fun p => bit r.patchV p && getD 0 p r.patchCol == c)

/-- The keeper that stands in for data column `c` (R30, R360). -/
def Arr.standFor (a : Arr) (c : Nat) : Option Nat :=
  (List.range 8).find? (fun k => (a.keeper k).st = .stand && (a.keeper k).stand = c)

/-- The physical column whose code is used for data column `c` (R30, R345, R360): a standing keeper, else a patch that
carries it, else the column itself. -/
def codeColumn (a : Arr) (r : Repair) (c : Nat) : Nat :=
  match a.standFor c with
  | some k => 256 + k
  | none => match r.patchOf c with
    | some p => 264 + p
    | none => c

/-- The data columns whose code comes from another column, and that column. -/
def servingCols (a : Arr) (r : Repair) : List (Nat × Nat) :=
  (List.range 256).filterMap (fun c => if codeColumn a r c = c then none else some (c, codeColumn a r c))

/-! ### Calibration steps (R30, R392–R395) -/

/-- The columns of a calibration in order (R392). -/
def calOrder (x : Arr) (r : Repair) : List Nat :=
  (List.range 256).filter (fun c => (r.patchOf c).isNone) ++
    ((List.range 8).filter (bit r.patchV)).map (264 + ·) ++
    ((List.range 8).filter (fun k => (x.keeper k).st ≠ .off)).map (256 + ·)

/-- The keeper that stands in for a data or patch column during its step; a keeper's own step has itself (R393). -/
def tapKeeper (r : Repair) (c : Nat) : Nat :=
  if c < 256 then c % 8 else if c < 264 then c - 256 else getD 0 (c - 264) r.patchCol % 8

/-- A column's step has a usable stand-in, or is a keeper's own step outside STAND (R393, R395). -/
def standInOk (x : Arr) (r : Repair) (c : Nat) : Bool :=
  if 256 ≤ c ∧ c < 264 then (x.keeper (c - 256)).st ≠ .stand else (x.keeper (tapKeeper r c)).st = .shadow

/-- The column of array `a` in its step and the keeper that stands in for it, while a step of main array `a` that needs no
housekeeping time is under way (R392–R394). -/
def State.tap (s : State) (a : Nat) : Option (Nat × Nat) :=
  match (s.tile (a / 64)).calib with
  | some (b, n, _) =>
    if b ≠ a ∨ isTracing a then none
    else ((calOrder (s.arr a) (s.repair a))[n]?).bind (fun c =>
      if standInOk (s.arr a) (s.repair a) c then some (c, tapKeeper (s.repair a) c) else none)
  | none => none

/-! ### Keepers that compare (R344, R361, R393) -/

/-- The keepers of array `a` that compare, and the data columns they shadow: in SHADOW, and not standing in for a column in its
step. -/
def State.comparing (s : State) (a : Nat) : List (Nat × Nat) :=
  (List.range 8).filterMap (fun k =>
    let kp := (s.arr a).keeper k
    if kp.st = .shadow ∧ (s.tap a).map (·.2) ≠ some k then some (k, k + 8 * kp.m) else none)

/-- The rows that a pass drives, with their level (R21). -/
def drivenRows (rows : Tbl Nat) (base : Nat) (drive : List Int) : List (Int × Nat) :=
  (List.range drive.length).filterMap (fun i =>
    let d := drive.getD i 0
    if d = 0 then none else some (d, getD 0 (base + i) rows))

/-- The column sum S(c) over the driven rows (R22). -/
def columnSum (dr : List (Int × Nat)) (c : Nat) : Int :=
  (dr.map (fun x => if bit x.2 c then x.1 else 0)).sum

/-- The deviation of array `addr`'s column `c` in 1/256 unit (R24, R25). -/
def deviation (err : Analog) (addr c : Nat) : Int :=
  ((err.find? (fun x => x.1 = addr && x.2.1 = c)).map (·.2.2)).getD 0

/-- A main converter's code for a held charge of `q` / 256 units (R24). -/
def mainCode (q : Int) : Int := max (-128) (min 127 ((q + 128) / 256))

/-- A tracing converter's result, eight times its code, for column sum `x` (R39). -/
def tracingCode (x : Int) : Int := 8 * max (-16) (min 15 ((x + 4) / 8))

/-- The codes of all 272 columns of the array that serves `addr` (R22–R24, R39). A column in its calibration step converts on the
channel of the keeper that stands in for it (R30, R394). -/
def State.passCodes (s : State) (addr base : Nat) (drive : List Int) (err : Analog) : List Int :=
  let sv := s.servingArray addr
  let dr := drivenRows (s.arr sv).rows base drive
  let tap := s.tap sv
  (List.range 272).map (fun c =>
    let x := columnSum dr c
    let chan := match tap with
      | some (d, k) => if c = d then 256 + k else c
      | none => c
    if isTracing addr then tracingCode x else mainCode (256 * x + deviation err sv chan))

/-- A pass whose codes are ready, for one array that it named: the codes, which columns served, and which keepers compared. -/
def State.withCodes (s : State) (p : PassRec) (addr : Nat) (codes : List Int) : PassRec :=
  let sv := s.servingArray addr
  { p with arrays := [addr % 64], codes := [(addr % 64, codes)]
           serve := servingCols (s.arr sv) (s.repair sv), comp := s.comparing sv }

/-- The code that a pass gave for data column `c`, by the columns that served when it ran. -/
def PassRec.code (p : PassRec) (codes : List Int) (c : Nat) : Int :=
  codes.getD (((p.serve.find? (fun x => x.1 = c)).map (·.2)).getD c) 0

/-- The keeper code that a pass compared with data column `c`. -/
def PassRec.keeperCode (p : PassRec) (codes : List Int) (c : Nat) : Option Int :=
  (p.comp.find? (fun x => x.2 = c)).map (fun x => codes.getD (256 + x.1) 0)

/-- The code that serves data column `c` among the 272 codes of a pass. -/
def State.dataCode (s : State) (addr : Nat) (codes : List Int) (c : Nat) : Int :=
  let sv := s.servingArray addr
  codes.getD (codeColumn (s.arr sv) (s.repair sv) c) 0

/-- Whether a code lies in [−N, +P] (R26). -/
def inBound (drive : List Int) (code : Int) : Bool := - (countN drive : Int) ≤ code && code ≤ countP drive

/-- The keeper of data column `c` of array `addr` and the code it gives now, when a keeper that compares covers the column. -/
def State.shadowCode (s : State) (addr : Nat) (codes : List Int) (c : Nat) : Option Int :=
  ((s.comparing (s.servingArray addr)).find? (fun x => x.2 = c)).map (fun x => codes.getD (256 + x.1) 0)

/-- The converted columns of a pass that gave no data column's code and did not compare, numbered: keepers and patches by their
column, a data column that another column served as 272 + c. -/
def PassRec.idleCols (p : PassRec) : List Nat :=
  ((List.range 16).map (256 + ·)).filter (fun c => !p.serve.any (fun x => x.2 = c) && !p.comp.any (fun x => 256 + x.1 = c)) ++
    p.serve.map (fun x => 272 + x.1)

/-- The code of a disputed column: a data column as it was served, 256–271 a keeper or patch column, 272 + c the unserved data column c. -/
def PassRec.colCode (p : PassRec) (codes : List Int) (c : Nat) : Int :=
  if c < 256 then p.code codes c else codes.getD (if c < 272 then c else c - 272) 0

/-- The disputed columns of a pass over one array: a keeper that compared gave another code, or the code of a converted column is
out of bounds (R26, R81). -/
def PassRec.disputed (p : PassRec) (codes : List Int) : List Nat :=
  ((List.range 256).filter (fun c =>
    !inBound p.drive (p.code codes c) ||
      (match p.keeperCode codes c with
        | some x => decide (x ≠ p.code codes c)
        | none => false))) ++
    p.idleCols.filter (fun c => !inBound p.drive (p.colCode codes c))

/-- The exact column sum of data column `c` from the stack copy of the image (R22, R321, R357). -/
def State.refSum (s : State) (addr base : Nat) (drive : List Int) (c : Nat) : Int :=
  columnSum (drivenRows (getD [] addr s.stackCopy) base drive) c

/-! ### Known sums (R326) -/

/-- The offset of a known sum in the area of its array: basic window, plane, logical data column. -/
def sumOffset (k j c : Nat) : Nat := 1792 * k + 256 * j + c

/-- The known sums of contents `rows` for proof block `pb`, zeros left out. -/
def knownSums (rows : Tbl Nat) (pb : Nat) : Tbl Int :=
  (List.range 4).flatMap (fun k => (List.range 7).flatMap (fun j =>
    let dr := drivenRows rows (128 * k) (blockDrive (proofBlock pb) j)
    (List.range 256).filterMap (fun c =>
      let x := columnSum dr c
      if x = 0 then none else some (sumOffset k j c, x))))

/-- The stored known sum of an array (R326). -/
def State.knownSum (s : State) (addr k j c : Nat) : Int := getD 0 (sumOffset k j c) (getD [] addr s.sums)

/-- The reference path has formed the known sums of array `addr`; `wrong` lists bytes of its area that hold another value than it formed. -/
def State.formSums (s : State) (addr : Nat) (wrong : List (Nat × Int)) : State :=
  let t := wrong.foldl (fun t x => if x.2 = 0 then del (x.1 % 7168) t else put (x.1 % 7168) x.2 t)
    (knownSums (getD [] addr s.stackCopy) (s.arr addr).pb)
  { s.setArr addr { s.arr addr with sumsOk := true, sumsTick := s.tick } with
    sums := if t.isEmpty then del addr s.sums else put addr t s.sums }

/-- A pass in flight names an array that the cells of `sv` serve (R29). -/
def State.inPass (s : State) (sv : Nat) : Bool :=
  [sv / 64, if sv / 64 % 2 = 0 then sv / 64 + 1 else sv / 64 - 1].any (fun t =>
    ((s.tile t).flight ++ (s.tile t).trace).any (fun p => p.arrays.any (fun a => s.servingArray (arrayAddr t a) = sv)))

end Sys2Proof.Machine
end

