-- ==== Sys2Proof/Machine/Wheel.lean ====
section
/-!
DEFINITION. The pommel's arithmetic: the wheel (R178–R181), deadlines (R173), budgets (R175–R178) and the bounds of
admission (R185).
-/

namespace Sys2Proof.Machine

open Sys2Proof

/-! ### The wheel (R180) -/

/-- dev_term: one stage's bound for one full beat, in ticks (R180). -/
def devTerm (m : Model) (f : Figures) : Nat :=
  let cyc := f.w + ceilDiv m.nCap 64 * (if m.resOnly then f.ar else f.as)
  let t := ceilDiv (cyc * 25) m.fpMhz + 2 * f.hkChunk
  ceilDiv (t * 1000) (1000 - f.hkPerm)

/-- T_DRAFT in force: 0 in a girth that does not draft, else the value set, or ceil((W(B) + DW(B)) · 25 / FP_MHZ) from the pommel's report (R179,
R222). -/
def draftBound (m : Model) (drafts : Bool) (figs : List Figures) : Nat :=
  if ¬ drafts then 0
  else if m.tDraft ≠ 0 then m.tDraft
  else ceilDiv ((figs.head?.map (·.w)).getD 0 * 25) m.fpMhz

/-- The wheel of a girth from its stages' figures, pommel first (R180). -/
def wheelOf (m : Model) (drafts : Bool) (figs : List Figures) (b hRet : Nat) : Wheel :=
  let tDraft := draftBound m drafts figs
  let tGap := (figs.map (devTerm m)).foldl max 0
  let tRing := (figs.map (fun f => devTerm m f + f.hopIn)).sum
  let k := ceilDiv (tDraft + tRing + hRet) tGap
  let pf := if m.pfRows = 0 then ceilDiv k 4 else m.pfRows
  { k, b, tGap, c := k * tGap, tRing, hRet, pfRows := if k < pf + 1 then k - 1 else pf, tDraft, model := m }

/-- The draft depth of the partition's table set (R219). -/
def State.dmax (s : State) (p : Nat) : Nat := ((s.part p).table.map (·.dmax)).getD 0

/-- A girth's figures with the housekeeping floors that members have set since (R192): a stage's own once every device of it has set one,
and until then no less than either. -/
def Girth.figsNow (g : Girth) : List Figures :=
  match g.record with
  | none => g.figs
  | some r => g.figs.map (fun f =>
      let ms := (List.range r.n).filter (fun k => r.stageOf k = f.stage)
      let vs := ms.filterMap (fun k => find? k g.floors)
      let (a, b) := if vs.length = ms.length then (0, 0) else (f.hkPerm, f.hkChunk)
      { f with hkPerm := (vs.map (·.1)).foldl max a, hkChunk := (vs.map (·.2)).foldl max b })

/-- The wheel that the girth's present model and figures give (R188, R192). -/
def State.newWheel (s : State) (p : Nat) : Wheel :=
  let g := s.girth p
  wheelOf g.model (s.dmax p > 0) g.figsNow g.b g.hRet

/-! ### Deadlines and budgets (R173–R178) -/

/-- The deadline of the next token (R173). -/
def Entry.deadline (e : Entry) : Nat := (e.tRef + 25 * e.ttft + (e.tokens - e.kbase) * (25 * e.tpt)) % 2 ^ 64

/-- A request holds a promise. -/
def Entry.promised (e : Entry) : Bool := !e.be

/-- The largest TICKS (R175). -/
def ticksMax : Nat := 0x0FFFFFFF

/-- The budget of a step issued at tick `t` (R175, R176, R189, R196). -/
def Entry.issueBudget (e : Entry) (t : Nat) : Nat :=
  if e.be then 2 ^ 30
  else if e.deadline < t then 2 ^ 28
  else min (e.deadline - t) ticksMax

/-- TICKS of a budget (R175). -/
def budTicks (b : Nat) : Nat := bits b 27 0
/-- MISSED. -/
def budMissed (b : Nat) : Bool := bit b 28
/-- BRAKE. -/
def budBrake (b : Nat) : Bool := bit b 29
/-- UNPROM. -/
def budUnprom (b : Nat) : Bool := bit b 30

/-- The budget that leaves a device after `e` ticks, `hin` the hop bound of the link the beat arrived on (R177, R178): a
saturated budget is decremented like any other, MISSED stays, and UNPROM carries no ticks. -/
def budgetOut (b hin e : Nat) : Nat :=
  let cost := hin + e + 1 + ceilDiv e 4096
  let flags := b - budTicks b
  if budUnprom b then flags
  else if budTicks b < cost then 2 ^ 28 * b2n (¬ budMissed b) + flags
  else budTicks b - cost + flags

/-! ### The bounds of admission (R185) -/

/-- The index of the smallest count, the lower index on a tie. -/
def argmin (l : List Nat) : Nat :=
  let m := l.foldl min (l.headD 0)
  (l.findIdx? (· = m)).getD 0

/-- Rides before a prefill row is free: each queued prefill takes the row that is free first (R185). -/
def rowFreeAfter (rem : List Nat) (queue : List Nat) : Nat :=
  let rides := queue.foldl (fun l q => l.set (argmin l) (l.getD (argmin l) 0 + q)) rem
  rides.getD (argmin rides) 0

/-- Ticks as whole microseconds, rounded up (R185). -/
def usUp (t : Nat) : Nat := ceilDiv t 25

end Sys2Proof.Machine
end

