-- ==== Sys2Proof/Machine/Ledger.lean ====
section
/-!
DEFINITION. Requests in the ledger: handles (R164, R165), the lifecycle's shared transitions (R171, R172, R200) and the
device's role in a girth (R230, R231).
-/

namespace Sys2Proof.Machine

open Sys2Proof

/-! ### Handles -/

/-- The ledger index of a handle (R164). -/
def handleIdx (h : Nat) : Nat := h % 2 ^ 20

/-- The generation of a handle (R164). -/
def handleGen (h : Nat) : Nat := h / 2 ^ 20 % 2 ^ 12

/-- The handle of index `i` with generation `g` (R164). -/
def mkHandle (i g : Nat) : Nat := i + 2 ^ 20 * g

/-- The entry that a handle names: none where it is FREE or of another generation (R165). -/
def State.entryOf (s : State) (h : Nat) : Option Entry :=
  let e := s.entry (handleIdx h)
  if e.st = .free ∨ e.gen ≠ handleGen h then none else some e

/-- Active: ADMITTED, PREFILL, DECODE, PAUSED or RESUMING (R171). -/
def ReqState.active : ReqState → Bool
  | .admitted | .prefill | .decode | .paused | .resuming => true
  | .free | .done | .failed => false

/-- The handles of the entries of partition `p` that satisfy a test, in index order. -/
def State.handlesOf (s : State) (p : Nat) (f : Entry → Bool) : List Nat :=
  s.ledger.filterMap (fun x => if x.2.part = p ∧ f x.2 then some (mkHandle x.1 x.2.gen) else none)

/-- The active requests of partition `p`. -/
def State.activeOf (s : State) (p : Nat) : List Nat := s.handlesOf p (fun e => e.st.active)

/-- Any partition holds an active request. -/
def State.anyActive (s : State) : Bool := s.ledger.any (fun x => x.2.st.active)

/-! ### Roles (R230, R231) -/

/-- A girth state as the number a hello carries, in the order of R248. -/
def GState.num : GState → Nat
  | .unset => 0 | .set => 1 | .linked => 2 | .running => 3 | .held => 4 | .stopped => 5

/-- This device's girth position for partition `p` (R233). -/
def Girth.gpos (g : Girth) : Nat := (g.record.map (·.gpos)).getD 0

/-- This device is the pommel of partition `p`'s girth (R231). -/
def State.isPommel (s : State) (p : Nat) : Bool := (s.girth p).record.isSome && (s.girth p).gpos = 0

/-- This device is the cantle of partition `p`'s girth (R231). -/
def State.isCantle (s : State) (p : Nat) : Bool :=
  match (s.girth p).record with
  | some r => r.gpos + 1 = r.n
  | none => false

/-- The partition whose girth has ledger number `l`, 16 where none has (R166). -/
def State.partOfLedger (s : State) (l : Nat) : Nat :=
  ((List.range 16).find? (fun p => match (s.girth p).record with
    | some r => r.ledger = l
    | none => false)).getD 16

/-! ### Shared transitions -/

/-- A condition of REST that did not hold has ended at this tick (R436). -/
def State.busyMark (s : State) : State := { s with pwr := { s.pwr with idleSince := s.tick } }

/-- The spans and the wheel's claims of a request are given up (R171). -/
def State.freeSpans (s : State) (h : Nat) : State :=
  let x := s.extn (handleIdx h)
  s.setExt (handleIdx h) { x with spans := [], migrating := false, migWait := false }

/-- The pool blocks of a request are freed (R162, R171). -/
def State.freePool (s : State) (h : Nat) : State :=
  let x := s.extn (handleIdx h)
  s.setExt (handleIdx h) { x with nblk := 0, poolData := false, migrating := false, migWait := false, saved := [] }

/-- The first prefill row below `n` that no request holds (R182). -/
def freeRow (n : Nat) (rows : Tbl Nat) : Option Nat := (List.range n).find? (fun i => (find? i rows).isNone)

/-- Free prefill rows go to the queued prefills in admission order (R182, R185). -/
def Girth.assignRows : Nat → Girth → Girth
  | 0, g => g
  | n + 1, g =>
    match g.queue, freeRow g.wheel.pfRows g.pfRow with
    | h :: rest, some i => Girth.assignRows n { g with queue := rest, pfRow := put i h g.pfRow }
    | _, _ => g

/-- The girth with free prefill rows given out. -/
def Girth.assign (g : Girth) : Girth := g.assignRows g.queue.length

/-- Issued beats without a request; a beat all of whose requests are back is no longer in flight (R181). -/
def dropIssued (h : Nat) (l : List IssuedBeat) : List IssuedBeat :=
  (l.map (fun b => { b with slots := b.slots.filter (fun x => x.2.1 ≠ h) })).filter (fun b => !b.slots.isEmpty)

/-- A request gives up its place in a prefill row; the row goes to the next queued prefill (R171, R182). -/
def State.leaveRow (s : State) (p h : Nat) : State :=
  let g := s.girth p
  s.setGirth p ({ g with pfRow := g.pfRow.filter (fun x => x.2 ≠ h), queue := g.queue.filter (· ≠ h) }).assign

/-- A request leaves the girth's rows, queue, re-admissions, re-issues and issued beats. -/
def State.forget (s : State) (p h : Nat) : State :=
  let s := s.leaveRow p h
  let g := s.girth p
  s.setGirth p { g with
    readmits := g.readmits.filter (· ≠ h)
    issued := dropIssued h g.issued }

/-- The wheel of partition `p` stops (R181): figures that waited take effect at the pommel, and HOUSEKEEP_SET values on this
device (R188, R192). -/
def State.stopWheel (s : State) (p : Nat) : State :=
  let g := s.girth p
  let q := s.part p
  let s := s.setGirth p { g with
    t0 := none, lastIssue := none, margin := none, issued := [], beatNo := 0
    wheel := if g.figs.isEmpty then g.wheel else s.newWheel p }
  match q.hkNext with
  | some (a, b) => s.setPart p { q with hkPerm := a, hkChunk := b, hkNext := none }
  | none => s

/-- A girth that is stopped holds no layer at the halter barrier (R399, log 123). -/
def State.releaseHold (s : State) (p : Nat) : State :=
  match (s.part p).swap with
  | some sw => s.setPart p { s.part p with swap := some { sw with held := [] } }
  | none => s

/-- The wheel stops when no request is active and no beat is in flight (R181). -/
def State.wheelRest (s : State) (p : Nat) : State :=
  let g := s.girth p
  if (s.activeOf p).isEmpty ∧ g.issued.isEmpty ∧ (s.part p).beats.isEmpty ∧
      (g.t0.isSome ∨ (s.part p).hkNext.isSome ∨ g.model ≠ g.wheel.model ∨ (¬ g.figs.isEmpty ∧ s.newWheel p ≠ g.wheel)) then s.stopWheel p else s

/-- The beats in flight are abandoned and the wheel restarts with a new T0 (R181, R258, R262). -/
def State.abandonBeats (s : State) (p : Nat) : State :=
  let g := s.girth p
  s.setGirth p { g with t0 := none, lastIssue := none, margin := none, issued := [], beatNo := 0, pfRow := [], queue := [] }

/-- The END notice of a request (R288). -/
def State.endNotice (s : State) (h : Nat) (e : Entry) (status : Nat) : State :=
  s.notice (s.extn (handleIdx h)).subPart 1 status e.tag [h, e.l, e.tokens, e.void]

/-- A request ends at the pommel (R171): STATE and STATUS are written, the members get a RELEASE, this device frees its
spans and pool blocks, and the END notice follows. -/
def State.endRequest (s : State) (h : Nat) (failed : Bool) (status : Nat) : State :=
  match s.entryOf h with
  | none => s
  | some e =>
    if ¬ e.st.active then s
    else
      let e' := { e with st := if failed then ReqState.failed else .done, status, pend := .none, halt := false, row := 0xFF }
      let x := s.extn (handleIdx h)
      let s := s.setEntry (handleIdx h) e'
      let s := s.setExt (handleIdx h) { x with inFlight := false, missed := false, stepPos := 0, drafts := [], drafted1 := false, draftAt := none, nextStep := none }
      let s := (((s.freeSpans h).freePool h).forget e.part h).busyMark
      let s : State := if (s.girth e.part).st = .held then
          s.setGirth e.part { s.girth e.part with ended := (s.girth e.part).ended ++ [h] } else s
      ((s.rein e.part (.release h false)).endNotice h e' status).wheelRest e.part

/-- A member frees a request: spans and pool blocks go, and its entry goes to FREE (R168, R171). -/
def State.memberFree (s : State) (h : Nat) : State :=
  match s.entryOf h with
  | none => s
  | some e =>
    let s := ((s.freeSpans h).freePool h).busyMark
    ((s.setExt (handleIdx h) {}).setEntry (handleIdx h) { gen := e.gen }).wheelRest e.part

/-- A member's report that a request ended FAULT_ABORT here goes up the rein tree (R200; log 20). -/
def State.reportAbort (s : State) (p h : Nat) : State := s.sendFree p (.faultAbort p h) 0 4 (s.reinPorts p .up)

/-- A fault ends one request on this device (R168, R170, R200): FAILED with FAULT_ABORT at the pommel; a member reports it and frees its own
entry, which is never FAILED. -/
def State.abortHere (s : State) (p h : Nat) : State :=
  if s.isPommel p ∨ (s.girth p).record.isNone then s.endRequest h true 0x0A else (s.reportAbort p h).memberFree h

/-- VOID takes a cause (R200): 1 BRAKE, 2 RESTART, 3 PEER, 4 THERMAL, 5 STOP. -/
def State.voidPromise (s : State) (h cause : Nat) : State :=
  match s.entryOf h with
  | none => s
  | some e => s.setEntry (handleIdx h) { e with void := cause }

/-- Every active request of partition `p` ends here with a cause in VOID (0 leaves VOID unchanged) and a status; a member reports those that
fail (R168, R200). -/
def State.endAll (s : State) (p void : Nat) (failed : Bool) (status : Nat) : State :=
  (s.activeOf p).foldl (fun s h =>
    let s := if void = 0 then s else s.voidPromise h void
    if s.isPommel p ∨ (s.girth p).record.isNone then s.endRequest h failed status
    else (if failed then s.reportAbort p h else s).memberFree h) s

/-- A restart takes a request back to PREFILL with L = 0 (R171, R200): VOID = RESTART, and it waits for READMIT. -/
def State.restartRequest (s : State) (h : Nat) : State :=
  match s.entryOf h with
  | none => s
  | some e =>
    let x := s.extn (handleIdx h)
    let s := s.setExt (handleIdx h)
      { x with ld := 0, inFlight := false, missed := false, stepPos := 0, drafts := [], drafted1 := false, draftAt := none
               decided := [], selDone := false, got := [], noPost := false, seen := 0, nextStep := none }
    let e' := { e with st := .prefill, l := 0, void := if s.isPommel e.part then 2 else e.void,
                       restarts := if s.isPommel e.part then satAdd 16 e.restarts 1 else e.restarts, row := 0xFF }
    let s := s.setEntry (handleIdx h) (if s.isPommel e.part then e' else { e with st := .prefill, l := 0 })
    if s.isPommel e.part then
      let g := s.girth e.part
      s.setGirth e.part { g with queue := g.queue.filter (· ≠ h),
                                 readmits := if h ∈ g.readmits then g.readmits else g.readmits ++ [h] }
    else s

/-- The requests of partition `p` that a restart takes back: ADMITTED, PREFILL, DECODE and RESUMING (R171, R366). -/
def State.restartAll (s : State) (p : Nat) : State :=
  (s.handlesOf p (fun e => e.st = .admitted || e.st = .prefill || e.st = .decode || e.st = .resuming)).foldl
    State.restartRequest s

/-- The aborts noted during a beat are carried out at its end (R50, R62, R147, R200): at the pommel the request ends
FAILED with FAULT_ABORT; another member reports it (log 20). -/
def State.flushAborts (s : State) (p : Nat) : State :=
  let hs := (s.part p).abort
  let s := s.setPart p { s.part p with abort := [] }
  hs.foldl (fun s h =>
    if s.isPommel p ∨ (s.girth p).record.isNone then s.endRequest h true 0x0A else s.reportAbort p h) s

end Sys2Proof.Machine
end

