-- ==== Sys2Proof/Machine/Fabric.lean ====
section
/-!
DEFINITION. The fabric: reservation credits (R84, R85, R124, R132), message copies on their way and the flits that arrive
(R123–R128), stalled SENDs (R127) and slice refresh (R110).
-/

namespace Sys2Proof.Machine

open Sys2Proof

/-! ### Senders

A member grants one credit to each of its senders per filling (R84, R85). A sender is a number. -/

/-- The sender that is stitch `i` of tile `t`. -/
def stitchSender (t i : Nat) : Nat := t * 4096 + i
/-- The sender that is descriptor `d` of engine `port` (64 burnisher, 65 attention engine) of cluster `c`. -/
def engineSender (port c d : Nat) : Nat := 2 ^ 23 + port * 2 ^ 16 + c * 2 ^ 8 + d
/-- The sender behind the message with FIRST `first` of ingress entry `e` of partition `p` (R251). -/
def ingressSender (p e first : Nat) : Nat := 2 ^ 31 + p * 2 ^ 20 + e * 2 ^ 10 + first
/-- The same sender in a draft run (R222): a draft run's messages go to reservations that draft runs opened (log 130). -/
def draftSender (draft : Bool) (n : Nat) : Nat := if draft then 2 ^ 40 + n else n

/-! ### The mesh (R114–R118) -/

/-- The cluster of a Luawin port (R118). -/
def edgeCluster (port : Nat) : Nat := [0, 4, 8, 12, 3, 7, 11, 15].getD port 16

/-- The clusters of the mesh links from `a` to `b`: along the row, then along the column (R114). -/
def meshRoute (a b : Nat) : List (Nat × Nat) :=
  let row := a / 4 * 4
  let x := a % 4
  let y := b % 4
  let across := if x ≤ y then (List.range (y - x)).map (fun i => (row + x + i, row + x + i + 1))
    else (List.range (x - y)).map (fun i => (row + x - i, row + x - i - 1))
  let r := a / 4
  let q := b / 4
  let down := if r ≤ q then (List.range (q - r)).map (fun i => (4 * (r + i) + y, 4 * (r + i + 1) + y))
    else (List.range (r - q)).map (fun i => (4 * (r - i) + y, 4 * (r - i - 1) + y))
  across ++ down

/-- The routers from cluster `a` to cluster `b`, both included (R114). -/
def meshPath (a b : Nat) : List Nat := a :: (meshRoute a b).map (·.2)

/-- The input by which a flit enters a router: 0 from the crossbar, 1 from the Luawin port, 2 from the router whose cluster it left (R116). -/
abbrev RouterIn := Nat × Nat

/-- The input by which a message enters router `r` of a path. -/
def MeshMsg.inputAt (m : MeshMsg) (path : List Nat) (r : Nat) : RouterIn :=
  match (path.zip (path.drop 1)).find? (fun x => x.2 = r) with
  | some x => (2, x.1)
  | none => (if m.edge then 1 else 0, 0)

/-- An interior router (R116). -/
def interior (r : Nat) : Bool := r = 5 || r = 6 || r = 9 || r = 10

/-- The link by which a stack feed route enters router `r` from another router (R117). -/
def feedLink (r : Nat) (i : RouterIn) : Bool :=
  i.1 = 2 && ((decide (4 ≤ r ∧ r ≤ 7) && decide (i.2 + 4 = r)) || (decide (8 ≤ r ∧ r ≤ 11) && decide (i.2 = r + 4)))

/-- The flits that an input buffer of router `r` holds on a channel: on a feed route half of the KV buffers are the feed's (R116). -/
def bufDepth (r : Nat) (i : RouterIn) : Channel → Nat
  | .rein => if interior r then 8 else 16
  | .kv => (if interior r then 128 else 256) / (if feedLink r i then 2 else 1)
  | .bulk => if interior r then 128 else 256

/-- The copies of message `m`. -/
def State.meshCopies (s : State) (m : MeshMsg) : List Copy := s.fabric.filter (fun c => c.mesh = some m.no)

/-- The flits of message `m` that router `r`'s input buffer holds: those that have entered it and not yet left it on every branch (R114, R116). -/
def State.meshHeld (s : State) (m : MeshMsg) (r : Nat) : Nat :=
  let outs := (s.meshCopies m).filterMap (fun c =>
    let path := meshPath m.src c.dest.cluster
    if ¬ path.contains r then none
    else match (path.zip (path.drop 1)).find? (fun x => x.1 = r) with
      | some x => some (getD 0 x.2 m.crossed)
      | none => some c.flits)
  match outs with
  | [] => 0
  | o :: os => getD 0 r m.crossed - os.foldl min o

/-- The flits that an input buffer of router `r` holds on a channel (R116). -/
def State.bufUsed (s : State) (r : Nat) (i : RouterIn) (chan : Channel) : Nat :=
  (s.mesh.map (fun m =>
    if m.chan = chan ∧ (s.meshCopies m).any (fun c =>
      let path := meshPath m.src c.dest.cluster
      path.contains r && m.inputAt path r == i) then s.meshHeld m r else 0)).sum

/-- Flit `k` of message `m` goes on from router to router of a path, each time into a buffer that has room: the credit of R116. The state, and
whether it has reached the path's end. -/
def State.meshGo (k : Nat) (path : List Nat) : List Nat → State → Nat → State × Bool
  | [], s, _ => (s, true)
  | r :: rs, s, no =>
    match s.mesh.find? (fun m => m.no = no) with
    | none => (s, true)
    | some m =>
      if k ≤ getD 0 r m.crossed then State.meshGo k path rs s no
      else
        let i := m.inputAt path r
        if bufDepth r i m.chan ≤ s.bufUsed r i m.chan then (s, false)
        else
          let m' := { m with crossed := put r k m.crossed }
          State.meshGo k path rs { s with mesh := s.mesh.map (fun y => if y.no = no then m' else y) } no

/-- The next flit of a copy goes to its member's cluster, as far as the buffers let it. -/
def State.meshNext (s : State) (cp : Copy) : State × Bool :=
  match cp.mesh with
  | none => (s, true)
  | some no => match s.mesh.find? (fun m => m.no = no) with
    | none => (s, true)
    | some m =>
      let path := meshPath m.src cp.dest.cluster
      State.meshGo (cp.flits + 1) path path s no

/-- Messages all of whose copies are complete leave the mesh. -/
def State.meshPrune (s : State) : State := { s with mesh := s.mesh.filter (fun m => !(s.meshCopies m).isEmpty) }

/-! ### Engine reservations (R132, R140, R203) -/

/-- Draft runs filled the bank: a sender of theirs has used its credit (R222, log 130). -/
def EngResv.isDraft (r : EngResv) : Bool := r.senders.any (fun n => decide (2 ^ 40 ≤ n))

/-- The table of reservations behind a port: 64 burnisher, 65 attention engine, 66 slice. -/
def Cluster.engTbl (x : Cluster) (port : Nat) : Tbl EngResv :=
  if port = 64 then x.burn else if port = 65 then x.attn else x.logit

/-- A bank of an engine reservation. -/
def Cluster.eng (x : Cluster) (port rbuf bank : Nat) : EngResv := getD {} (rbuf * 2 + bank) (x.engTbl port)

/-- The cluster with a bank of an engine reservation set. -/
def Cluster.setEng (x : Cluster) (port rbuf bank : Nat) (r : EngResv) : Cluster :=
  let k := rbuf * 2 + bank
  if port = 64 then { x with burn := put k r x.burn }
  else if port = 65 then { x with attn := put k r x.attn }
  else { x with logit := put k r x.logit }

/-- The bank that receives next (R132, R140, R203). -/
def Cluster.engBank (x : Cluster) (port rbuf : Nat) : Nat :=
  getD 0 rbuf (if port = 64 then x.burnBank else if port = 65 then x.attnBank else x.logitBank)

/-- The cluster with the receiving bank of a reservation set. -/
def Cluster.setEngBank (x : Cluster) (port rbuf b : Nat) : Cluster :=
  if port = 64 then { x with burnBank := put rbuf b x.burnBank }
  else if port = 65 then { x with attnBank := put rbuf b x.attnBank }
  else { x with logitBank := put rbuf b x.logitBank }

/-- The reservations that an attention descriptor names, with the blocks R475 gives each. -/
def attnInputs (d : AttnDesc) : List (Nat × Nat) :=
  let nb := 2 ^ d.nbl
  match d.op with
  | 1 => [(d.rbufQ, d.g * nb), (d.rbufX, 2 * nb)]
  | 2 => [(d.rbufQ, 1)]
  | 3 => [(d.rbufX, d.nx + 1)]
  | 4 => [(d.rbufQ, 2), (d.rbufX, d.nx + 1)]
  | 5 => [(d.rbufQ, 2), (d.rbufX, (d.nexp + 1) * (d.nx + 1))]
  | _ => []

/-- The reservations that a burnisher descriptor names, with NBLK + 1 blocks each (R131, R134). -/
def burnInputs (d : BurnDesc) : List (Nat × Nat) :=
  if d.op = 5 ∧ d.rbufB ≠ d.rbufA then [(d.rbufA, d.nblk + 1), (d.rbufB, d.nblk + 1)] else [(d.rbufA, d.nblk + 1)]

/-- The descriptors of an engine of a cluster as the reservations and block counts they name. -/
def TableSet.engDescs (ts : TableSet) (port c : Nat) : List (List (Nat × Nat)) :=
  if port = 64 then (getD [] c ts.burn).map burnInputs
  else if port = 65 then (getD [] c ts.attn).map attnInputs
  else []

/-- The blocks that complete a reservation: the largest count among the descriptors that name it (R121, R475), or the
logit map's NBLK for port 66 (R203); 0 where nothing names it. -/
def TableSet.engBlocks (ts : TableSet) (port c rbuf : Nat) : Nat :=
  if port = 66 then
    (((ts.logit ++ ts.dlogit).find? (fun e => e.cluster = c ∧ e.rbuf = rbuf)).map (·.nblk)).getD 0
  else (((ts.engDescs port c).flatten.filter (fun x => x.1 = rbuf)).map (·.2)).foldl max 0

/-- The partial headers that complete a reservation: NPROD for the burnisher (R131); 0, none asked, elsewhere. -/
def TableSet.engProds (ts : TableSet) (port c rbuf : Nat) : Nat :=
  if port = 64 then
    (((getD [] c ts.burn).filter (fun d => (burnInputs d).any (fun x => x.1 = rbuf))).map (·.nprod)).foldl max 0
  else 0

/-- How often descriptor `d` may fire now: banks of each reservation it names that are full and have not fired it. -/
def Cluster.firings (x : Cluster) (port d : Nat) (ins : List (Nat × Nat)) : Nat :=
  (ins.map (fun i => (List.range 2).countP (fun b =>
    (x.eng port i.1 b).full && !((x.eng port i.1 b).fired.contains d)))).foldl min 2

/-- The queue of an engine's descriptors ready to run. -/
def Cluster.readyQ (x : Cluster) (port : Nat) : List Nat := if port = 64 then x.burnQ else x.attnQ

/-- The cluster with an engine's ready queue set. -/
def Cluster.setReadyQ (x : Cluster) (port : Nat) (q : List Nat) : Cluster :=
  if port = 64 then { x with burnQ := q } else { x with attnQ := q }

/-- Descriptors that a completed reservation makes ready join the engine's queue, ties to the lower index (R132). -/
def Cluster.queueReady (x : Cluster) (port : Nat) (descs : List (List (Nat × Nat))) : Cluster :=
  (List.range descs.length).foldl (fun x d =>
    let ins := descs.getD d []
    if ins.isEmpty ∨ ¬ (x.readyQ port).countP (· = d) < x.firings port d ins then x
    else x.setReadyQ port (x.readyQ port ++ [d])) x

/-- The bank from which descriptor `d` takes reservation `rbuf`: of the full banks that have not fired it, the one that
filled first, which is the receiving bank once both are full (R132). -/
def Cluster.fireBank (x : Cluster) (port rbuf d : Nat) : Option Nat :=
  let b := x.engBank port rbuf
  [b, 1 - b].find? (fun k => (x.eng port rbuf k).full && !((x.eng port rbuf k).fired.contains d))

/-- The firing of descriptor `d` that comes next works for a draft run: draft runs filled a bank that it takes (R222, log 130). -/
def Cluster.firesDraft (x : Cluster) (port d : Nat) (ins : List (Nat × Nat)) : Bool :=
  ins.any (fun i => match x.fireBank port i.1 d with
    | some b => (x.eng port i.1 b).isDraft
    | none => false)

/-- A firing of descriptor `d` has used bank `b` of `rbuf`: when every descriptor that names the reservation has fired on
this filling, the bank is empty again (R132, log 21). -/
def Cluster.consume (x : Cluster) (port rbuf b d : Nat) (descs : List (List (Nat × Nat))) : Cluster :=
  let r := x.eng port rbuf b
  let fired := d :: r.fired
  let users := (List.range descs.length).filter (fun k => (descs.getD k []).any (fun i => i.1 = rbuf))
  if users.all (fun k => fired.contains k) then x.setEng port rbuf b {} else x.setEng port rbuf b { r with fired }

/-! ### Credit (R84, R85, R124) -/

/-- Whether a queued stitch reads input block `i` from memory yet: a SEND of input blocks or an INLAY. -/
def QEnt.readsIn (q : QEnt) (i : Nat) : Bool :=
  match q.op with
  | .send src skind count _ _ _ _ _ _ _ => skind = 2 && bankEntry q.run src ≤ i && i < bankEntry q.run src + count
  | .inlay _ _ iblk _ _ => bankEntry q.run iblk ≤ i && i < bankEntry q.run iblk + 4
  | _ => false

/-- Whether a pass reads input block `i`. -/
def PassRec.readsIn (p : PassRec) (i : Nat) : Bool := p.iblk = i || (p.wkind = 2 && p.iblk + 1 = i)

/-- Input block `i` is still read by an earlier stitch, an unchecked pass or an open dispute (R94, R351). -/
def Tile.inHeld (x : Tile) (i : Nat) : Bool :=
  (x.sendQ ++ x.inlayQ).any (fun q => q.readsIn i) ||
  (x.flight ++ x.trace).any (fun p => p.readsIn i) ||
  x.wrs.any (fun w => !w.2.checked && w.2.recs.any (fun p => p.wkind ≠ 3 && p.readsIn i)) ||
  x.disputes.any (fun d => d.pass.readsIn i)

/-- Whether a queued stitch reads tally slot `i`: a SKIVE or a SEND of a tally slot. -/
def QEnt.readsSlot (q : QEnt) (i : Nat) : Bool :=
  match q.op with
  | .skive tslot _ _ _ _ _ _ _ => bankEntry q.run tslot = i
  | .send src skind _ _ _ _ _ _ _ _ => skind = 1 && bankEntry q.run src = i
  | _ => false

/-- An earlier queued stitch still reads E_ref register `v` (R94): a TALLY, an INLAY, or a SEND that carries it. -/
def Tile.vregRead (x : Tile) (seq v : Nat) : Bool :=
  (x.tallyQ ++ x.sendQ ++ x.inlayQ).any (fun q => decide (q.seq < seq) &&
    (match q.op with
      | .tally _ _ vreg _ => bankVreg q.run vreg = v
      | .send _ skind _ _ _ _ _ _ vreg _ => skind ≠ 0 && bankVreg q.run vreg = v
      | .inlay _ _ _ vreg _ => bankVreg q.run vreg = v
      | _ => false))

/-- A queued SEND or INLAY of the reservation's run still reads a block that it took (R94). -/
def Tile.resvRead (x : Tile) (r : Resv) : Bool :=
  !r.tallyKind && (x.sendQ ++ x.inlayQ).any (fun q => q.run = r.run && (List.range r.count).any (fun k => q.readsIn (r.base + k)))

/-- Entry `e` has been filled in run `run`, through whichever reservation (R85). -/
def Tile.filledInRun (x : Tile) (run e : Nat) : Bool :=
  x.resv.any (fun kr => kr.2.run = run && !kr.2.tallyKind && kr.2.filled.contains e)

/-- Whether the entries of a reservation, and the E_ref register it writes, are free, so that it grants credit (R85, R94). -/
def Tile.entriesFree (x : Tile) (r : Resv) : Bool :=
  !x.vregRead r.seq r.vreg &&
  (List.range r.count).all (fun k =>
    if r.tallyKind then
      !(x.skiveQ ++ x.sendQ).any (fun q => decide (q.seq < r.seq) && q.readsSlot (r.base + k))
    else !x.inHeld (r.base + k))

/-- Credits that have become due are granted; a granted block reservation's entries hold no valid block (R74, R85). -/
def Tile.grantDue (x : Tile) : Tile :=
  x.resv.foldl (fun x kr =>
    if ¬ kr.2.granted ∧ x.entriesFree kr.2 then
      { x with
        resv := put kr.1 { kr.2 with granted := true } x.resv
        inBuf := if kr.2.tallyKind then x.inBuf
          else (List.range kr.2.count).foldl (fun b k =>
            if x.filledInRun kr.2.run (kr.2.base + k) then b else del (kr.2.base + k) b) x.inBuf }
    else x) x

/-- The credit that `sender` may use at a member: the entry of a tile's reservation, or the bank of an engine's. A halter
hold keeps every reservation closed (R263). -/
def State.credit (s : State) (sender : Nat) (m : Member) : Option Nat :=
  let p := s.partOfCluster m.cluster
  if ¬ s.runs p ∨ (s.girth p).closed then none
  else if m.port < 64 then
    let x := s.tile (m.cluster * 64 + m.port)
    let ok := x.resv.filter (fun kr => kr.1 % 32 = m.rbuf && kr.2.granted && !kr.2.done && !kr.2.senders.contains sender &&
      kr.2.draft = decide (2 ^ 40 ≤ sender))
    (ok.foldl (fun (best : Option (Nat × Nat)) kr =>
      match best with
      | some (_, run) => if kr.2.run < run then some (kr.1, kr.2.run) else best
      | none => some (kr.1, kr.2.run)) none).map (·.1)
  else
    let x := s.cluster m.cluster
    let b := x.engBank m.port m.rbuf
    [b, 1 - b].find? (fun k =>
      !(x.eng m.port m.rbuf k).full && !(x.eng m.port m.rbuf k).senders.contains sender)

/-- The members of a message that have not granted credit (R124, R127). -/
def State.ungranted (s : State) (sender : Nat) (ms : List Member) : List Member :=
  ms.filter (fun m => (s.credit sender m).isNone)

/-- A copy of a message to a member, of which nothing has arrived. -/
def newCopy (part epoch group bank : Nat) (dest : Member) (chan : Channel) (mesh : Option Nat) (hdr : VecHdr) (body : Payload) : Copy :=
  { part, epoch, group, bank, dest, chan, hdr, hdrIn := false, body, index := 0, mesh
    flits := 0, total := ceilDiv (bodyBytes body) 64, bytes := 0, drop := false }

/-- Where a message enters the mesh: a cluster's crossbar, or the Luawin port beside its router (R112, R118). -/
structure MeshSrc where
  cluster : Nat
  edge    : Bool

/-- A copy to a member of the cluster that it starts from crosses the crossbar alone (R112). -/
def MeshSrc.local (x : MeshSrc) (m : Member) : Bool := !x.edge && m.cluster = x.cluster

/-- One copy leaves for a member whose credit is used (R124). -/
def State.launchOne (s : State) (p sender group : Nat) (chan : Channel) (mesh : Option Nat) (hdr : VecHdr) (body : Payload) (m : Member) : State :=
  match s.credit sender m with
  | none => s
  | some k =>
    let s :=
      if m.port < 64 then
        let t := m.cluster * 64 + m.port
        let x := s.tile t
        match find? k x.resv with
        | some r => s.setTile t { x with resv := put k { r with senders := sender :: r.senders } x.resv }
        | none => s
      else
        let x := s.cluster m.cluster
        let r := x.eng m.port m.rbuf k
        s.setCluster m.cluster (x.setEng m.port m.rbuf k { r with senders := sender :: r.senders })
    let cp := newCopy p (s.part p).epoch group (if m.port < 64 then 0 else k) (if m.port < 64 then { m with rbuf := k } else m) chan mesh hdr body
    { s with fabric := s.fabric ++ [cp] }

/-- A message leaves once for every member, over the mesh where it has a source there (R114, R124). -/
def State.launch (s : State) (p sender group : Nat) (chan : Channel) (src : Option MeshSrc) (hdr : VecHdr) (body : Payload) (ms : List Member) :
    State :=
  match src with
  | none => ms.foldl (fun s m => s.launchOne p sender group chan none hdr body m) s
  | some x =>
    let no := (s.mesh.map (·.no)).foldl max 0 + 1
    let s : State := { s with mesh := s.mesh ++ [{ no, chan, src := x.cluster, edge := x.edge, crossed := [] }] }
    (ms.foldl (fun s m => s.launchOne p sender group chan (if x.local m then none else some no) hdr body m) s).meshPrune

/-- A path's virtual channel (R115): PATH 6 is KV, PATH 5 and 7 bulk; the crossbar and the neighbour links carry
neither, and their flits are treated as bulk for R128 (log 22). -/
def pathChannel (path : Nat) : Channel := if path = 6 then .kv else .bulk

/-! ### Faults of the fabric -/

/-- FAB_NOBUF (R125): the rest of the copy is discarded, and the partition restarts. -/
def State.fabNobuf (s : State) (cp : Copy) : State :=
  let loc := cp.dest.cluster + 2 ^ 4 * cp.dest.port
  (s.raise 0x0010 2 (some cp.part) 3 loc (cp.group % 1024 + 2 ^ 16 * (cp.dest.rbuf % 32)) cp.hdr.handle).partFault cp.part 6 3 loc

/-- FAB_ORPHAN (R126): the flit is discarded, and the partition restarts. -/
def State.fabOrphan (s : State) (cp : Copy) : State :=
  let loc := cp.dest.cluster + 2 ^ 4 * cp.dest.port
  (s.raise 0x0011 2 (some cp.part) 3 loc (cp.dest.rbuf % 32) cp.hdr.handle).partFault cp.part 6 3 loc

/-- FMT_INVALID at a tile (R50): the event, and the request ends at the end of the beat. -/
def State.fmtInvalid (s : State) (p t idx handle : Nat) : State :=
  (s.raise 0x0001 2 (some p) 1 (t * 64) idx handle).abortAtBeatEnd p handle

/-! ### Flits that arrive (R85, R124–R128) -/

/-- Whether a reservation is complete (R85). -/
def Resv.complete (r : Resv) : Bool :=
  if r.tallyKind then r.filled.length ≥ r.nprod else r.filled.length ≥ r.count && r.hdrs ≥ r.nprod

/-- A reservation that has become complete writes its E_ref register (R55, R85). -/
def Tile.finishResv (x : Tile) (k : Nat) : Tile :=
  match find? k x.resv with
  | some r =>
    if ¬ r.done ∧ r.complete then
      { x with resv := put k { r with done := true } x.resv, eref := put r.vreg r.eref x.eref }
    else x
  | none => x

/-- What one piece does at a destination: the next state, and whether the rest of the copy is still wanted. -/
abbrev Delivered := State × Bool

/-- The header of a copy reaches a tile's reservation (R85, R92, R125, R126). -/
def State.tileHeader (s : State) (cp : Copy) : Delivered :=
  let t := cp.dest.cluster * 64 + cp.dest.port
  let x := s.tile t
  match find? cp.dest.rbuf x.resv with
  | none => (s.fabOrphan cp, false)
  | some r =>
    if r.done then (if r.run = x.runs then s.fabNobuf cp else s.fabOrphan cp, false)
    else if r.hdrs ≥ r.nprod ∨ (r.tallyKind ∧ cp.hdr.first ≥ r.count) then (s.fabNobuf cp, false)
    else match find? r.run x.hdrs with
      | some h =>
        if ¬ hdrAgree h cp.hdr then (s.partFault cp.part 2 1 (t * 64), false)
        else
          let r' := { r with hdrs := r.hdrs + 1, eref := max r.eref cp.hdr.eref }
          (s.setTile t ({ x with resv := put cp.dest.rbuf r' x.resv }.finishResv cp.dest.rbuf), true)
      | none =>
        let r' := { r with hdrs := r.hdrs + 1, eref := max r.eref cp.hdr.eref }
        (s.setTile t ({ x with resv := put cp.dest.rbuf r' x.resv, hdrs := put r.run cp.hdr x.hdrs }.finishResv cp.dest.rbuf), true)

/-- A block of a copy reaches the input buffer (R50, R85). -/
def State.tileBlock (s : State) (cp : Copy) (b : Block) : Delivered :=
  let t := cp.dest.cluster * 64 + cp.dest.port
  let x := s.tile t
  match find? cp.dest.rbuf x.resv with
  | none => (s.fabOrphan cp, false)
  | some r =>
    let e := r.base + cp.hdr.first + (cp.index - 1)
    if r.done then (if r.run = x.runs then s.fabNobuf cp else s.fabOrphan cp, false)
    else if r.tallyKind ∨ e ≥ r.base + r.count ∨ x.filledInRun r.run e then (s.fabNobuf cp, false)
    else
      let bad := b.e8 = 255 ∨ (b.n8 ∧ ¬ r.ifmt)
      let b' := if bad then { b with e8 := 255 } else b
      let r' := { r with filled := e :: r.filled }
      let x' := { x with resv := put cp.dest.rbuf r' x.resv, inBuf := put e { blk := b', rsv := cp.dest.rbuf } x.inBuf }
      let s' := s.setTile t (x'.finishResv cp.dest.rbuf)
      (if bad then s'.fmtInvalid cp.part t x.at_ cp.hdr.handle else s', true)

/-- Tallies are added into a slot of the same E_ref; none where the slot counts in another (R58). -/
def Slot.add (x : Slot) (eref : Nat) (lanes : List Int) : Option Slot :=
  if x.eref.isSome ∧ x.eref ≠ some eref then none
  else some { eref := some eref
              lanes := (List.range 128).map (fun i => wrap64 (x.lanes.getD i 0 + lanes.getD i 0)) }

/-- The tallies of a copy reach the tally memory (R58, R85). -/
def State.tileTally (s : State) (cp : Copy) (lanes : List Int) : Delivered :=
  let t := cp.dest.cluster * 64 + cp.dest.port
  let x := s.tile t
  match find? cp.dest.rbuf x.resv with
  | none => (s.fabOrphan cp, false)
  | some r =>
    if r.done then (if r.run = x.runs then s.fabNobuf cp else s.fabOrphan cp, false)
    else if ¬ r.tallyKind ∨ cp.hdr.first ≥ r.count then (s.fabNobuf cp, false)
    else
      let i := r.base + cp.hdr.first
      match (getD Slot.empty i x.slots).add cp.hdr.eref lanes with
      | none => (s.partFault cp.part 1 1 (t * 64), false)
      | some sl =>
        let r' := { r with filled := i :: r.filled }
        let x' := { x with resv := put cp.dest.rbuf r' x.resv, slots := put i sl x.slots }
        (s.setTile t (x'.finishResv cp.dest.rbuf), true)

/-- An engine's or the slice's bank that has become complete: the other bank receives next, and descriptors that are ready
join the queue (R132, R140). -/
def State.finishEng (s : State) (p c port rbuf bank : Nat) : State :=
  match (s.part p).table with
  | none => s
  | some ts =>
    let x := s.cluster c
    let r := x.eng port rbuf bank
    if r.full ∨ r.blks.length < ts.engBlocks port c rbuf ∨ r.hdrs.length < ts.engProds port c rbuf then s
    else
      let x := (x.setEng port rbuf bank { r with full := true }).setEngBank port rbuf (1 - bank)
      s.setCluster c (if port = 66 then x else x.queueReady port (ts.engDescs port c))

/-- The header of a copy reaches an engine or the slice (R92, R140). -/
def State.engHeader (s : State) (cp : Copy) : Delivered :=
  let x := s.cluster cp.dest.cluster
  let r := x.eng cp.dest.port cp.dest.rbuf cp.bank
  if r.full then (s.fabNobuf cp, false)
  else if r.hdrs.any (fun h => !hdrAgree h cp.hdr) then (s.partFault cp.part 2 3 (cp.dest.cluster + 2 ^ 4 * cp.dest.port), false)
  else
    let s' := s.setCluster cp.dest.cluster
      (x.setEng cp.dest.port cp.dest.rbuf cp.bank { r with hdrs := r.hdrs ++ [cp.hdr] })
    (s'.finishEng cp.part cp.dest.cluster cp.dest.port cp.dest.rbuf cp.bank, true)

/-- A block of a copy reaches an engine or the slice: block k of FIRST = f lands at entry f + k (R140); a block beyond the
count finds no room (R125, R475). -/
def State.engBlock (s : State) (cp : Copy) (b : Block) : Delivered :=
  let x := s.cluster cp.dest.cluster
  let r := x.eng cp.dest.port cp.dest.rbuf cp.bank
  let e := cp.hdr.first + (cp.index - 1)
  let n := match (s.part cp.part).table with
    | some ts => ts.engBlocks cp.dest.port cp.dest.cluster cp.dest.rbuf
    | none => 0
  if r.full ∨ e ≥ n ∨ (find? e r.blks).isSome then (s.fabNobuf cp, false)
  else
    let s' := s.setCluster cp.dest.cluster
      (x.setEng cp.dest.port cp.dest.rbuf cp.bank { r with blks := put e b r.blks })
    (s'.finishEng cp.part cp.dest.cluster cp.dest.port cp.dest.rbuf cp.bank, true)

/-- The next piece of a copy is delivered: its header first, then each block, or the tallies. -/
def State.deliver (s : State) (cp : Copy) : Delivered :=
  if ¬ cp.hdrIn then (if cp.dest.port < 64 then s.tileHeader cp else s.engHeader cp)
  else match cp.body with
    | .blocks (b :: _) => if cp.dest.port < 64 then s.tileBlock cp b else s.engBlock cp b
    | .blocks [] => (s, false)
    | .tally lanes => if cp.dest.port < 64 then s.tileTally cp lanes else (s.fabNobuf cp, false)

/-- What is left of a copy after its next piece; none when nothing is. -/
def Copy.rest (cp : Copy) : Option Copy :=
  if ¬ cp.hdrIn then
    match cp.body with
    | .blocks [] => none
    | _ => some { cp with hdrIn := true, index := 1 }
  else match cp.body with
    | .blocks (_ :: b :: bs) => some { cp with body := .blocks (b :: bs), index := cp.index + 1 }
    | _ => none

/-- The bytes of a copy's next piece: the vector header, a block, or the tallies (R54, R84). -/
def Copy.pieceBytes (cp : Copy) : Nat :=
  if ¬ cp.hdrIn then 16
  else match cp.body with
    | .blocks (b :: _) => blockLen b
    | .blocks [] => 0
    | .tally _ => 1024

/-- The pieces of a copy whose last byte has arrived are delivered: the state, and what is left of the copy. After a fault at the member the
rest is discarded (R125). -/
def State.deliverAll : Nat → State → Copy → State × Option Copy
  | 0, s, cp => (s, some cp)
  | n + 1, s, cp =>
    if 64 * cp.flits < cp.bytes + cp.pieceBytes then (s, some cp)
    else
      let d := s.deliver cp
      if ¬ d.2 then (d.1, some { cp with drop := true })
      else match cp.rest with
        | none => (d.1, none)
        | some c => State.deliverAll n d.1 { c with bytes := cp.bytes + cp.pieceBytes }

/-- The fabric with copy `n` replaced by what is left of it. -/
def replaceCopy (f : List Copy) (n : Nat) (r : Option Copy) : List Copy :=
  match r with
  | some c => f.set n c
  | none => f.eraseIdx n

/-- The number of a virtual channel in FAB_FLIT_UE, in the order of R115's table (log 22). -/
def channelNo : Channel → Nat
  | .rein => 0 | .kv => 1 | .bulk => 2

/-- FAB_FLIT_UE: the flit is discarded, and the partition that owns it restarts (R128). -/
def State.flitUe (s : State) (p cluster handle : Nat) (chan : Channel) : State :=
  (s.raise 0x0013 2 (some p) 3 cluster (channelNo chan) handle).partFault p 6 3 cluster

/-- A flit of an old epoch is discarded and counted (R123). -/
def State.countStale (s : State) (p : Nat) : State := s.setPart p { s.part p with stale := satAdd 32 (s.part p).stale 1 }

/-- A copy that is not complete; none once all its flits have arrived. -/
def Copy.open? (cp : Copy) : Option Copy := if cp.flits < cp.total then some cp else none

/-- The next flit of copy `cp` has come to its member: a stale one is counted, one with an error is discarded with the rest of the copy, and else
the pieces it completes are delivered (R123–R128). A flit holds the ends of 17 pieces at most. -/
def State.flitIn (s : State) (cp : Copy) (ue : Bool) : State × Option Copy :=
  let cp := { cp with flits := cp.flits + 1 }
  if cp.epoch ≠ (s.part cp.part).epoch then (s.countStale cp.part, cp.open?)
  else if ue then (s.flitUe cp.part cp.dest.cluster cp.hdr.handle cp.chan, { cp with drop := true }.open?)
  else if cp.drop then (s, cp.open?)
  else
    let d := s.deliverAll 17 cp
    (d.1, d.2.bind Copy.open?)

/-- The KV write is not written: the bytes are what they were, while its step has not committed (R128, R148). -/
def State.unwriteKv (s : State) (w : KvWr) : State :=
  let cl := s.cluster w.cluster
  if cl.wrote.contains (w.handle, w.layer, w.pos) ∨ cl.stored.contains (w.handle, w.layer, w.pos) then
    { s with kv := w.was.foldl (fun m x => match x.2 with
        | some b => Memory.write m x.1 b
        | none => del x.1 m) s.kv }
  else s

/-- The flits of a KV write arrive (R123, R128). -/
def State.kvArrive (s : State) (n : Nat) (w : KvWr) (ue : Bool) : State :=
  let s := { s with kvWr := s.kvWr.eraseIdx n }
  if w.epoch ≠ (s.part w.part).epoch then s.countStale w.part
  else if ue then (s.unwriteKv w).flitUe w.part w.cluster w.handle .kv
  else s

/-- FABRIC_FLIT_ARRIVE: the next flit of copy `n` arrives, with or without an uncorrectable error, or waits at a router whose next one has no
credit; numbers beyond the copies name KV writes (R116, R123–R128; log 139). A partition that is to restart still receives (R125, R129). -/
def execFabricFlitArrive (n : Nat) (ue : Option Channel) (s : State) : Result :=
  if ¬ s.awake then .next s
  else if ue = some .rein then .next (s.dueReset 6 0)
  else match s.fabric[n]? with
    | none => match s.kvWr[n - s.fabric.length]? with
      | none => .next s
      | some w => .next (s.kvArrive (n - s.fabric.length) w ue.isSome)
    | some cp =>
      let (s, came) := s.meshNext cp
      if ¬ came then .next s
      else
        let d := s.flitIn cp ue.isSome
        .next { d.1 with fabric := replaceCopy s.fabric n d.2 }.meshPrune

/-! ### Refresh -/

/-- Row refresh of one bank (R110): contents are unchanged; the tick of the last refresh is noted. -/
def execSliceRefresh (c bank : Nat) (s : State) : Result :=
  guardUnit (c < 16 && bank < 64)
    (if s.pwr.st = .run ∨ s.pwr.st = .idle ∨ s.pwr.st = .rest then
      s.setCluster c { s.cluster c with refreshed := put bank s.tick (s.cluster c).refreshed }
    else s)

end Sys2Proof.Machine
end

