-- ==== Sys2Proof/Machine/Tile.lean ====
section
/-!
DEFINITION. The tile: its stitcher and the stitches it carries out itself (R76, R78, R80, R85, R87, R88), its units (R81–R84,
R86) and the passes whose codes become ready (R27). An event whose conditions do not hold leaves the state as it is (log 4).
-/

namespace Sys2Proof.Machine

open Sys2Proof

/-! ### The program -/

/-- The program of a tile in the table set of its partition (R107, R310). -/
def State.progOf (s : State) (t : Nat) : TileProg :=
  match (s.part (s.partOfTile t)).table with
  | some ts => getD ⟨4095, 4095, []⟩ t ts.progs
  | none => ⟨4095, 4095, []⟩

/-- The stitch at an index: from the stitch image, or, from 3,968, the device's own housekeeping sequence (R93): its activity, then its
BEAT_END. A proof is a PROOF stitch (R353); cross-check passes, readback steps and the other activities are the device's own
operations, which no stitch of R76 spells; with no activity there is a NOP. -/
def State.stitchAt (s : State) (t i : Nat) : Option Stitch :=
  if i < 3968 then (s.progOf t).tab[i]?
  else if i = 3968 then
    match (s.tile t).hkAct with
    | some (0, a) =>
      let x := s.arr a
      some ⟨3969, .proof x.pb (x.proofs % 4) (2 ^ (a % 64))⟩
    | some _ => none
    | none => some ⟨3969, .nop⟩
  else if i = 3969 then some ⟨(s.progOf t).entry, .beatEnd⟩
  else none

/-- The stitch that the stitcher of tile `t` can take now: none while the tile is gated or its partition stopped. -/
def State.current (s : State) (t : Nat) : Option Stitch :=
  if s.runs (s.partOfTile t) ∧ ¬ (s.tile t).gated then s.stitchAt t (s.tile t).at_ else none

/-- Header words of run `r` of a tile (R92). -/
def Tile.hdrOf (x : Tile) (r : Nat) : Option VecHdr := find? r x.hdrs

/-- The handle of run `r`, 0 where no input has come. -/
def Tile.handleOf (x : Tile) (r : Nat) : Nat := ((x.hdrOf r).map (·.handle)).getD 0

/-! ### Queues -/

/-- The stitch joins the queue of its unit, which holds at most 8 (R76); none when there is no room or the stitcher carries
the stitch out itself. -/
def Tile.issue (x : Tile) (op : StitchOp) : Option Tile :=
  let e : QEnt := { seq := x.seq, run := x.runs, draft := x.kind = .draft, idx := x.at_, op }
  let x' := { x with seq := x.seq + 1 }
  match op with
  | .tally .. => if x.tallyQ.length < 8 then some { x' with tallyQ := x.tallyQ ++ [e] } else none
  | .skive .. => if x.skiveQ.length < 8 then some { x' with skiveQ := x.skiveQ ++ [e] } else none
  | .send .. => if x.sendQ.length < 8 then some { x' with sendQ := x.sendQ ++ [e] } else none
  | .kcmp .. => if x.kcmpQ.length < 8 then some { x' with kcmpQ := x.kcmpQ ++ [e] } else none
  | .inlay .. => if x.inlayQ.length < 8 then some { x' with inlayQ := x.inlayQ ++ [e] } else none
  | _ => none

/-- The stitcher issues stitches of the units until it meets one of its own or a full queue (R76). Five queues of eight
bound the number it can issue. -/
def State.issueAll : Nat → State → Nat → State
  | 0, s, _ => s
  | n + 1, s, t =>
    match s.current t with
    | none => s
    | some st =>
      match (s.tile t).issue st.op with
      | some x => State.issueAll n (s.setTile t { x with at_ := st.next }) t
      | none => s

/-- Member `m` of ingress entry `i` has granted one more message: a reservation is open to the entry, and the messages that
it still expects exceed those that other grants of the edge already stand for (R85, R254, log 29). -/
def State.edgeRoom (s : State) (p i : Nat) (ts : TableSet) (m : Member) : Bool :=
  match s.credit (ingressSender p i 1023) m with
  | none => false
  | some k =>
    let due := (s.part p).edgeGranted.countP (fun j => match ts.ingress[j]? with
      | some e => (getD [] e.group ts.groups).contains m
      | none => false)
    let (used, want) :=
      if m.port < 64 then
        match find? k (s.tile (m.cluster * 64 + m.port)).resv with
        | some r => (r.senders.length, r.nprod)
        | none => (0, 0)
      else (((s.cluster m.cluster).eng m.port m.rbuf k).senders.length, ts.engProds m.port m.cluster m.rbuf)
    if want = 0 then due = 0 && !s.fabric.any (fun c => decide (c.dest.cluster = m.cluster ∧ c.dest.port = m.port ∧
      c.dest.rbuf = m.rbuf))
    else used + due < want

/-- The stitches that a program reaches from those still to visit. -/
def reachFrom (tab : List Stitch) : Nat → List Nat → List Nat → List Nat
  | 0, _, seen => seen
  | _, [], seen => seen
  | n + 1, i :: todo, seen =>
    if seen.contains i then reachFrom tab n todo seen
    else match tab[i]? with
      | none => reachFrom tab n todo seen
      | some s => match s.op with
        | .beatEnd => reachFrom tab n todo (i :: seen)
        | .alt altNext .. => reachFrom tab n (s.next :: altNext :: todo) (i :: seen)
        | _ => reachFrom tab n (s.next :: todo) (i :: seen)

/-- A tile's main or draft program opens reservation `rbuf` (R85, R87). -/
def progOpens (g : TileProg) (draft : Bool) (rbuf : Nat) : Bool :=
  (reachFrom g.tab (2 * g.tab.length + 2) [if draft then g.dentry else g.entry] []).any (fun i => match g.tab[i]? with
    | none => false
    | some st => match st.op with
      | .recv r .. => r = rbuf
      | _ => false)

/-- The members of ingress entry `e` that runs of one kind open: a tile's reservation by its program; an engine's takes main runs. -/
def TableSet.entryMembers (ts : TableSet) (draft : Bool) (e : Ingress) : List Member :=
  (getD [] e.group ts.groups).filter (fun m =>
    if m.port < 64 then progOpens (getD ⟨4095, 4095, []⟩ (m.cluster * 64 + m.port) ts.progs) draft m.rbuf else !draft)

/-- An embedded vector enters the pommel's partition through its BEAT ingress entries, once the members of their groups that the run opens
have granted (R231, log 30): a draft run's the reservations of the draft program (R222, log 130). -/
def State.feedOne (s : State) (p : Nat) (draft : Bool) : Option State :=
  match (s.part p).table, (if draft then (s.part p).draftQ else (s.part p).embedQ) with
  | some ts, (h, bs) :: rest =>
    let ins := (List.range ts.ingress.length).filterMap (fun i => match ts.ingress[i]? with
      | some e => if e.kind = 0 then some (draftSender draft (ingressSender p i 0), e, ts.entryMembers draft e) else none
      | none => none)
    if ins.all (fun i => i.2.2.isEmpty) ∨ ¬ ins.all (fun i => i.2.2.all (fun m => (s.credit i.1 m).isSome)) then none
    else
      let q := s.part p
      let s := s.setPart p (if draft then { q with draftQ := rest } else { q with embedQ := rest })
      some (ins.foldl (fun s i => s.launch p i.1 i.2.1.group .bulk (some ⟨edgeCluster i.2.1.port, true⟩) h (.blocks bs) i.2.2) s)
  | _, _ => none

/-- Embedded vectors enter while their groups grant; two banks bound how many can. -/
def State.feed : Nat → State → Nat → State
  | 0, s, _ => s
  | n + 1, s, p =>
    match s.feedOne p false with
    | some s' => State.feed n s' p
    | none => match s.feedOne p true with
      | some s' => State.feed n s' p
      | none => s

/-- The next device's grants for (port, DBUF) that no granted relay entry relies on (R254). -/
def State.grantsFree (s : State) (p port dbuf : Nat) : Nat :=
  let kept := (s.part p).edgeGranted.countP (fun i => match (((s.part p).table.map (·.ingress)).getD [])[i]? with
    | some e => e.fv && decide (e.fport = port ∧ e.fdbuf = dbuf)
    | none => false)
  (s.girth p).grants.count (port, dbuf) - kept

/-- The edge router grants over the rein tree for the ingress entries whose every member has granted, and, where the entry
relays, whose next device has (R254). -/
def State.edgeGrants (s : State) (p : Nat) : State :=
  match (s.part p).table, (s.girth p).record with
  | some ts, some _ =>
    (List.range ts.ingress.length).foldl (fun s i =>
      match ts.ingress[i]? with
      | none => s
      | some e =>
        if (s.part p).edgeGranted.contains i then s
        else if ¬ (ts.entryMembers false e).all (fun m => s.edgeRoom p i ts m) then s
        else if e.fv ∧ s.grantsFree p e.fport e.fdbuf = 0 then s
        else (s.setPart p { s.part p with edgeGranted := i :: (s.part p).edgeGranted }).rein p
               (.grant e.port e.dbuf (s.girth p).epoch)) s
  | _, _ => s

/-- What follows every event of a tile: credits that have become due, stitches that can be issued, and grants at the edge. -/
def State.settle (s : State) (t : Nat) : State :=
  State.feed 2 ((State.issueAll 64 (s.setTile t (s.tile t).grantDue) t).edgeGrants (s.partOfTile t)) (s.partOfTile t)

/-- The stitcher moves on to stitch `i`. -/
def State.moveTo (s : State) (t i : Nat) : State := s.setTile t { s.tile t with at_ := i }

/-! ### Readiness (R94) -/

/-- A RECV into reservation entry `k` waits: what opened it last is not complete, or a queued stitch still reads what it took (R94). -/
def Tile.recvWaits (x : Tile) (k : Nat) : Bool :=
  match find? k x.resv with
  | some r => !r.done || x.resvRead r
  | none => false

/-- An input block of run `run` is present: a reservation of that run has filled it (R89, R94). -/
def Tile.present (x : Tile) (run i : Nat) : Bool :=
  (find? i x.inBuf).isSome &&
    x.resv.any (fun kr => kr.2.run = run && !kr.2.tallyKind && kr.2.granted && kr.2.filled.contains i)

/-- The block at an input buffer entry. -/
def Tile.inBlk (x : Tile) (i : Nat) : Block := ((find? i x.inBuf).map (·.blk)).getD (zeroBlock false)

/-- The E_ref register has been written by every earlier RECV of the run that writes it (R94). -/
def Tile.vregReady (x : Tile) (run seq v : Nat) : Bool :=
  x.resv.all (fun kr => !(kr.2.run = run && kr.2.vreg = v && decide (kr.2.seq < seq)) || kr.2.done)

/-- Every earlier tally reservation of the run into slot `i` is complete (R94). -/
def Tile.tallyResvDone (x : Tile) (run seq i : Nat) : Bool :=
  x.resv.all (fun kr => !(kr.2.run = run && kr.2.tallyKind && decide (kr.2.seq < seq) &&
    decide (kr.2.base ≤ i) && decide (i < kr.2.base + kr.2.count)) || kr.2.done)

/-- The tally slots that a TALLY adds into: TSLOT plus the slot offsets of the column maps (R77, R82). -/
def Tile.tallySlots (x : Tile) (run tslot arrays : Nat) : List Nat :=
  ((maskList arrays).flatMap (fun a => (getD [] a x.colMaps).map (fun c => bankEntry run tslot + c.off))).eraseDups

/-- An earlier queued TALLY or INLAY has not committed into slot `i` (R94). -/
def Tile.slotPending (x : Tile) (seq i : Nat) : Bool :=
  (x.tallyQ ++ x.inlayQ).any (fun q => decide (q.seq < seq) &&
    (match q.op with
      | .tally tslot _ _ arrays => (x.tallySlots q.run tslot arrays).contains i
      | .inlay tslot _ _ _ _ => bankEntry q.run tslot = i
      | _ => false))

/-- An earlier queued stitch still reads slot `i` (R94). -/
def Tile.slotRead (x : Tile) (seq i : Nat) : Bool :=
  (x.skiveQ ++ x.sendQ).any (fun q => decide (q.seq < seq) && q.readsSlot i)

/-- An earlier queued SKIVE has not written output block `i` (R94). -/
def Tile.outPending (x : Tile) (seq i : Nat) : Bool :=
  x.skiveQ.any (fun q => decide (q.seq < seq) &&
    (match q.op with
      | .skive _ _ _ _ _ _ oblk _ => bankEntry q.run oblk = i
      | _ => false))

/-- An earlier queued SEND still reads output block `i` (R94). -/
def Tile.outRead (x : Tile) (seq i : Nat) : Bool :=
  x.sendQ.any (fun q => decide (q.seq < seq) &&
    (match q.op with
      | .send src skind count _ _ _ _ _ _ _ =>
        skind = 0 && decide (bankEntry q.run src ≤ i) && decide (i < bankEntry q.run src + count)
      | _ => false))

/-- A queued KCMP or TALLY still reads register `r` of an array of the mask (R94). -/
def Tile.wrRead (x : Tile) (arrays r : Nat) : Bool :=
  (x.kcmpQ ++ x.tallyQ).any (fun q =>
    match q.op with
    | .kcmp wr m => bankWr q.run wr = r && m &&& arrays ≠ 0
    | .tally _ wr _ m => bankWr q.run wr = r && m &&& arrays ≠ 0
    | _ => false)

/-! ### NOP, PASS -/

/-- NOP: the stitcher moves on (R76). -/
def execNop (t : Nat) (s : State) : Result :=
  onTile t (match s.current t with
    | some ⟨nx, .nop⟩ => (s.moveTo t nx).settle t
    | _ => s)

/-- The drive of a pass, from the input buffer (R20, R21). -/
def Tile.passDrive (x : Tile) (wkind h iblk plane : Nat) : List Int :=
  windowDrive wkind h plane (x.inBlk iblk) (x.inBlk (iblk + 1))

/-- The exponent of a window (R53): of its block, or of the two blocks of a wide window, where a zero block carries no value and takes
its neighbour's; none when the two differ. -/
def windowExp (wkind : Nat) (b b2 : Block) : Option Nat :=
  if wkind ≠ 2 then some b.e8
  else if b.e8 = 0 then some b2.e8
  else if b2.e8 = 0 ∨ b2.e8 = b.e8 then some b.e8
  else none

/-- PASS (R78): one pass of one plane over the named window to the named arrays; the data path takes no choice (R31, R88), so a plane
with SPLIT set also runs as the one pass that the stitch names (log 128). ZERO issues none (R32); a block with E8 = 0xFF issues none (R50);
a block whose E8 differs from the exponent a target WR holds, or two blocks of a wide window whose exponents differ, raise FMT_INVALID.
The pass waits for its block, for arrays that are programming rows (R29) or wait for their first calibration (R398), and for earlier
readers of its WR (R94). -/
def execPass (t : Nat) (s : State) : Result :=
  onTile t (match s.current t with
    | some ⟨nx, .pass wkind widx h plane iblk wr arrays⟩ =>
      let x := s.tile t
      let i := bankEntry x.runs iblk
      let r := bankWr x.runs wr
      let as := maskList arrays
      if ¬ x.present x.runs i ∨ (wkind = 2 ∧ ¬ x.present x.runs (i + 1)) ∨ x.wrRead arrays r ∨
          as.any (fun a => (s.arr (s.servingArray (arrayAddr t a))).prog.isSome || !s.calOk (s.servingArray (arrayAddr t a))) then s
      else
        let b := x.inBlk i
        let b2 := x.inBlk (i + 1)
        let drive := x.passDrive wkind h i plane
        if b.e8 = 255 ∨ (wkind = 2 ∧ b2.e8 = 255) ∨ zeroFlag drive then (s.moveTo t nx).settle t
        else
          let held := as.filterMap (fun a => (getD Wr.empty (wrKey a r) x.wrs).exp)
          match windowExp wkind b b2 with
          | none => ((s.fmtInvalid (s.partOfTile t) t x.at_ (x.handleOf x.runs)).moveTo t nx).settle t
          | some e =>
            if held.any (· ≠ e) then ((s.fmtInvalid (s.partOfTile t) t x.at_ (x.handleOf x.runs)).moveTo t nx).settle t
            else
              let p : PassRec := { run := x.runs, wkind, widx, h, plane, iblk := i, wr := r, arrays := as,
                                   base := (windowRows wkind widx h).1, drive, e8 := e, codes := [] }
              let wrs := as.foldl (fun w a =>
                put (wrKey a r) { getD Wr.empty (wrKey a r) w with exp := some e, checked := false } w) x.wrs
              let x := { x with wrs, at_ := nx,
                                flight := if wkind = 3 then x.flight else x.flight ++ [p]
                                trace := if wkind = 3 then x.trace ++ [p] else x.trace }
              (s.setTile t x).settle t
    | _ => s)

/-- A WR with one pass's codes added (R36, R52, R53): window results in column-map order, and the pass for the checker. Passes that a
loaded table names again can take the sum beyond the register's 24 bits, of which the manual says nothing: it is kept whole
(DESIGN CHOICE, log 128). -/
def Wr.addPass (w : Wr) (chans : List ColChan) (p : PassRec) (codes : List Int) : Wr :=
  { w with
    vals := (List.range chans.length).map (fun i =>
      w.vals.getD i 0 +
        (match chans[i]? with
          | some c => passResult c.width c.base p.plane (countP p.drive) (countN p.drive) (p.code codes)
          | none => 0))
    recs := w.recs ++ [p] }

/-- PASS_CODES_READY (R27, R41): the oldest pass in flight completes; its codes reach the shift-add stage of every array it
named. A WR of tracing arrays is marked checked when the last tracing pass into it is ready (R82). -/
def execPassCodesReady (t : Nat) (tracing : Bool) (err : Analog) (s : State) : Result :=
  onTile t (
    let x := s.tile t
    match (if tracing then x.trace else x.flight) with
    | [] => s
    | p :: rest =>
      if ¬ s.runs (s.partOfTile t) then s
      else
        let wrs := p.arrays.foldl (fun w a =>
          let codes := s.passCodes (arrayAddr t a) p.base p.drive err
          let chans := getD [] a x.colMaps
          let w0 : Wr := getD Wr.empty (wrKey a p.wr) w
          let w1 := w0.addPass chans (s.withCodes p (arrayAddr t a) codes) codes
          let last := ¬ rest.any (fun q => q.wr = p.wr && q.arrays.contains a)
          put (wrKey a p.wr) { w1 with checked := tracing && last } w) x.wrs
        let x := if tracing then { x with wrs, trace := rest } else { x with wrs, flight := rest }
        (s.setTile t x).settle t)

/-! ### ALT, RECV, WAIT, BEAT_END -/

/-- The flag that an ALT tests, when it is valid (R88, R89): COND 0 SPLIT, 1 EXPD, 2 WIDE, 3 FB. -/
def Tile.altFlag (x : Tile) (cond wkind plane iblk : Nat) : Option Bool :=
  let i := bankEntry x.runs iblk
  let b := x.inBlk i
  let b2 := x.inBlk (i + 1)
  match cond with
  | 0 =>
    if wkind = 2 then
      if x.present x.runs i ∧ x.present x.runs (i + 1) then some (splitFlag true (windowDrive 2 0 plane b b2)) else none
    else if x.present x.runs i then some (splitFlag false (blockDrive b plane)) else none
  | 1 => if x.present x.runs i ∧ x.present x.runs (i + 1) then some (expdFlag b b2) else none
  | 2 => if x.present x.runs i then some (wideFlag b) else none
  | 3 => if x.skiveQ.isEmpty then some x.fb else none
  | _ => none

/-- ALT (R88): to ALT_NEXT when the tested flag is 1, to NEXT when it is 0, once the flag is valid (R89). -/
def execAlt (t : Nat) (s : State) : Result :=
  onTile t (match s.current t with
    | some ⟨nx, .alt altNext cond _ wkind _ plane iblk⟩ =>
      match (s.tile t).altFlag cond wkind plane iblk with
      | some f => (s.moveTo t (if f then altNext else nx)).settle t
      | none => s
    | _ => s)

/-- RECV (R85): the reservation opens and grants credit to its senders once its entries are free. It waits while the reservation's last
use is not complete or is still read (R94). -/
def execRecv (t : Nat) (s : State) : Result :=
  onTile t (match s.current t with
    | some ⟨nx, .recv rbuf kind base count nprod vreg ifmt⟩ =>
      let x := s.tile t
      let r : Resv := { tallyKind := kind = 1, base := bankEntry x.runs base, count, nprod,
                        vreg := bankVreg x.runs vreg, ifmt := ifmt = 1, run := x.runs, seq := x.seq, draft := x.kind = .draft,
                        senders := [], granted := false, hdrs := 0, filled := [], eref := 0, done := false }
      if x.recvWaits (bankEntry x.runs rbuf) then s
      else (s.setTile t { x with resv := put (bankEntry x.runs rbuf) r x.resv, seq := x.seq + 1, at_ := nx }).settle t
    | _ => s)

/-- WAIT (R76): the stitcher goes on when the named reservation is complete. -/
def execWait (t : Nat) (s : State) : Result :=
  onTile t (match s.current t with
    | some ⟨nx, .wait rbuf⟩ =>
      let x := s.tile t
      match find? (bankEntry x.runs rbuf) x.resv with
      | some r => if r.run = x.runs ∧ r.done then (s.moveTo t nx).settle t else s
      | none => s
    | _ => s)

/-- The ingress entries of a partition's table set. -/
def State.ingressOf (s : State) (p : Nat) : List Ingress := ((s.part p).table.map (·.ingress)).getD []

/-- The local producers of a reservation: SENDs of the partition's tiles (R77, R85). -/
def TableSet.localSends (ts : TableSet) (m : Member) : Nat :=
  (ts.progs.map (fun x => x.2.tab.countP (fun st => match st.op with
    | .send _ _ _ path dest dbuf mcast _ _ _ => (sendMembers ts.groups x.1 path dest dbuf mcast).contains m
    | _ => false))).sum

/-- The messages that reach an ingress entry in one run (R251): NPROD of the reservation of its group's first member, less that
reservation's other producers; at least one. -/
def TableSet.entryMsgs (ts : TableSet) (e : Ingress) : Nat :=
  match (getD [] e.group ts.groups).head? with
  | none => 1
  | some m =>
    let nprod :=
      if m.port < 64 then
        (((find? (m.cluster * 64 + m.port) ts.progs).map (·.tab)).getD []).foldl (fun n st => match st.op with
          | .recv rbuf _ _ _ np _ _ => if rbuf = m.rbuf then np else n
          | _ => n) 1
      else ts.engProds m.port m.cluster m.rbuf
    let others := ts.ingress.countP (fun i => i ≠ e && (getD [] i.group ts.groups).contains m)
    max 1 (nprod - others - ts.localSends m)

/-- Every BEAT entry of a beat has had its messages with LAST = 1 (R252). -/
def State.beatFilled (s : State) (p : Nat) (b : Beat) : Bool :=
  match (s.part p).table with
  | none => false
  | some ts => ts.ingress.any (fun e => e.kind = 0) &&
      ts.ingress.all (fun e => e.kind ≠ 0 || decide (ts.entryMsgs e ≤ b.arrived.count e))

/-- The beat message of a beat is complete: every BEAT entry has its messages with LAST, and every ABREAST peer that feeds an INBEAT
entry has sent its ready mark, on whichever link it shares with this device (R252). -/
def State.messageComplete (s : State) (p : Nat) (b : Beat) : Bool :=
  let mine := ((s.girth p).record.map (·.mine)).getD []
  let peer (q : Nat) : Option Nat := (mine.find? (fun l => l.port = q && l.use = 3)).map (·.peer)
  s.beatFilled p b && (s.ingressOf p).all (fun e => e.kind = 0 || (peer e.port).isNone || b.ready.any (fun q => peer q == peer e.port))

/-- Beats of partition `p` whose message is complete and that have not started. -/
def State.beatsWaiting (s : State) (p : Nat) : Nat := (s.part p).beats.countP (fun b => b.started.isNone && s.messageComplete p b)

/-- No beat of partition `p` is in progress or, in a thermal stop that drains, still to be completed (R387). -/
def State.drained (s : State) (p : Nat) : Bool := (s.part p).beats.all (fun b => b.started.isNone) && !s.hk.drain.contains p

/-- Every tile of the partition that holds a main program has ended the run whose vectors carry LAST (R91). -/
def State.beatOver (s : State) (p : Nat) : Bool :=
  match (s.part p).table, (s.part p).beats with
  | some ts, b :: _ => (ts.progs.filter (fun x => x.2.entry ≠ 4095)).all (fun x => b.ended.contains x.1)
  | _, _ => false

/-- A tile's BEAT_END of the LAST run belongs to the oldest beat that the tile has not ended (R91). -/
def noteEnded (t : Nat) : List Beat → List Beat
  | [] => []
  | b :: bs => if b.ended.contains t then b :: noteEnded t bs else { b with ended := t :: b.ended } :: bs

/-- The end of a partition's beat: the aborts noted in it are carried out (R50, R62, R147), and a thermal stop that drains gates
its tiles (R387 step 4). -/
def State.endBeat (s : State) (p : Nat) : State :=
  if ¬ s.beatOver p then s
  else
    let s := ((s.setPart p { s.part p with beats := (s.part p).beats.drop 1 }).flushAborts p).busyMark.wheelRest p
    if s.hk.stop ∧ s.drained p then (s.part p).tileList.foldl (fun s t => s.setTile t { s.tile t with gated := true }) s else s

/-- A draft run of the partition waits for tile `t`, which has a draft program (R222). -/
def State.draftDue (s : State) (t : Nat) : Bool :=
  (s.progOf t).dentry ≠ 4095 && decide ((s.tile t).drafts < (s.part (s.partOfTile t)).draftRuns)

/-- The start of the next run at the entry stitch of its kind (R87): a draft run that waits comes first (R222). -/
def State.nextRun (s : State) (t : Nat) : State :=
  let x := s.tile t
  let g := s.progOf t
  if s.draftDue t then s.setTile t { x with kind := .draft, at_ := g.dentry, drafts := x.drafts + 1, hkAct := none }
  else s.setTile t { x with kind := .main, at_ := g.entry, hkAct := none }

/-- Nothing of tile `t`'s next main run has arrived or been committed to a sender (R93, R222): no header, no credit used, no stitch of it queued, and,
where its reservations are open, no grant sent over a link. -/
def State.runUnbegun (s : State) (t : Nat) : Bool :=
  let x := s.tile t
  x.kind = .main && (x.hdrOf x.runs).isNone && (x.tallyQ ++ x.skiveQ ++ x.sendQ ++ x.kcmpQ ++ x.inlayQ).all (fun q => q.run ≠ x.runs) &&
    x.resv.all (fun r => r.2.run ≠ x.runs || r.2.senders.isEmpty) &&
    (x.at_ = (s.progOf t).entry || (s.part (s.partOfTile t)).edgeGranted.isEmpty)

/-- A draft run that waits takes tile `t` where its next main run has not begun; that run's reservations open again after it (R222). -/
def State.draftTurn (s : State) (t : Nat) : State :=
  if s.draftDue t ∧ s.runUnbegun t then
    let x := s.tile t
    ((s.setTile t { x with resv := x.resv.filter (fun r => r.2.run ≠ x.runs) }).nextRun t).settle t
  else s

/-- A draft run of partition `p` is issued with the vector that it starts from (R220, R222): the tiles between runs take it at once. -/
def State.issueDraft (s : State) (p : Nat) (hdr : VecHdr) (vec : List Block) : State :=
  let q := s.part p
  let s := s.setPart p { q with draftQ := q.draftQ ++ [(hdr, vec)], draftRuns := q.draftRuns + 1 }
  let s := q.tileList.foldl (fun s t => s.draftTurn t) s
  s.feed 1 p

/-- The runs whose header words a queued stitch or one of the latest runs still needs (R92). -/
def Tile.pruneHdrs (x : Tile) : Tile :=
  { x with hdrs := x.hdrs.filter (fun h => decide (x.runs ≤ h.1 + 4) ||
      (x.tallyQ ++ x.skiveQ ++ x.sendQ ++ x.kcmpQ ++ x.inlayQ).any (fun q => q.run = h.1)) }

/-- BEAT_END (R87, R91): the run ends. A housekeeping sequence does not advance the run count (R93); a main run whose vectors carry
LAST ends the tile's beat. -/
def execBeatEnd (t : Nat) (s : State) : Result :=
  onTile t (match s.current t with
    | some ⟨_, .beatEnd⟩ =>
      let x := s.tile t
      let p := s.partOfTile t
      if x.kind = .hk then
        let c := s.cluster (t / 64)
        let s := s.nextRun t
        let more := (List.range 64).any (fun i => (s.tile (t / 64 * 64 + i)).kind = .hk)
        ((s.setCluster (t / 64) { c with chunk := more }).busyMark).settle t
      else
        let last := x.kind = .main ∧ (((x.hdrOf x.runs).map (·.last)).getD false)
        let s := s.setTile t ({ x with runs := x.runs + 1 } : Tile).pruneHdrs
        let s := if last then s.setPart p { s.part p with beats := noteEnded t (s.part p).beats } else s
        ((s.endBeat p).nextRun t).settle t
    | _ => s)

/-! ### PROOF -/

/-- The known sums that plane `j` of a proof over basic window `k` is compared with: of every data column, and, as 256 + its number, of
each keeper that compares the sum of the column it shadows (R353). -/
def State.proofExpect (s : State) (addr k j : Nat) : List (Nat × Int) :=
  (List.range 256).map (fun c => (c, s.knownSum addr k j c)) ++
    (s.comparing (s.servingArray addr)).map (fun x => (256 + x.1, s.knownSum addr k j x.2))

/-- What a proof disagrees on: the columns whose code is not the known sum (R353). -/
def State.proofCols (s : State) (addr : Nat) (codes : List Int) (expect : List (Nat × Int)) : List (Nat × Int) :=
  expect.filter (fun x => (if x.1 < 256 then s.dataCode addr codes x.1 else codes.getD x.1 0) ≠ x.2)

/-- A proof of array `addr` has ended clean over basic window `k` (R326, R353, R364). -/
def State.proofClean (s : State) (addr k : Nat) : State :=
  let x := s.arr addr
  { s.setArr addr { x with proofs := x.proofs + 1, clean := put k s.tick x.clean, proofTick := s.tick,
                           overdue := x.overdue.filter (· ≠ 0) } with
    ev := { s.ev with proofs := satAdd 32 s.ev.proofs 1 } }

/-- One array of a PROOF: planes 0–6 of the proof block over basic window `k`, ZERO planes skipped (R80); the codes are compared
with the known sums, which exist for the array's own proof block only (R326). -/
def State.proofArray (s : State) (t a pvec k run : Nat) (err : Analog) : State :=
  let addr := arrayAddr t a
  let x := s.arr addr
  if ¬ x.sumsOk ∨ x.pb ≠ pvec ∨ ¬ s.calOk (s.servingArray addr) then s
  else
    let b := proofBlock pvec
    let inj := s.ev.injProof.filter (fun y => y.1 = addr)
    let ds : List Dispute := (List.range 7).filterMap (fun j =>
      let d := blockDrive b j
      if zeroFlag d then none
      else
        let codes := s.passCodes addr (128 * k) d err
        let ex := s.proofExpect addr k j
        let off := s.proofCols addr codes ex
        let hit := j = 0 ∧ inj.isSome
        if off.isEmpty ∧ ¬ hit then none
        else
          let p : PassRec := { run, wkind := 0, widx := k, h := 0, plane := j, iblk := 64, wr := 4, arrays := [a],
                               base := 128 * k, drive := d, e8 := 0x7F, codes := [] }
          let cols := if off.isEmpty then inj.toList.map (·.2) else off.map (·.1)
          some { det := .proof, array := a, cols, pass := s.withCodes p addr codes
                 expect := ex.filter (fun y => cols.contains y.1), reps := [], perm := false, injected := off.isEmpty })
    let s := if inj.isSome then { s with ev := { s.ev with injProof := none } } else s
    if ds.isEmpty then s.proofClean addr k
    else
      let y := s.tile t
      s.setTile t { y with disputes := y.disputes ++ ds }

/-- PROOF (R80, R353): proof passes over basic window WIDX for every named array; a disagreement opens disputes (R354). It waits for
arrays that are programming rows (R29). -/
def execProof (t : Nat) (err : Analog) (s : State) : Result :=
  onTile t (match s.current t with
    | some ⟨nx, .proof pvec widx arrays⟩ =>
      let run := (s.tile t).runs
      if (maskList arrays).any (fun a => (s.arr (s.servingArray (arrayAddr t a))).prog.isSome) then s
      else (((maskList arrays).foldl (fun s a => s.proofArray t a pvec widx run err) s).moveTo t nx).settle t
    | _ => s)

/-! ### KCMP -/

/-- The disputes that the passes of one array's WR open (R81, R349), an armed KEEP injection on the first of them. -/
def State.wrDisputes (s : State) (t a : Nat) (w : Wr) : List Dispute :=
  let addr := arrayAddr t a
  let inj := s.ev.injKeep.filter (fun y => y.1 = addr)
  (List.range w.recs.length).filterMap (fun i =>
    match w.recs[i]? with
    | none => none
    | some p =>
      let codes := getD [] a p.codes
      let cols := p.disputed codes
      let hit := i = 0 ∧ inj.isSome
      if cols.isEmpty ∧ ¬ hit then none
      else
        let keep := cols.any (fun c => match p.keeperCode codes c with
          | some k => decide (c < 256 ∧ k ≠ p.code codes c)
          | none => false)
        some { det := if keep ∨ cols.isEmpty then .keeper else .bound, pass := p, array := a
               cols := if cols.isEmpty then inj.toList.map (·.2) else cols
               expect := [], reps := [], perm := false, injected := cols.isEmpty })

/-- The passes of each array compared count for the keepers that compared on them (R361, R393). -/
def State.countCompared (s : State) (t : Nat) (as : List Nat) (recs : Nat → List PassRec) : State :=
  as.foldl (fun s a =>
    let sv := s.servingArray (arrayAddr t a)
    let x := s.arr sv
    s.setArr sv { x with keepers := (List.range 8).foldl (fun ks k =>
      let kp := x.keeper k
      let n := (recs a).countP (fun p => p.comp.any (fun y => y.1 = k))
      if kp.st = .shadow ∧ n > 0 then put k { kp with passes := kp.passes + n } ks else ks) x.keepers }) s

/-- KCMP (R81): every pass into register WR of the named arrays since it was drained is compared. A WR that passes is marked
checked; a mismatch or BOUND opens a dispute and leaves it unchecked. -/
def execKcmp (t : Nat) (s : State) : Result :=
  onTile t (
    let x := s.tile t
    match x.kcmpQ with
    | { run := run, op := .kcmp wr arrays, .. } :: rest =>
      let r := bankWr run wr
      let as := maskList arrays
      if ¬ s.runs (s.partOfTile t) ∨ x.flight.any (fun p => p.wr = r && p.arrays.any (as.contains ·)) then s
      else
        let res := as.map (fun a => (a, s.wrDisputes t a (getD Wr.empty (wrKey a r) x.wrs)))
        let ds := res.flatMap (·.2)
        let wrs := res.foldl (fun w y =>
          if y.2.isEmpty then put (wrKey y.1 r) { getD Wr.empty (wrKey y.1 r) w with checked := true } w else w) x.wrs
        let s := { s with ev := { s.ev with
          disputes := satAdd 32 s.ev.disputes ds.length
          injKeep := if ds.any (·.injected) ∨ as.any (fun a =>
              decide (s.ev.injKeep.map (fun (y : Nat × Nat) => y.1) = some (arrayAddr t a)) && !(getD Wr.empty (wrKey a r) x.wrs).recs.isEmpty)
            then none else s.ev.injKeep } }
        ((s.setTile t { x with kcmpQ := rest, wrs, disputes := x.disputes ++ ds }).countCompared t as
          (fun a => (getD Wr.empty (wrKey a r) x.wrs).recs)).settle t
    | _ => s)

/-! ### TALLY -/

/-- One window result goes into its slot and lane (R56, R82). A window result with d < 0 raises FMT_INVALID of its own: the manual does
not say how many a TALLY raises (DESIGN CHOICE, log 128). -/
def State.tallyOne (s : State) (p t idx run eref eb slot lane : Nat) (r : Int) : State :=
  let x := s.tile t
  match alignResult eref eb r with
  | .invalid => s.fmtInvalid p t idx (x.handleOf run)
  | .underflow => s.setPart p { s.part p with spanUnder := satAdd 32 (s.part p).spanUnder 1 }
  | .add v =>
    match (getD Slot.empty slot x.slots).add eref ((List.range 128).map (fun i => if i = lane then v else 0)) with
    | some sl => s.setTile t { x with slots := put slot sl x.slots }
    | none => s.partFault p 1 1 (t * 64)

/-- The WR of one array is aligned into the slots its column map names, and drained (R74, R82). A WR without an exponent
took no pass and adds nothing. -/
def State.tallyArray (s : State) (p t idx run tslot eref a r : Nat) : State :=
  let x := s.tile t
  let w : Wr := getD Wr.empty (wrKey a r) x.wrs
  let chans : List ColChan := getD [] a x.colMaps
  let s := match w.exp with
    | none => s
    | some eb => (List.range chans.length).foldl (fun s i =>
        match (chans[i]? : Option ColChan) with
        | some c => s.tallyOne p t idx run eref eb (bankEntry run tslot + c.off) c.lane (w.vals.getD i 0)
        | none => s) s
  s.setTile t { s.tile t with wrs := del (wrKey a r) (s.tile t).wrs }

/-- TALLY (R82): the checked WRs of the named arrays are added into the tally slots and drained. -/
def execTally (t : Nat) (s : State) : Result :=
  onTile t (
    let x := s.tile t
    match x.tallyQ with
    | { seq := seq, run := run, idx := idx, op := .tally tslot wr vreg arrays, .. } :: rest =>
      let r := bankWr run wr
      let as := maskList arrays
      let ready := as.all (fun a =>
        if a ≥ 62 then !x.trace.any (fun p => p.wr = r && p.arrays.contains a)
        else (getD Wr.empty (wrKey a r) x.wrs).checked)
      if ¬ s.runs (s.partOfTile t) ∨ ¬ ready ∨ ¬ x.vregReady run seq (bankVreg run vreg) ∨
          (x.tallySlots run tslot arrays).any (x.slotRead seq) then s
      else
        let eref := getD 0 (bankVreg run vreg) x.eref
        let s := s.setTile t { x with tallyQ := rest }
        (as.foldl (fun s a => s.tallyArray (s.partOfTile t) t idx run tslot eref a r) s).settle t
    | _ => s)

/-! ### SKIVE -/

/-- The counts of N4 SKIVEs and fallbacks, and FALLBACK_RATE (R71, R299). -/
def State.countSkive (s : State) (p handle : Nat) (n8 fellBack : Bool) : State :=
  if n8 then s
  else
    let q := s.part p
    let fresh := q.fbWinN ≥ 4096
    let wf := (if fresh then 0 else q.fbWinF) + b2n fellBack
    let wn := (if fresh then 0 else q.fbWinN) + 1
    let level := (q.table.map (·.fbLevel)).getD 256
    let q := { q with n4Skives := satAdd 32 q.n4Skives 1, fallbacks := satAdd 32 q.fallbacks (b2n fellBack),
                      fbWinN := wn, fbWinF := wf }
    if fellBack ∧ wf = level + 1 then
      (s.setPart p { q with fbEvents := satAdd 32 q.fbEvents 1 }).raise 0x0003 0 (some p) 0 0
        (if s.host.conf then 0 else level + 1) handle
    else s.setPart p q

/-- The value of every lane of a slot with the steps of a row (R61). -/
def Tile.skiveLanes (x : Tile) (slot row : Nat) : List (Int × Int) :=
  let sl : Slot := getD Slot.empty slot x.slots
  (List.range 128).map (fun i => skiveLane (sl.eref.getD 0) (sl.lanes.getD i 0) (getD 0 (row * 128 + i) x.steps))

/-- SKIVE (R83): slot TSLOT becomes output block OBLK; the slot is released and the FB flag follows the block. -/
def execSkive (t : Nat) (s : State) : Result :=
  onTile t (
    let x := s.tile t
    match x.skiveQ with
    | { seq := seq, run := run, op := .skive tslot mode fmt eSt satMax zeroMax oblk steprow, .. } :: rest =>
      let i := bankEntry run tslot
      let o := bankEntry run oblk
      if ¬ s.runs (s.partOfTile t) ∨ x.slotPending seq i ∨ ¬ x.tallyResvDone run seq i ∨ x.slotRead seq i ∨
          x.outRead seq o then s
      else
        let p := s.partOfTile t
        let k := skive (mode = 1) (fmt = 1) eSt satMax zeroMax (x.skiveLanes i steprow)
        let h := x.handleOf run
        let s := s.setTile t { x with skiveQ := rest, slots := del i x.slots, outBuf := put o k.blk x.outBuf, fb := k.blk.fb }
        let s := s.countSkive p h (fmt = 1) k.fellBack
        let s := if k.overflow then (s.raise 0x0002 2 (some p) 1 (t * 64) 0 h).abortAtBeatEnd p h else s
        s.settle t
    | _ => s)

/-! ### SEND -/

/-- A block whose content the manual leaves open (log 3). -/
def State.drawBlock (s : State) : Block × State :=
  let (n, s') := s.draw
  ({ e8 := n % 256, n8 := bit n 8, fb := bit n 9, sat := n / 2 ^ 16 % 129, zero := n / 2 ^ 24 % 129
     elems := leBytes 128 (n / 2 ^ 32) }, s')

/-- The output blocks of a SEND; an entry that no SKIVE has written reads as a free value (log 3). -/
def State.outBlocks (s : State) (x : Tile) (first : Nat) : Nat → List Block × State
  | 0 => ([], s)
  | n + 1 =>
    let (bs, s1) := s.outBlocks x first n
    match find? (first + n) x.outBuf with
    | some b => (bs ++ [b], s1)
    | none => let (b, s2) := s1.drawBlock; (bs ++ [b], s2)

/-- The source of a SEND is ready (R94): its blocks or its slot are written, and its E_ref register. -/
def Tile.sendReady (x : Tile) (q : QEnt) : Bool :=
  match q.op with
  | .send src skind count _ _ _ _ _ vreg _ =>
    let i := bankEntry q.run src
    (x.hdrOf q.run).isSome &&
    (match skind with
      | 0 => (List.range count).all (fun k => !x.outPending q.seq (i + k))
      | 1 => !x.slotPending q.seq i && x.tallyResvDone q.run q.seq i && !x.slotRead q.seq i &&
             x.vregReady q.run q.seq (bankVreg q.run vreg)
      | _ => (List.range count).all (fun k => x.present q.run (i + k)) && x.vregReady q.run q.seq (bankVreg q.run vreg))
  | _ => false

/-- The members of a SEND that have not granted: for PATH 7 the far device, through its port (R84, R124, R254). -/
def State.sendWaits (s : State) (t : Nat) (q : QEnt) : List Member :=
  let p := s.partOfTile t
  match q.op, (s.part p).table with
  | .send _ _ _ path dest dbuf mcast _ _ _, some ts =>
    if path = 7 then
      if s.grantsFree p (dest % 16) dbuf ≠ 0 then [] else [⟨0, dest % 16, dbuf⟩]
    else s.ungranted (draftSender q.draft (stitchSender t q.idx)) (sendMembers ts.groups t path dest dbuf mcast)
  | _, _ => []

/-- SEND (R84): the message leaves once every destination has granted credit; a tally slot is released when it has left
(R74). E_REF is the largest E8 of output blocks, or the register VREG for a tally slot and for forwarded input blocks
(R77, R84, R258; log 23). BLOCKS is the stitch's COUNT, so 1 for a tally: the manual does not say what it holds in a partial header
or in a tally's, whose vector has no blocks of its own (DESIGN CHOICE, log 128). -/
def execSend (t : Nat) (s : State) : Result :=
  onTile t (
    let x := s.tile t
    let p := s.partOfTile t
    match x.sendQ with
    | [] => s
    | q :: rest =>
      match q.op, (s.part p).table, x.hdrOf q.run with
      | .send src skind count path dest dbuf mcast part vreg first, some ts, some h =>
        if ¬ s.runs p ∨ ¬ x.sendReady q ∨ ¬ (s.sendWaits t q).isEmpty then s
        else
          let i := bankEntry q.run src
          let (bs, s) := if skind = 0 then s.outBlocks x i count else ((List.range count).map (fun k => x.inBlk (i + k)), s)
          let sl : Slot := getD Slot.empty i x.slots
          let body : Payload := if skind = 1 then .tally ((List.range 128).map (fun k => sl.lanes.getD k 0)) else .blocks bs
          let eref := if skind = 0 then (bs.map (·.e8)).foldl max 0 else getD 0 (bankVreg q.run vreg) x.eref
          let hdr := { h with eref, blocks := count, part := part = 1, first }
          let x := { x with sendQ := rest, slots := if skind = 1 then del i x.slots else x.slots }
          let s := s.setTile t x
          let s :=
            if path = 7 then
              let g := s.girth p
              (s.setGirth p { g with grants := g.grants.erase (dest % 16, dbuf) }).setPart p
                { s.part p with egress := (s.part p).egress ++ [(dest % 16, dbuf, hdr, body)] }
            else s.launch p (draftSender q.draft (stitchSender t q.idx)) (if mcast = 1 ∧ path > 3 then dest else 1024) (pathChannel path)
                   (if path > 4 then some ⟨t / 64, false⟩ else none) hdr body (sendMembers ts.groups t path dest dbuf mcast)
          s.settle t
      | _, _, _ => s)

/-- FAB_STALL (R127): the SEND at the head of the queue is ready and has not received every grant within STALL_LIMIT. The limit
is timed outside the model (log 24). -/
def execFabStall (t : Nat) (s : State) : Result :=
  onTile t (
    let x := s.tile t
    let p := s.partOfTile t
    match x.sendQ with
    | [] => s
    | q :: _ =>
      let ms := s.sendWaits t q
      if ¬ s.runs p ∨ ¬ x.sendReady q ∨ ms.isEmpty then s
      else
        let m := ms.getD 0 default
        (s.raise 0x0012 2 (some p) 3 t
          (ms.length + 2 ^ 8 * (m.cluster + 2 ^ 4 * m.port + 2 ^ 11 * m.rbuf)) (x.handleOf q.run)).partFault p 6 3 t)

/-! ### INLAY (R86, R341) -/

/-- INLAY (R86): asks the cluster's inlay engine; a request with no inlay contributes nothing and commits at once. -/
def execInlay (t : Nat) (s : State) : Result :=
  onTile t (
    let x := s.tile t
    let c := s.cluster (t / 64)
    match x.inlayQ.find? (fun q => !c.inlayQ.contains (t, q.seq)) with
    | none => s
    | some q =>
      if ¬ s.runs (s.partOfTile t) then s
      else match x.hdrOf q.run with
        | none => s
        | some h =>
          match (s.extn (handleIdx h.handle)).inlay with
          | some _ => s.setCluster (t / 64) { c with inlayQ := c.inlayQ ++ [(t, q.seq)] }
          | none => (s.setTile t { x with inlayQ := x.inlayQ.filter (fun y => y.seq ≠ q.seq) }).settle t)

/-- What one difference adds (R59, R341): the lane's contribution, an underflow, or an invalid exponent, aligned with the exponent of the
block that holds x. A zero block adds nothing and is not counted, as under R56 (DEDUCED, log 128). -/
def Tile.inlayTerm (x : Tile) (eref iblk : Nat) (d : Diff) : Aligned :=
  let b := x.inBlk (iblk + d.row / 128)
  if b.e8 = 0 then .add 0 else alignResult eref b.e8 (d.delta * elemVal b (d.row % 128))

/-- INLAY_ENGINE_COMMIT (R341): the engine of cluster `c` ends its oldest INLAY; its 128-lane accumulator is added into TSLOT
under R58. An INLAY with differences of d < 0 raises FMT_INVALID once: the manual does not say how often (DESIGN CHOICE, log 128). -/
def execInlayEngineCommit (c : Nat) (s : State) : Result :=
  onCluster c (
    let cl := s.cluster c
    match cl.inlayQ with
    | [] => s
    | (t, sq) :: rest =>
      let x := s.tile t
      let p := s.partOfTile t
      match x.inlayQ.find? (fun q => q.seq = sq) with
      | none => s.setCluster c { cl with inlayQ := rest }
      | some q =>
        match q.op, x.hdrOf q.run with
        | .inlay tslot seg iblk vreg _, some h =>
          let i := bankEntry q.run iblk
          let v := bankVreg q.run vreg
          if ¬ s.runs p ∨ ¬ (List.range 4).all (fun k => x.present q.run (i + k)) ∨ ¬ x.vregReady q.run sq v ∨
              x.slotRead sq (bankEntry q.run tslot) then s
          else
            let n := (s.extn (handleIdx h.handle)).inlay.getD 0
            let ds := (getD [] n (s.part p).inlays).filter (fun d => d.tile = t && d.seg = seg)
            let eref := getD 0 v x.eref
            let terms := ds.map (fun d => (d.lane, x.inlayTerm eref i d))
            let lanes := (List.range 128).map (fun l =>
              (terms.map (fun y => match y.2 with
                | .add a => if y.1 = l then a else 0
                | _ => 0)).sum)
            let und := terms.countP (fun y => y.2 = .underflow)
            let bad := terms.any (fun y => y.2 = .invalid)
            let s := s.setCluster c { cl with inlayQ := rest }
            let x := { x with inlayQ := x.inlayQ.filter (fun y => y.seq ≠ sq) }
            let s := s.setPart p { s.part p with spanUnder := satAdd 32 (s.part p).spanUnder und }
            let s := if bad then s.fmtInvalid p t q.idx h.handle else s
            match (getD Slot.empty (bankEntry q.run tslot) x.slots).add eref lanes with
            | some sl => (s.setTile t { x with slots := put (bankEntry q.run tslot) sl x.slots }).settle t
            | none => (s.setTile t x).partFault p 1 1 (t * 64)
        | _, _ => s.setCluster c { cl with inlayQ := rest })

end Sys2Proof.Machine
end

