-- ==== Sys2Proof/Machine/Burnisher.lean ====
section
/-!
DEFINITION. The burnisher (R129–R137, R156): a descriptor that is ready and at the head of its cluster's queue fires, its
values are computed in binary32, and its output leaves for its group. An event whose conditions do not hold leaves the state
as it is (log 4).
-/

namespace Sys2Proof.Machine

open Sys2Proof

/-! ### Emission by an engine (R62, R136) -/

/-- Values cut into blocks of 128 lanes; a lane without a result makes its block a zero block (R62). The second component
counts the blocks that could not be emitted. -/
def emitVec (n8 : Bool) (vals : List (Option F32)) : Nat → List Block × Nat
  | 0 => ([], 0)
  | k + 1 =>
    let lanes := vals.take 128
    let (bs, bad) := emitVec n8 (vals.drop 128) k
    let blk := if lanes.any Option.isNone then none else dynamicBlock n8 false (lanes.map (fun v => v.getD (0, 0)))
    match blk with
    | some b => (b :: bs, bad)
    | none => (zeroBlock n8 :: bs, bad + 1)

/-- NUM_OVERFLOW for every block that an engine could not emit; the request ends at the end of the beat (R62). -/
def State.numOverflow (s : State) (p handle : Nat) : Nat → State
  | 0 => s
  | n + 1 => ((s.numOverflow p handle n).raise 0x0002 2 (some p) 0 0 0 handle).abortAtBeatEnd p handle

/-- The header of an engine's output (R55, R92): the largest E8 it emitted, and words 1–3 of its input. -/
def outHdr (h : VecHdr) (bs : List Block) : VecHdr :=
  { h with eref := (bs.map (·.e8)).foldl max 0, blocks := bs.length, part := false, first := 0 }

/-- An engine's output leaves for its group (R124, R136), a draft run's to what draft runs opened (R222). -/
def State.engEmit (s : State) (p port c d group : Nat) (draft : Bool) (members : List Member) (h : VecHdr) (bs : List Block) : State :=
  s.launch p (draftSender draft (engineSender port c d)) group .bulk (some ⟨c, false⟩) (outHdr h bs) (.blocks bs) members

/-- The decoded elements of a vector (R133). -/
def vecF (bs : List Block) : List (Option F32) := bs.flatMap (fun b => (List.range 128).map (elemF32 b))

/-- The blocks of a bank by entry. -/
def EngResv.blocks (r : EngResv) (n : Nat) : List Block :=
  (List.range n).map (fun i => (find? i r.blks).getD (zeroBlock true))

/-- The reservation's E_ref: the largest E_REF among the headers that arrived (R55, R140). -/
def EngResv.eref (r : EngResv) : Nat := (r.hdrs.map (·.eref)).foldl max 0

/-! ### The spill region (R103, R104) -/

/-- The key of a byte of cluster `c`'s spill region. -/
def spillKey (c o : Nat) : Nat := c * 2 ^ 24 + o

/-- The on-die address of spill offset `o` of cluster `c` (R103, R104, R106). -/
def spillAddr (c o : Nat) : Nat :=
  c * 2 ^ 27 + (o / 64 % 64) * 2 ^ 21 + (0x10000 + o / 4096 * 64 + o % 64) % 2 ^ 21

/-- The binary32 value at element `i` of a vector at ADDR; none for an infinity or a NaN (R134). -/
def State.spillF (s : State) (c addr i : Nat) : Option F32 :=
  ofBits (leNat ((List.range 4).map (fun k => Memory.readZ s.spill (spillKey c (addr + 4 * i + k)))))

/-- A vector of binary32 values written at ADDR; a value without a result is written as a free value (log 3). -/
def State.spillStore (s : State) (c : Nat) : Nat → List (Option F32) → State
  | _, [] => s
  | a, v :: vs =>
    let (w, s') := match v with
      | some x => (toBits x, s)
      | none => s.draw
    State.spillStore { s' with spill := Memory.writeAllZ s'.spill (spillKey c a) (leBytes 4 w) } c (a + 4) vs

/-! ### A firing (R132) -/

/-- What a firing of the burnisher works on. -/
structure BurnIn where
  p    : Nat
  c    : Nat
  d    : Nat
  desc : BurnDesc
  ts   : TableSet
  draft : Bool
  hdr  : VecHdr
  eref : Nat
  a    : List Block
  b    : List Block
  agree : Bool

/-- The descriptor at the head of cluster `c`'s queue, when it has operation `op` and can run: its banks are complete, and
every member of its group has granted (R124, R132). -/
def State.burnReady (s : State) (c op : Nat) : Option BurnIn :=
  let p := s.partOfCluster c
  let x := s.cluster c
  match (s.part p).table, x.burnQ with
  | some ts, d :: _ =>
    match (getD [] c ts.burn)[d]? with
    | none => none
    | some desc =>
      if desc.op ≠ op ∨ ¬ s.runs p then none
      else if op ≠ 9 ∧ ¬ (s.ungranted (draftSender (x.firesDraft 64 d (burnInputs desc)) (engineSender 64 c d)) (getD [] desc.group ts.groups)).isEmpty then none
      else match x.fireBank 64 desc.rbufA d, x.fireBank 64 (if op = 5 then desc.rbufB else desc.rbufA) d with
        | some ka, some kb =>
          let ra := x.eng 64 desc.rbufA ka
          let rb := x.eng 64 (if op = 5 then desc.rbufB else desc.rbufA) kb
          match ra.hdrs, rb.hdrs with
          | h :: _, h2 :: _ =>
            some { p, c, d, desc, ts, draft := x.firesDraft 64 d (burnInputs desc), hdr := h, eref := ra.eref, a := ra.blocks (desc.nblk + 1),
                   b := rb.blocks (desc.nblk + 1), agree := hdrAgree h h2 }
          | _, _ => none
        | _, _ => none
  | _, _ => none

/-- The descriptor has fired: its banks are used and it leaves the queue (R132, log 21). -/
def State.burnUsed (s : State) (x : BurnIn) : State :=
  let descs := x.ts.engDescs 64 x.c
  let cl := (s.cluster x.c).setReadyQ 64 ((s.cluster x.c).burnQ.drop 1)
  s.setCluster x.c ((burnInputs x.desc).foldl (fun cl i =>
    match cl.fireBank 64 i.1 x.d with
    | some b => cl.consume 64 i.1 b x.d descs
    | none => cl) cl)

/-- A firing as a whole: `bytes` of the spill region at ADDR are read or written, so they must lie in it (R103); `f` gives the
values and `g` what is written besides. Inputs whose headers disagree are HDR_MISMATCH (R92). -/
def State.burnFire (s : State) (c op : Nat) (bytes : BurnIn → Nat) (n8out : BurnIn → Nat)
    (f : State → BurnIn → List (Option F32)) (g : State → BurnIn → List (Option F32) → State) : State :=
  match s.burnReady c op with
  | none => s
  | some x =>
    if ¬ x.agree then s.partFault x.p 2 3 (c + 2 ^ 4 * 64)
    else if bytes x > 0 ∧ x.desc.addr + bytes x > 2 ^ 24 then s.partFault x.p 3 2 (spillAddr c x.desc.addr)
    else
      let vals := f s x
      let (bs, bad) := emitVec x.desc.ofmt vals (n8out x)
      let s := (g s x vals).burnUsed x
      let s := s.numOverflow x.p x.hdr.handle bad
      if op = 9 then s
      else s.engEmit x.p 64 c x.d x.desc.group x.draft (getD [] x.desc.group x.ts.groups) x.hdr bs

/-- Blocks of one input. -/
def BurnIn.n (x : BurnIn) : Nat := x.desc.nblk + 1

/-! ### Values (R133–R135) -/

/-- Two lists of lanes through one operation. -/
def zipF (f : F32 → F32 → Option F32) (as bs : List (Option F32)) : List (Option F32) :=
  List.zipWith (fun a b => match a, b with
    | some a, some b => f a b
    | _, _ => none) as bs

/-- The vector of `n` binary32 values at an offset of the spill region. -/
def State.spillVec (s : State) (c addr n : Nat) : List (Option F32) := (List.range n).map (s.spillF c addr)

/-- ADD (R134). -/
def addValues (s : State) (x : BurnIn) : List (Option F32) :=
  zipF addF (vecF x.a) (s.spillVec x.c x.desc.addr (128 * x.n))

/-- Σ a and Σ a² over the aligned integers, in units of 2^(E_ref − 151) and its square (R133). An element whose block lies more
than 24 steps below E_ref contributes nothing. -/
def normSums (eref : Nat) (a : List Block) : Int × Int :=
  a.foldl (fun acc b =>
    (List.range 128).foldl (fun acc i =>
      match alignResult eref b.e8 (elemVal b i) with
      | .add v => (acc.1 + v, acc.2 + v * v)
      | _ => acc) acc) (0, 0)

/-- 1/n-th of a value, rounded once. -/
def meanF (v : Option F32) (n : Nat) : Option F32 := v.bind (fun v => divF v (n, 0))

/-- sqrt(v + ε), with ε = 2^(X8 − 127) (R131, R134). -/
def normRoot (x8 : Nat) (v : Option F32) : Option F32 :=
  match v, round32 (1, (x8 : Int) - 127) with
  | some v, some e => (addF v e).bind sqrtF
  | _, _ => none

/-- RMSNORM (R134). -/
def rmsValues (s : State) (x : BurnIn) : List (Option F32) :=
  let n := 128 * x.n
  let q := (normSums x.eref x.a).2
  match normRoot x.desc.x8 (meanF (round32 (q, 2 * ((x.eref : Int) - 151))) n) with
  | some r => (zipF mulF (vecF x.a) (s.spillVec x.c x.desc.addr n)).map (fun v => v.bind (fun v => divF v r))
  | none => List.replicate n none

/-- LNORM (R134): Σ (a − μ)² is formed exactly as Σ a² − (Σ a)² / n before its one rounding. -/
def lnValues (s : State) (x : BurnIn) : List (Option F32) :=
  let n := 128 * x.n
  let sq := normSums x.eref x.a
  let e := (x.eref : Int) - 151
  match meanF (round32 (sq.1, e)) n, normRoot x.desc.x8 (meanF (roundQ (n * sq.2 - sq.1 * sq.1) n (2 * e)) n) with
  | some mu, some r =>
    let c := (vecF x.a).map (fun v => v.bind (fun v => subF v mu))
    let y := (zipF mulF c (s.spillVec x.c x.desc.addr n)).map (fun v => v.bind (fun v => divF v r))
    zipF addF y (s.spillVec x.c (x.desc.addr + 4 * n) n)
  | _, _ => List.replicate n none

/-- Segment `k` of activation table `t`: a generated one, or a loaded one (R135, R474). -/
def TableSet.segment (ts : TableSet) (t k : Nat) : Option (F32 × F32) :=
  if t < 3 then actSegment t k
  else
    let e := (getD [] t ts.actTbl).getD k (0, 0)
    match ofBits e.1, ofBits e.2 with
    | some a, some b => some (a, b)
    | _, _ => none

/-- f_TBL: slope · x + intercept with one rounding (R135). -/
def TableSet.actF (ts : TableSet) (t : Nat) (x : F32) : Option F32 :=
  (ts.segment t (actIndex x)).bind (fun k => fmaF k.1 x k.2)

/-- ACT (R134). -/
def actValues (_ : State) (x : BurnIn) : List (Option F32) :=
  (vecF x.a).map (fun v => v.bind (x.ts.actF x.desc.tbl))

/-- GATE (R134). -/
def gateValues (s : State) (x : BurnIn) : List (Option F32) := zipF mulF (actValues s x) (vecF x.b)

/-- SCALE (R134). -/
def scaleValues (_ : State) (x : BurnIn) : List (Option F32) :=
  (vecF x.a).map (fun v => match v, ofBits x.desc.param with
    | some v, some k => mulF v k
    | _, _ => none)

/-- One output of ROPE from its pair: fma(a0, u, ± a1 · w), the product rounded first (R134). -/
def ropeLane (neg : Bool) (a0 a1 u w : F32) : Option F32 :=
  (mulF a1 w).bind (fun p => fmaF a0 u (if neg then negX p else p))

/-- ROPE (R134): each pair of each head is rotated by θ = POS · ω_i. -/
def ropeValues (_ : State) (x : BurnIn) : List (Option F32) :=
  let h := 2 * x.desc.x8
  let a := vecF x.a
  let trig := (List.range x.desc.x8).map (fun i =>
    (if i = 0 then some (1, 0) else (ofBits x.desc.param).bind (fun pr => ropeOmega pr i h)).bind (fun w =>
      (mulF (x.hdr.pos, 0) w).bind ropeTrig))
  (List.range (128 * x.n)).map (fun j =>
    let i := j % h / 2
    match a.getD (j - j % 2) none, a.getD (j - j % 2 + 1) none, trig.getD i none with
    | some a0, some a1, some (c, sn) => if j % 2 = 0 then ropeLane true a0 a1 c sn else ropeLane false a0 a1 sn c
    | _, _, _ => none)

/-- The K largest of the scores, equal ones by lower index (R134, R156). -/
def topK (k : Nat) (sc : List F32) : List Nat :=
  let n := sc.length
  (List.range n).filter (fun e =>
    (List.range n).countP (fun f =>
      let a := sc.getD e (0, 0)
      let b := sc.getD f (0, 0)
      ltX a b || (!ltX b a && decide (f < e))) < k)

/-- ROUTE (R156): the gates of the selected experts over 256 lanes. -/
def routeValues (_ : State) (x : BurnIn) : List (Option F32) :=
  let sc := (vecF x.a).take 256
  if sc.any Option.isNone then List.replicate 256 none
  else
    let sc := sc.map (fun v => v.getD (0, 0))
    let sel := topK x.desc.k sc
    let mx := sc.foldl (fun m v => if ltX m v then v else m) (sc.headD (0, 0))
    let ex := sel.map (fun e => (e, (subF (sc.getD e (0, 0)) mx).bind exp32))
    let sum := ex.foldl (fun acc y => acc.bind (fun acc => y.2.bind (addF acc))) (some (0, 0))
    (List.range 256).map (fun e =>
      match ex.find? (fun y => y.1 = e) with
      | none => some (0, 0)
      | some y => match y.2, sum with
        | some v, some t => divF v t
        | _, _ => none)

/-! ### The commands -/

/-- Nothing written besides the output. -/
def writeNothing (s : State) (_ : BurnIn) (_ : List (Option F32)) : State := s

/-- ADD: a + r, r at ADDR; with WB the sum is written back (R134). -/
def execAdd (c : Nat) (s : State) : Result :=
  onCluster c (s.burnFire c 1 (fun x => 4 * (128 * x.n)) BurnIn.n addValues
    (fun s x v => if x.desc.wb then s.spillStore x.c x.desc.addr v else s))

/-- RMSNORM (R134). -/
def execRmsnorm (c : Nat) (s : State) : Result :=
  onCluster c (s.burnFire c 2 (fun x => 4 * (128 * x.n)) BurnIn.n rmsValues writeNothing)

/-- LNORM (R134). -/
def execLnorm (c : Nat) (s : State) : Result :=
  onCluster c (s.burnFire c 3 (fun x => 8 * (128 * x.n)) BurnIn.n lnValues writeNothing)

/-- ACT (R134, R135). -/
def execAct (c : Nat) (s : State) : Result :=
  onCluster c (s.burnFire c 4 (fun _ => 0) BurnIn.n actValues writeNothing)

/-- GATE (R134, R135). -/
def execGate (c : Nat) (s : State) : Result :=
  onCluster c (s.burnFire c 5 (fun _ => 0) BurnIn.n gateValues writeNothing)

/-- ROPE (R134). -/
def execRope (c : Nat) (s : State) : Result :=
  onCluster c (s.burnFire c 6 (fun _ => 0) BurnIn.n ropeValues writeNothing)

/-- SCALE (R134). -/
def execScale (c : Nat) (s : State) : Result :=
  onCluster c (s.burnFire c 7 (fun _ => 0) BurnIn.n scaleValues writeNothing)

/-- ROUTE: the gate vector in two blocks (R156). -/
def execRoute (c : Nat) (s : State) : Result :=
  onCluster c (s.burnFire c 8 (fun _ => 0) (fun _ => 2) routeValues writeNothing)

/-- STORE: a is written at ADDR, and nothing is emitted (R134). -/
def execStore (c : Nat) (s : State) : Result :=
  onCluster c (s.burnFire c 9 (fun x => 4 * (128 * x.n)) BurnIn.n (fun _ x => vecF x.a)
    (fun s x v => s.spillStore x.c x.desc.addr v))

end Sys2Proof.Machine
end

