-- ==== Sys2Proof/Machine/Attention.lean ====
section
/-!
DEFINITION. The attention engine: the KV record (R142–R144), the length pointer's checks (R146–R148), attention (R150, R151),
state layers (R154, R155) and the expert exchange (R156–R158).
-/

namespace Sys2Proof.Machine

open Sys2Proof

/-! ### Spans (R143, R144, R154) -/

/-- The KV layers of a cluster, one descriptor each, in ascending LAYER order (R143). -/
def TableSet.kvLayers (ts : TableSet) (c : Nat) : List AttnDesc :=
  let ds := (getD [] c ts.attn).filter (fun d => d.op = 1 || d.op = 2 || d.op = 3)
  (List.range 256).filterMap (fun l => ds.find? (fun d => d.layer = l))

/-- The span length M of a maximum length (R143). -/
def spanLen (maxlen : Nat) : Nat := (maxlen + 31) / 32 * 32

/-- The size of one layer region in bytes (R143, R154). -/
def layerBytes (d : AttnDesc) (m : Nat) : Nat := if d.op = 1 then 258 * 2 ^ d.nbl * m else 2 ^ 18

/-- The size of a cluster's span (R143). -/
def TableSet.spanBytes (ts : TableSet) (c m : Nat) : Nat := ((ts.kvLayers c).map (fun d => layerBytes d m)).sum

/-- The offset of a layer region in its span (R143). -/
def TableSet.layerBase (ts : TableSet) (c layer m : Nat) : Nat :=
  (((ts.kvLayers c).filter (fun d => d.layer < layer)).map (fun d => layerBytes d m)).sum

/-- The key of a KV byte: the tier and the cluster, then the address in the tier's area. -/
def kvKey (streamed : Bool) (c a : Nat) : Nat := ((if streamed then 16 else 0) + c) * 2 ^ 40 + a

/-- Where the layer region of a request lies in cluster `c`; none where the request holds no span there (R169). -/
def State.layerRegion (s : State) (ts : TableSet) (c h layer : Nat) : Option Nat :=
  let e := s.entry (handleIdx h)
  (find? c (s.extn (handleIdx h)).spans).map (fun b =>
    kvKey e.streamed c (b * 2 ^ 16 + ts.layerBase c layer (spanLen e.maxlen)))

/-- The offset of the elements of a key (`val` false) or value block k of position p (R143). -/
def elemOff (nb p k : Nat) (val : Bool) : Nat := 64 * (4 * nb * p + (if val then 2 * nb else 0) + 2 * k)

/-- The offset of its exponent (R143). -/
def expOff (nb m p k : Nat) (val : Bool) : Nat := 256 * nb * m + 2 * nb * p + (if val then nb else 0) + k

/-- A block as the engine stores it: element bytes in N8 form, zero bytes for a zero block (R142). -/
def storedBytes (b : Block) : List Byte :=
  if b.e8 = 0 then List.replicate 128 0 else (List.range 128).map (fun i => b.elems.getD i 0)

/-- One block written to a record: elements and exponent (R142). -/
def State.kvWrite (s : State) (elem exp : Nat) (b : Block) : State :=
  { s with kv := Memory.write (Memory.writeAll s.kv elem (storedBytes b)) exp (BitVec.ofNat 8 b.e8) }

/-- One block of a KV write leaves for the slice: until its flits have arrived an error there leaves the bytes as they were (R128, log 139). -/
def State.kvSend (s : State) (p c handle layer pos elem exp : Nat) (b : Block) : State :=
  let was := (exp :: (List.range 128).map (elem + ·)).map (fun a => (a, Memory.read s.kv a))
  let w : KvWr := { part := p, epoch := (s.part p).epoch, cluster := c, handle, layer, pos, was }
  { s.kvWrite elem exp b with kvWr := s.kvWr ++ [w] }

/-- One block read from a record (R142, R147). -/
def State.kvRead (s : State) (elem exp : Nat) : Block :=
  { e8 := (Memory.readFree s.kv exp).toNat, n8 := true, fb := false, sat := 0, zero := 0
    elems := (List.range 128).map (fun i => Memory.readFree s.kv (elem + i)) }

/-! ### A firing (R140, R475) -/

/-- What a firing of the attention engine works on. -/
structure AttnIn where
  p    : Nat
  c    : Nat
  d    : Nat
  desc : AttnDesc
  ts   : TableSet
  draft : Bool
  hdr  : VecHdr
  q    : List Block
  x    : List Block
  agree : Bool

/-- NB: key blocks per position. -/
def AttnIn.nb (x : AttnIn) : Nat := 2 ^ x.desc.nbl
/-- D: the head dimension. -/
def AttnIn.dim (x : AttnIn) : Nat := 64 * 2 ^ x.desc.dh

/-- The members a descriptor's output goes to (R139, R157). -/
def attnMembers (ts : TableSet) (d : AttnDesc) : List Member :=
  if d.op = 3 then []
  else if d.op = 4 then
    (List.range (d.nexp + 1)).filterMap (fun e => (getD [] (d.group + e / 64) ts.groups)[e % 64]?)
  else getD [] d.group ts.groups

/-- The bank and reservation contents behind one input of a descriptor. -/
def Cluster.attnInput (x : Cluster) (d rbuf n : Nat) : Option (VecHdr × List Block) :=
  match x.fireBank 65 rbuf d with
  | none => none
  | some b =>
    let r := x.eng 65 rbuf b
    match r.hdrs with
    | h :: _ => some (h, r.blocks n)
    | [] => none

/-- The descriptor at the head of cluster `c`'s attention queue, when it has operation `op` and can run (R140). A COMBINE's output carries the
header of the gate vector, and a DISPATCH's that of x (R157; for a COMBINE R158 names none: DESIGN CHOICE, log 133). -/
def State.attnReady (s : State) (c op : Nat) : Option AttnIn :=
  let p := s.partOfCluster c
  let x := s.cluster c
  match (s.part p).table, x.attnQ with
  | some ts, d :: _ =>
    match (getD [] c ts.attn)[d]? with
    | none => none
    | some desc =>
      if desc.op ≠ op ∨ ¬ s.runs p ∨
          ¬ (s.ungranted (draftSender (x.firesDraft 65 d (attnInputs desc)) (engineSender 65 c d)) (attnMembers ts desc)).isEmpty then none
      else
        let draft := x.firesDraft 65 d (attnInputs desc)
        let mk (hdr : VecHdr) (q y : List Block) (agree : Bool) : AttnIn := { p, c, d, desc, ts, draft, hdr, q, x := y, agree }
        match attnInputs desc with
        | [(r1, n1)] => (x.attnInput d r1 n1).map (fun y => if op = 3 then mk y.1 [] y.2 true else mk y.1 y.2 [] true)
        | [(r1, n1), (r2, n2)] =>
          match x.attnInput d r1 n1, x.attnInput d r2 n2 with
          | some a, some b => some (mk (if op = 4 then b.1 else a.1) a.2 b.2 (hdrAgree a.1 b.1))
          | _, _ => none
        | _ => none
  | _, _ => none

/-- The descriptor has fired: its banks are used and it leaves the queue (R132, R140, log 21). -/
def State.attnUsed (s : State) (x : AttnIn) : State :=
  let descs := x.ts.engDescs 65 x.c
  let cl := (s.cluster x.c).setReadyQ 65 ((s.cluster x.c).attnQ.drop 1)
  s.setCluster x.c ((attnInputs x.desc).foldl (fun cl i =>
    match cl.fireBank 65 i.1 x.d with
    | some b => cl.consume 65 i.1 b x.d descs
    | none => cl) cl)

/-- HDR_MISMATCH of a firing: the engine writes and reads nothing (R140). -/
def State.attnBad (s : State) (x : AttnIn) : State := s.partFault x.p 2 3 (x.c + 2 ^ 4 * 65)

/-- The firing's request, when its handle names an entry of the partition (R140). -/
def State.attnEntry (s : State) (x : AttnIn) : Option Entry :=
  (s.entryOf x.hdr.handle).filter (fun e => e.part = x.p)

/-- KV_GAP: a fault inside the partition (R147). -/
def State.kvGap (s : State) (x : AttnIn) : State :=
  let loc := x.c + 2 ^ 8 * x.desc.layer
  (s.raise 0x0020 2 (some x.p) 3 loc x.hdr.pos x.hdr.handle).partFault x.p 7 3 loc

/-- Blocks whose content the manual leaves open (log 3). -/
def State.drawBlocks (s : State) : Nat → List Block × State
  | 0 => ([], s)
  | n + 1 =>
    let (b, s1) := s.drawBlock
    let (bs, s2) := s1.drawBlocks n
    (b :: bs, s2)

/-- An output vector leaves the engine. -/
def State.attnEmit (s : State) (x : AttnIn) (bs : List Block) : State :=
  s.engEmit x.p 65 x.c x.d x.desc.group x.draft (attnMembers x.ts x.desc) x.hdr bs

/-- KV_RANGE: the request ends at the end of the beat; what the firing emits is open (R147, log 3). -/
def State.kvRange (s : State) (x : AttnIn) (outBlocks : Nat) : State :=
  let s := (s.raise 0x0021 2 (some x.p) 3 (x.c + 2 ^ 8 * x.desc.layer) x.hdr.pos x.hdr.handle).abortAtBeatEnd x.p x.hdr.handle
  let s := s.attnUsed x
  if outBlocks = 0 then s
  else
    let (bs, s) := s.drawBlocks outBlocks
    s.attnEmit x bs

/-- Whether the step in progress has written position `q` of a layer of a request (R146, R147). -/
def State.wroteAt (s : State) (c h layer q : Nat) : Bool := (s.cluster c).wrote.contains (h, layer, q)

/-! ### Attention (R150) -/

/-- The exact dot product of a query and a key. -/
def dotX (q k : List F32) : F32 := (List.zipWith mulX q k).foldl addX (0, 0)

/-- The running state of R150: m (none for −∞), l and the weighted sums. -/
structure AttnAcc where
  m : Option F32
  l : F32
  o : List F32

/-- A list of results, when every one exists. -/
def allSome {α : Type} : List (Option α) → Option (List α)
  | [] => some []
  | a :: as => match a, allSome as with
    | some a, some as => some (a :: as)
    | _, _ => none

/-- One position of R150. -/
def attnStep (scale : F32) (q k v : List F32) (a : AttnAcc) : Option AttnAcc :=
  (round32 (mulX (dotX q k) scale)).bind (fun sc =>
    let mn := match a.m with
      | none => sc
      | some m => if ltX m sc then sc else m
    let c := match a.m with
      | none => some (0, 0)
      | some m => expDiff m mn
    match c, expDiff sc mn with
    | some c, some e =>
      match fmaF a.l c e, allSome (List.zipWith (fun o vi => (mulF o c).bind (fun oc => fmaF e vi oc)) a.o v) with
      | some l, some o => some ⟨some mn, l, o⟩
      | _, _ => none
    | _, _ => none)

/-- R150 over positions `j`, `j + 1`, …, `n` of them. -/
def attnRun (scale : F32) (q : List F32) (kv : Nat → List F32 × List F32) : Nat → Nat → AttnAcc → Option AttnAcc
  | 0, _, a => some a
  | n + 1, j, a => (attnStep scale q (kv j).1 (kv j).2 a).bind (attnRun scale q kv n (j + 1))

/-- One query head's outputs. -/
def attnHead (d : Nat) (scale : Option F32) (q : List F32) (kv : Nat → List F32 × List F32) (lo n : Nat) : List (Option F32) :=
  match scale.bind (fun sc => attnRun sc q kv n lo ⟨none, (0, 0), List.replicate d (0, 0)⟩) with
  | some a => a.o.map (fun o => divF o a.l)
  | none => List.replicate d none

/-- The exact elements `i` to `i + d − 1` of a vector of blocks. -/
def elemsX (bs : List Block) (i d : Nat) : List F32 :=
  (List.range d).map (fun k => elemF (bs.getD ((i + k) / 128) (zeroBlock true)) ((i + k) % 128))

/-- The key and value elements of KV head `h` at position `j` of a layer region. -/
def State.headAt (s : State) (region nb m d h j : Nat) : List F32 × List F32 :=
  let blks (val : Bool) := (List.range nb).map (fun k => s.kvRead (region + elemOff nb j k val) (region + expOff nb m j k val))
  (elemsX (blks false) (h * d) d, elemsX (blks true) (h * d) d)

/-- The values of an ATTN: G query heads for each KV head, in head order (R150, R151, R475). -/
def State.attnValues (s : State) (x : AttnIn) (region m lo : Nat) : List (Option F32) :=
  let d := x.dim
  let heads := x.nb * 128 / d
  (List.range heads).flatMap (fun h => (List.range x.desc.g).flatMap (fun i =>
    attnHead d (ofBits x.desc.param) (elemsX x.q ((h * x.desc.g + i) * d) d) (s.headAt region x.nb m d h)
      lo (x.hdr.pos + 1 - lo)))

/-- The new keys and values of a firing at its position (R142, R146). -/
def State.attnWrite (s : State) (x : AttnIn) (region m : Nat) : State :=
  let nb := x.nb
  let s := (List.range (2 * nb)).foldl (fun s k =>
    let val := k ≥ nb
    let kk := k % nb
    s.kvSend x.p x.c x.hdr.handle x.desc.layer x.hdr.pos (region + elemOff nb x.hdr.pos kk val) (region + expOff nb m x.hdr.pos kk val)
      (x.x.getD k (zeroBlock true))) s
  let cl := s.cluster x.c
  s.setCluster x.c { cl with wrote := (x.hdr.handle, x.desc.layer, x.hdr.pos) :: cl.wrote }

/-- A firing at position p waits for the commit of a step in flight that it is no part of (R148): it lies beyond the step's positions, or the
step has been at the position before. -/
def Ext.commitDue (x : Ext) (l p : Nat) (been : Bool) : Bool := x.inFlight && decide (x.stepPos > 0) && (decide (l + x.stepPos ≤ p) || been)

/-- ATTN (R146–R151, R220): writes position p, then attends over lo to p; in a draft run LD stands in place of L. It waits for the commit of an
earlier step (R148). A firing that is both at or beyond MAXLEN and past an unwritten position raises KV_RANGE alone (R147 gives no order: DESIGN
CHOICE, log 132). -/
def execAttn (c : Nat) (s : State) : Result :=
  onCluster c (match s.attnReady c 1 with
    | none => s
    | some x =>
      if ¬ x.agree then s.attnBad x
      else match s.attnEntry x with
        | none => s.attnBad x
        | some e =>
          let p := x.hdr.pos
          let ex := s.extn (handleIdx x.hdr.handle)
          let l := if x.draft then ex.ld else e.l
          if ¬ x.draft ∧ ex.commitDue e.l p (s.wroteAt c x.hdr.handle x.desc.layer p) then s
          else if p ≥ e.maxlen then s.kvRange x (x.desc.g * x.nb)
          else if p < l ∨ (List.range' l (p - l)).any (fun q => !s.wroteAt c x.hdr.handle x.desc.layer q) then s.kvGap x
          else match s.layerRegion x.ts c x.hdr.handle x.desc.layer with
            | none => s
            | some region =>
              let m := spanLen e.maxlen
              let s := s.attnWrite x region m
              let lo := if x.desc.win = 0 then 0 else p + 1 - x.desc.win
              let (bs, bad) := emitVec x.desc.ofmt (s.attnValues x region m lo) (x.desc.g * x.nb)
              ((s.attnUsed x).numOverflow x.p x.hdr.handle bad).attnEmit x bs)

/-! ### State layers (R154, R155) -/

/-- The offset of the committed (0) or working (1) copy, and of block `b`'s elements and exponent in it (R154). -/
def stateOff (copy b : Nat) : Nat × Nat := (copy * 2 ^ 17 + 128 * b, copy * 2 ^ 17 + 129024 + b)

/-- The last position that the step has stored of a state layer. -/
def State.storedAt (s : State) (c h layer : Nat) : Option Nat :=
  ((s.cluster c).stored.find? (fun y => y.1 = h && y.2.1 = layer)).map (·.2.2)

/-- STLOAD (R155): the working copy when the step has stored one, the committed copy otherwise. -/
def execStload (c : Nat) (s : State) : Result :=
  onCluster c (match s.attnReady c 2 with
    | none => s
    | some x =>
      match s.attnEntry x, s.layerRegion x.ts c x.hdr.handle x.desc.layer with
      | none, _ => s.attnBad x
      | some _, none => s
      | some _, some region =>
        let ex := s.extn (handleIdx x.hdr.handle)
        let l := (s.entry (handleIdx x.hdr.handle)).l
        let been := ((s.storedAt c x.hdr.handle x.desc.layer).map (fun q => decide (x.hdr.pos ≤ q))).getD false
        if ex.commitDue l x.hdr.pos been then s
        else
        let copy := if (s.storedAt c x.hdr.handle x.desc.layer).isSome then 1 else 0
        let bs := (List.range (x.desc.nx + 1)).map (fun b =>
          s.kvRead (region + (stateOff copy b).1) (region + (stateOff copy b).2))
        (s.attnUsed x).attnEmit x bs)

/-- STSTORE (R155): its blocks become the working copy. With L above 0 and nothing stored yet its position is L (log 25). -/
def execStstore (c : Nat) (s : State) : Result :=
  onCluster c (match s.attnReady c 3 with
    | none => s
    | some x =>
      match s.attnEntry x, s.layerRegion x.ts c x.hdr.handle x.desc.layer with
      | none, _ => s.attnBad x
      | some _, none => s
      | some e, some region =>
        let due := match s.storedAt c x.hdr.handle x.desc.layer with
          | some q => q + 1
          | none => e.l
        if (s.extn (handleIdx x.hdr.handle)).commitDue e.l x.hdr.pos false then s
        else if x.hdr.pos ≥ e.maxlen then s.kvRange x 0
        else if x.hdr.pos ≠ due then s.kvGap x
        else
          let s := (List.range (x.desc.nx + 1)).foldl (fun s b =>
            s.kvSend x.p c x.hdr.handle x.desc.layer x.hdr.pos (region + (stateOff 1 b).1) (region + (stateOff 1 b).2) (x.x.getD b (zeroBlock true))) s
          let cl := s.cluster c
          let rest := cl.stored.filter (fun y => ¬ (y.1 = x.hdr.handle ∧ y.2.1 = x.desc.layer))
          (s.setCluster c { cl with stored := (x.hdr.handle, x.desc.layer, x.hdr.pos) :: rest }).attnUsed x)

/-- A commit makes the working copy of a state layer the committed copy (R155). -/
def State.commitState (s : State) (ts : TableSet) (c h layer : Nat) : State :=
  match s.layerRegion ts c h layer, (ts.kvLayers c).find? (fun d => d.layer = layer) with
  | some region, some d => (List.range (d.nx + 1)).foldl (fun s b =>
      let blk := s.kvRead (region + (stateOff 1 b).1) (region + (stateOff 1 b).2)
      s.kvWrite (region + (stateOff 0 b).1) (region + (stateOff 0 b).2) blk) s
  | _, _ => s

/-! ### Experts (R156–R158) -/

/-- Expert `e` is selected: its gate in the emitted gate vector is not zero (R156, R157). -/
def gateOn (q : List Block) (e : Nat) : Bool := elemMag (q.getD (e / 128) (zeroBlock true)) (e % 128) ≠ 0

/-- The gate of expert `e` (R158). -/
def gateF (q : List Block) (e : Nat) : Option F32 := elemF32 (q.getD (e / 128) (zeroBlock true)) (e % 128)

/-- DISPATCH (R157): x, exactly, to the members of the selected experts, zero blocks to the others. -/
def execDispatch (c : Nat) (s : State) : Result :=
  onCluster c (match s.attnReady c 4 with
    | none => s
    | some x =>
      if ¬ x.agree ∨ (s.attnEntry x).isNone then s.attnBad x
      else
        let n := x.desc.nx + 1
        let (bs, bad) := emitVec x.desc.ofmt ((elemsX x.x 0 (128 * n)).map some) n
        let zs := List.replicate n (zeroBlock x.desc.ofmt)
        let s := (s.attnUsed x).numOverflow x.p x.hdr.handle
          (if (List.range (x.desc.nexp + 1)).any (gateOn x.q) then bad else 0)
        (List.range (x.desc.nexp + 1)).foldl (fun s e =>
          let gr := x.desc.group + e / 64
          match (getD [] gr x.ts.groups)[e % 64]? with
          | some m => s.engEmit x.p 65 c x.d gr x.draft [m] x.hdr (if gateOn x.q e then bs else zs)
          | none => s) s)

/-- The values of a COMBINE: Σ g_e · z_e in ascending e over the selected experts (R158). -/
def combineValues (x : AttnIn) : List (Option F32) :=
  let n := x.desc.nx + 1
  let es := (List.range (x.desc.nexp + 1)).filter (gateOn x.q)
  (List.range (128 * n)).map (fun i =>
    es.foldl (fun (acc : Option F32) e =>
      match acc, gateF x.q e, elemF32 (x.x.getD (e * n + i / 128) (zeroBlock true)) (i % 128) with
      | some a, some g, some z => fmaF g z a
      | _, _, _ => none) (some (0, 0)))

/-- COMBINE (R158). -/
def execCombine (c : Nat) (s : State) : Result :=
  onCluster c (match s.attnReady c 5 with
    | none => s
    | some x =>
      if ¬ x.agree ∨ (s.attnEntry x).isNone then s.attnBad x
      else
        let (bs, bad) := emitVec x.desc.ofmt (combineValues x) (x.desc.nx + 1)
        ((s.attnUsed x).numOverflow x.p x.hdr.handle bad).attnEmit x bs)

end Sys2Proof.Machine
end

