-- ==== Sys2Proof/Machine/Image.lean ====
section
/-!
DEFINITION. The weight image in the arrays: what each cell of a row holds (R319, R320, R344, R346), programming with its
faulty columns (R318, R319), and the repairs that cover them (R347, R359, R360).
-/

namespace Sys2Proof.Machine

open Sys2Proof

/-! ### Rows -/

/-- A table of numbers that lists no zero. -/
def putZ (k v : Nat) (t : Tbl Nat) : Tbl Nat := if v = 0 then del k t else put k v t

/-- Logical row `r` of array `a` in the stack copy: data column c in bit c (R320, R321). -/
def State.logicalRow (s : State) (a r : Nat) : Nat := getD 0 r (getD [] a s.stackCopy)

/-- The data column that keeper `k` holds: the one it shadows or stands in for; none when it is OFF (R344, R360). -/
def Keeper.column (kp : Keeper) (k : Nat) : Option Nat :=
  match kp.st with
  | .off => none
  | .stand => some kp.stand
  | _ => some (k + 8 * kp.m)

/-- The target states of the 272 cells of a row: data columns, keepers, patches (R319, R344). -/
def physRow (rep : Repair) (x : Arr) (row : Nat) : Nat :=
  row % 2 ^ 256 +
    ((List.range 8).map (fun k => match (x.keeper k).column k with
      | some c => b2n (bit row c) * 2 ^ (256 + k)
      | none => 0)).sum +
    ((List.range 8).map (fun p => if bit rep.patchV p then b2n (bit row (getD 0 p rep.patchCol)) * 2 ^ (264 + p) else 0)).sum

/-- The logical row that an array's cells hold: each data column from the physical column that carries it under the repair
map (R320). -/
def logicalOf (rep : Repair) (phys : Nat) : Nat :=
  ((List.range 256).map (fun c =>
    let k := match rep.patchOf c with
      | some p => 264 + p
      | none => c
    b2n (bit phys k) * 2 ^ c)).sum

/-- Cells of one row of array `sv` are set. -/
def State.setRow (s : State) (sv r v : Nat) : State :=
  let x := s.arr sv
  s.setArr sv { x with rows := putZ r v x.rows }

/-- Array `sv` is programmed with the logical contents of array `a` from the stack copy, rows `rs` (R318, R321). -/
def State.writeRows (s : State) (a sv : Nat) (rs : List Nat) : State :=
  rs.foldl (fun s r => s.setRow sv r (physRow (s.repair sv) (s.arr sv) (s.logicalRow a r))) s

/-- A physical column whose cells would not take their states holds a free value on the rows written (R319, log 3). -/
def State.spoilColumn (s : State) (sv : Nat) (rs : List Nat) (c : Nat) : State :=
  let (n, s) := s.draw
  rs.foldl (fun s r =>
    let v := getD 0 r (s.arr sv).rows
    s.setRow sv r (v - b2n (bit v c) * 2 ^ c + b2n (bit n r) * 2 ^ c)) s

/-- The physical columns of an array that do not take their states (R319). -/
def faultyOf (bad : Faulty) (sv : Nat) : List Nat := ((bad.find? (fun x => x.1 = sv)).map (·.2)).getD []

/-- Every row of an array. -/
def allRows : List Nat := List.range 512

/-! ### What an array belongs to -/

/-- The partition whose weights the layout places on array `a` (R321, R324). -/
def State.holderOf (s : State) (a : Nat) : Option Nat :=
  (List.range 16).find? (fun p => match (s.part p).weights with
    | some w => w.entries.any (fun e => e.placed.array = a)
    | none => false)

/-- The mask of partitions with a matrix on array `a` (R347). -/
def State.holderMask (s : State) (a : Nat) : Nat :=
  ((List.range 16).map (fun p => match (s.part p).weights with
    | some w => if w.entries.any (fun e => e.placed.array = a) then 2 ^ p else 0
    | none => 0)).sum

/-- MODE.LOADED is 1 only while some partition holds committed weights (R330). -/
def State.setLoaded (s : State) : State :=
  { s with host := { s.host with loaded := s.parts.any (fun x => x.2.weights.isSome) } }

/-- The arrays that the weights of partition `p` are placed on. -/
def State.arraysOf (s : State) (p : Nat) : List Nat := (((s.part p).weights.map (·.entries)).getD []).map (·.placed.array)

/-- Slots of the stack copy read zero, and the arrays have no known sums (R321, R326). -/
def State.clearSlots (s : State) (as : List Nat) : State :=
  as.foldl (fun s a => { s.setArr a { s.arr a with sumsOk := false } with stackCopy := del a s.stackCopy, sums := del a s.sums }) s

/-- A partition loses its weights and its table set (R324, R330, R347): the stack copy's slots of its arrays read zero (R321). -/
def State.loseWeights (s : State) (p : Nat) : State :=
  let s := s.clearSlots (s.arraysOf p)
  (s.setPart p { s.part p with weights := none, table := none, beats := [], embedQ := [], draftQ := [], draftRuns := 0 }).setLoaded

/-! ### Repairs (R346, R347) -/

/-- A repair-map entry in its 16 bytes (R346). -/
def repairEntryBytes (x : Nat × Repair) : List Byte :=
  let r := x.2
  wordBytes [x.1 % 2 ^ 16 + 2 ^ 16 * (r.st % 4) + 2 ^ 18 * (r.keepOff % 256) + 2 ^ 26 * (r.faults % 16), r.patchV % 256 + 2 ^ 8 * (r.patchBad % 256)] ++
    (List.range 8).map (fun p => BitVec.ofNat 8 (getD 0 p r.patchCol))

/-- A copy of the repair map as the record store holds it (R346, R405): the header of sequence number, SHA-512 prefix over what it covers (log 129),
entry count and 4 reserved bytes, then the entries in ascending array address. -/
def MapCopy.bytes (x : MapCopy) : List Byte :=
  let es := x.map.flatMap repairEntryBytes
  let n := wordBytes [x.map.length, 0]
  leBytes 8 x.seq ++ (sha512 (leBytes 8 x.seq ++ n ++ es)).take 16 ++ n ++ es

/-- FAULTS counts one more; it holds 0–9 (R346, R347). -/
def State.countFault (s : State) (sv : Nat) : State :=
  let r := s.repair sv
  s.setRepair sv { r with faults := min 9 (r.faults + 1) }

/-- A faulty data column enters FAULTS once (R347, R372). -/
def State.judgeColumn (s : State) (sv c : Nat) : State :=
  let x := s.arr sv
  if x.judged.contains c then s
  else (s.setArr sv { x with judged := c :: x.judged }).countFault sv

/-- A keeper is disabled as faulty, and counted (R344, R347). -/
def State.keeperOff (s : State) (sv k : Nat) : State :=
  let r := s.repair sv
  if bit r.keepOff k then s
  else
    let x := s.arr sv
    let s := s.setArr sv { x with keepers := put k { x.keeper k with st := .off } x.keepers }
    (s.setRepair sv { r with keepOff := r.keepOff + 2 ^ k }).countFault sv

/-- A patch is unusable, and counted (R347). -/
def State.patchOut (s : State) (sv p : Nat) : State :=
  let r := s.repair sv
  if bit r.patchBad p then s
  else (s.setRepair sv { r with patchBad := r.patchBad + 2 ^ p,
                                patchV := r.patchV - b2n (bit r.patchV p) * 2 ^ p,
                                patchCol := del p r.patchCol }).countFault sv

/-- A usable free patch of an array (R347). -/
def Repair.freePatch (r : Repair) : Option Nat :=
  (List.range 8).find? (fun p => !bit r.patchV p && !bit r.patchBad p)

/-- ERR_SUM.REPAIR and PATCH_DONE (R360, R375). -/
def State.patchDone (s : State) (sv p c : Nat) : State :=
  (s.errSum 1).raise 0x0105 0 (s.holderOf sv) 1 sv (p + 2 ^ 8 * c)

/-- Patch `p` carries data column `c`: its cells take the column's bits (R319, R346). -/
def State.setPatch (s : State) (a sv p c : Nat) : State :=
  let r := s.repair sv
  let s := s.setRepair sv { r with patchV := r.patchV + 2 ^ p, patchCol := putZ p c r.patchCol }
  let x := s.arr sv
  s.setArr sv { x with rows := allRows.foldl (fun rows i =>
    let v := getD 0 i rows
    putZ i (v - b2n (bit v (264 + p)) * 2 ^ (264 + p) + b2n (bit (s.logicalRow a i) c) * 2 ^ (264 + p)) rows) x.rows }

/-- Data column `c` gets a patch: patches that do not take their states go to PATCH_BAD. None when the array needs a ninth
faulty column covered, when no usable patch remains, or when the map has no room (R346, R347). -/
def State.coverWithPatch (s : State) (a sv c : Nat) (bad : Faulty) : Nat → Option State
  | 0 => none
  | n + 1 =>
    if s.mapFull sv ∨ (s.repair sv).faults > 8 then none
    else match (s.repair sv).freePatch with
      | none => none
      | some p =>
        if (faultyOf bad sv).contains (264 + p) then (s.patchOut sv p).coverWithPatch a sv c bad n
        else some ((s.setPatch a sv p c).patchDone sv p c)

/-- The faulty physical columns that programming has left are covered (R319): a data column by a patch, a keeper by
disabling it, a patch by another. None when the array must be retired. -/
def State.coverAll (s : State) (a sv : Nat) (bad : Faulty) : Option State :=
  (faultyOf bad sv).foldl (fun (acc : Option State) c => acc.bind (fun s =>
    if c < 256 then
      if ((s.repair sv).patchOf c).isSome then some s else (s.judgeColumn sv c).coverWithPatch a sv c bad 9
    else if c < 264 then
      let s := s.keeperOff sv (c - 256)
      if (s.repair sv).faults > 8 then none else some s
    else if bit (s.repair sv).patchV (c - 264) then
      let d := getD 0 (c - 264) (s.repair sv).patchCol
      (s.patchOut sv (c - 264)).coverWithPatch a sv d bad 9
    else some s)) (some s)

/-- The pair reserve of array `a` serves another retired array (R343). -/
def State.reserveBusy (s : State) (a : Nat) : Bool :=
  s.repairMap.any (fun x => x.1 / 128 = a / 128 && x.1 ≠ a && x.2.st = 1)

/-- An array becomes dead: its partitions lose their weights, and their active requests end (R347). -/
def State.deadArray (s : State) (a : Nat) : State :=
  let mask := s.holderMask a
  let s := s.setRepair a { s.repair a with st := 2 }
  let s := ((s.errSum 1).errSum 8).raise 0x0107 2 none 1 a mask
  ((List.range 16).filter (bit mask)).foldl (fun s p => (s.endAll p 0 true 0x0A).loseWeights p) s

/-- An array is programmed whole from the stack copy; columns in `bad` do not take their states. -/
def State.writeArray (s : State) (a sv : Nat) (bad : Faulty) : State :=
  (faultyOf bad sv).foldl (fun s c => s.spoilColumn sv allRows c) (s.writeRows a sv allRows)

/-- An array is retired to its pair reserve, programmed from the stack copy, unless the reserve is in service, dead, or cannot be brought to
its contents (R347). The second component: the array is retired. -/
def State.tryRetire (s : State) (a : Nat) (bad : Faulty) : State × Bool :=
  let rs := pairReserve a
  if (s.repair a).st ≠ 0 ∨ isReserve a ∨ s.reserveBusy a ∨ (s.repair rs).st = 2 ∨ s.mapFull a then (s, false)
  else
    let s := (s.setRepair a { s.repair a with st := 1 }).writeArray a rs bad
    match s.coverAll a rs bad with
    | some s => ((s.errSum 1).raise 0x0106 1 (s.holderOf a) 1 a rs, true)
    | none => (s.setRepair a { s.repair a with st := 0 }, false)

/-- An array is retired, or else becomes dead (R347). The second component: the array still serves. -/
def State.retire (s : State) (a : Nat) (bad : Faulty) : State × Bool :=
  let r := s.tryRetire a bad
  if r.2 then r else (r.1.deadArray a, false)

/-- The cells of an array are programmed and repaired, on its pair reserve if need be; it is not declared dead (R318, R319, R347). -/
def State.tryProgram (s : State) (a : Nat) (bad : Faulty) : State × Bool :=
  let sv := s.servingArray a
  let s := s.writeArray a sv bad
  match s.coverAll a sv bad with
  | some s => (s, true)
  | none => s.tryRetire a bad

/-- An array is programmed, verified and repaired (R318, R319, R347); one that cannot be is dead. -/
def State.programArray (s : State) (a : Nat) (bad : Faulty) : State × Bool :=
  let r := s.tryProgram a bad
  if r.2 then r else (r.1.deadArray a, false)

/-- Data column `c` of array `a` is covered by a patch or by retiring the array (R347). -/
def State.patchOrRetire (s : State) (a c : Nat) (bad : Faulty) : State :=
  match s.coverWithPatch a (s.servingArray a) c bad 9 with
  | some s => s
  | none => (s.retire a bad).1

/-- A keeper's cells take the bits of data column `c` (R359, R361). -/
def State.writeKeeper (s : State) (a sv k c : Nat) (rs : List Nat) : State :=
  let x := s.arr sv
  s.setArr sv { x with rows := rs.foldl (fun rows i =>
    let v := getD 0 i rows
    putZ i (v - b2n (bit v (256 + k)) * 2 ^ (256 + k) + b2n (bit (s.logicalRow a i) c) * 2 ^ (256 + k)) rows) x.rows }

/-- An uncovered column of array `a` is covered (R359): by its keeper in SHADOW or ROTATE, rewritten and put in STAND, else by
a patch or by retiring the array. -/
def State.coverColumn (s : State) (a c : Nat) (bad : Faulty) : State :=
  let sv := s.servingArray a
  let x := s.arr sv
  let s := s.setArr sv { x with uncov := x.uncov.filter (· ≠ c) }
  let kp := x.keeper (c % 8)
  if kp.st = .shadow ∨ kp.st = .rotate then
    if (faultyOf bad sv).contains (256 + c % 8) then (s.keeperOff sv (c % 8)).patchOrRetire a c bad
    else
      let s := s.writeKeeper a sv (c % 8) c allRows
      let x := s.arr sv
      s.setArr sv { x with keepers := put (c % 8) { kp with st := .stand, stand := c, m := c / 8, rot := 0 } x.keepers }
  else s.patchOrRetire a c bad

/-- Every uncovered column of every array that holds weights of partition `p` is covered (R359, R366 step 4). -/
def State.coverPartition (s : State) (p : Nat) (bad : Faulty) : State :=
  match (s.part p).weights with
  | none => s
  | some w => w.entries.foldl (fun s e =>
      let a := e.placed.array
      ((s.arr (s.servingArray a)).uncov).foldl (fun s c => s.coverColumn a c bad) s) s

end Sys2Proof.Machine
end

