-- ==== Sys2Proof/Machine/Saddlebag.lean ====
section
/-!
DEFINITION. The saddlebag tier: the blocks of 4,096 bytes in which a paused request's data crosses to pooled memory (R160, R421).
-/

namespace Sys2Proof.Machine

open Sys2Proof

/-- The cache lines of a layer's committed data (R160). -/
def layerLines (d : AttnDesc) (l : Nat) : Nat :=
  if d.op = 1 then 4 * 2 ^ d.nbl * l + ceilDiv (2 * 2 ^ d.nbl * l) 64 else 2 * (d.nx + 1) + ceilDiv (d.nx + 1) 64

/-- A saddlebag block's place in the request's data on a device (R160): cluster, KV layer, and PART in the layer's data. -/
structure BagPlace where
  cluster : Nat
  layer   : AttnDesc
  part    : Nat

/-- The saddlebag blocks of a request on this device, in the order of its pool address: by cluster, layer and PART (R160). -/
def State.saddleList (s : State) (p h : Nat) : List BagPlace :=
  match (s.part p).table with
  | none => []
  | some ts => (s.extn (handleIdx h)).spans.flatMap (fun cb => (ts.kvLayers cb.1).flatMap (fun d =>
      (List.range (ceilDiv (layerLines d (s.entry (handleIdx h)).l) 63)).map (fun k => ⟨cb.1, d, k⟩)))

/-- The number of those blocks. -/
def State.saddleBlocks (s : State) (p h : Nat) : Nat := (s.saddleList p h).length

/-- Byte `i` of a layer's serialised data (R143, R154, R160): element lines, then exponent lines, then zero. -/
def State.layerByte (s : State) (d : AttnDesc) (base m l i : Nat) : Byte :=
  let (elems, exps, at_) := if d.op = 1 then (256 * 2 ^ d.nbl * l, 2 * 2 ^ d.nbl * l, 256 * 2 ^ d.nbl * m) else (128 * (d.nx + 1), d.nx + 1, 129024)
  if i < elems then Memory.readFree s.kv (base + i)
  else if i - elems < exps then Memory.readFree s.kv (base + at_ + (i - elems))
  else 0

/-- Header bytes 0–47 of a block, the NONCE with its counts among them (R160, R421). -/
def State.bagHeader (s : State) (p h : Nat) (b : BagPlace) (count : Nat) : List Byte :=
  let x := s.extn (handleIdx h)
  leBytes 4 h ++ leBytes 1 (s.girth p).gpos ++ leBytes 1 b.cluster ++ leBytes 1 b.layer.layer ++ leBytes 1 (if b.layer.op = 1 then 0 else 1) ++
    leBytes 4 b.part ++ leBytes 4 (layerLines b.layer x.lptr) ++ leBytes 4 x.lptr ++ leBytes 2 x.pepoch ++ List.replicate 10 0 ++
    leBytes 4 (s.sec.tenKeys.getD 0) ++ leBytes 8 count ++ List.replicate 4 0

/-- The 4,096 bytes of a block (R160, R421): the header with its tag, and 63 encrypted lines. -/
def State.bagBlock (s : State) (p h : Nat) (ts : TableSet) (b : BagPlace) (count : Nat) : List Byte :=
  let hdr := s.bagHeader p h b count
  let base := (s.layerRegion ts b.cluster h b.layer.layer).getD 0
  let e := s.entry (handleIdx h)
  let body := (List.range 4032).map (fun i => s.layerByte b.layer base (spanLen e.maxlen) e.l (4032 * b.part + i))
  let keys := s.sec.tenKeys.getD 0
  hdr ++ Config.bagTag keys (hdr.take 44) body ++ Config.bagCipher keys (hdr.take 44) body

/-- The blocks of a request leave for its pool address, from block 0, each with a NONCE of its own (R160, R274, R421). -/
def State.sendBlocks (s : State) (p h : Nat) : State :=
  match (s.part p).table with
  | none => s
  | some ts =>
    let x := s.extn (handleIdx h)
    (s.saddleList p h).zipIdx.foldl (fun s b =>
      { s with sec := { s.sec with wrapCnt := (s.sec.wrapCnt + 1) % 2 ^ 64 } }.emit
        (.poolWrite p h (x.pool + 4096 * b.2) (s.bagBlock p h ts b.1 s.sec.wrapCnt))) s

/-- An event of a request's saddlebag data (R294): LOC names the cluster and KV layer of block `k`. -/
def State.saddleEvent (s : State) (p h code sev k detail : Nat) : State :=
  let loc := match (s.saddleList p h)[k]? with
    | some b => b.cluster + 2 ^ 8 * b.layer.layer
    | none => 0
  s.raise code sev (some p) 3 loc detail h

/-- A block that is read back passes R163's checks: its tag, HANDLE, PEPOCH and PART. -/
def bagOk (h pepoch : Nat) (b : BagPlace) (r : Option BagRead) : Bool :=
  match r with
  | some r => r.tagOk && r.handle = h && r.pepoch = pepoch && r.part = b.part
  | none => false

end Sys2Proof.Machine
end

