-- ==== Sys2Proof/Machine/Checking.lean ====
section
/-!
DEFINITION. Checking and containment (R349–R375): repetitions and settlements of disputes, suspect windows, partition restarts,
patches, keeper rotation, cross-checks, readbacks, row programming and memory errors.
-/

namespace Sys2Proof.Machine

open Sys2Proof

/-! ### The housekeeping credit (R191, R352) -/

/-- HK_PERMILLE and HK_CHUNK in force on a cluster (R191). -/
def State.hkOf (s : State) (c : Nat) : Nat × Nat := let p := s.part (s.partOfCluster c); (p.hkPerm, p.hkChunk)

/-- The credit of cluster `c` brought up to the present tick, capped at one chunk (R191). -/
def State.accrue (s : State) (c : Nat) : State :=
  let x := s.cluster c
  let h := s.hkOf c
  let cr := min (x.credit + ((s.tick - x.creditTick) * h.1 : Nat)) (h.2 * 1000 : Nat)
  s.setCluster c { x with credit := cr, creditTick := s.tick, debt := x.debt && decide (cr < -(4000 * h.2 : Nat)) }

/-- Ticks that a number of ACLK cycles takes (R167, R431). -/
def State.cycleTicks (s : State) (n : Nat) : Nat := ceilDiv (n * 25) (max 1 s.pwr.aclk)

/-- A debit of `n` ACLK cycles from cluster `c`'s credit; HK_DEBT once per excursion below −4 · HK_CHUNK (R352). -/
def State.debit (s : State) (c n : Nat) : State :=
  let s := s.accrue c
  let x := s.cluster c
  let cr := x.credit - (1000 * s.cycleTicks n : Nat)
  let under := cr < -(4000 * (s.hkOf c).2 : Nat)
  let s' := s.setCluster c { x with credit := cr, debt := under }
  if under ∧ ¬ x.debt then
    (s'.errSum 7).raise 0x010F 1 none 3 c ((cr / 1000) % 2 ^ 64).toNat
  else s'

/-! ### Signatures (R373) -/

/-- A drive level in 2 bits, two's complement (R373, log 26). -/
def driveBits (d : Int) : Nat := (d % 4).toNat

/-- OPHASH: the first 4 bytes of SHA-512 over the 128 drive levels of a pass (R373). -/
def opHash (drive : List Int) : List Byte :=
  (sha512 (leBytes 32 (((List.range 128).map (fun i => driveBits (drive.getD i 0) * 4 ^ i)).sum))).take 4

/-- The number of a detector (R373). -/
def detNum : Detector → Nat
  | .keeper => 0 | .bound => 1 | .proof => 2 | .xcheck => 3 | .readback => 4

/-- A code as its byte. -/
def codeByte (x : Int) : Byte := BitVec.ofInt 8 x

/-- The 80 bytes of a signature (R373). -/
def sigBytes (array col kind : Nat) (hash : List Byte) (temp : Int) (calAge win plane : Nat) (exp obs ref : Byte)
    (verdict p n reps tick maddr boot : Nat) : Signature :=
  leBytes 2 array ++ leBytes 1 col ++ leBytes 1 kind ++ hash ++ [byteOf (temp % 2 ^ 16).toNat 0, byteOf (temp % 2 ^ 16).toNat 1] ++
    leBytes 4 calAge ++ leBytes 1 win ++ leBytes 1 plane ++ [exp, obs, ref] ++ leBytes 1 verdict ++ leBytes 1 p ++
    leBytes 1 n ++ leBytes 1 reps ++ leBytes 1 0 ++ leBytes 8 tick ++ leBytes 8 maddr ++ leBytes 4 boot ++
    List.replicate 36 0

/-- The failure log takes a signature; it holds the latest 256 (R374). -/
def State.sign (s : State) (g : Signature) : State :=
  { s with ev := { s.ev with sigs := (s.ev.sigs ++ [g]).drop (s.ev.sigs.length - 255)
                             cperNext := if s.ev.sigs.length ≥ 256 then s.ev.cperNext - 1 else s.ev.cperNext } }

/-- T_c: the mean of sensors 4c to 4c + 3, rounded down to 1/16 °C (R382). -/
def State.clusterTemp (s : State) (c : Nat) : Int := ((List.range 4).map (fun i => getD 0 (4 * c + i) s.hk.temps)).sum / 4

/-- The signature of a verdict on physical column `phys` of a dispute (R373). -/
def State.verdictSig (s : State) (t : Nat) (d : Dispute) (phys : Nat) (exp obs : Int) (ref : Option Int) (verdict : Nat) :
    Signature :=
  let addr := arrayAddr t d.array
  let live := d.det = .keeper ∨ d.det = .bound
  sigBytes addr (if phys < 256 then phys else phys - 256)
    ((if phys < 256 then 0 else if phys < 264 then 1 else 2) + 4 * detNum d.det)
    (if live ∧ s.host.conf then List.replicate 4 0 else opHash d.pass.drive)
    (s.clusterTemp (t / 64)) (min ((s.tick - s.calTick (s.servingArray addr)) / 25000) (2 ^ 32 - 1))
    ((if d.pass.wkind = 2 then 2 * d.pass.widx else d.pass.widx) % 4 + (if d.pass.wkind = 1 then 4 + 8 * d.pass.h else 0))
    d.pass.plane (codeByte exp) (codeByte obs)
    (match ref with
      | some r => codeByte r
      | none => 0x80)
    verdict (countP d.pass.drive) (countN d.pass.drive) d.reps.length s.tick 0 s.store.bootSer

/-! ### Suspect windows (R363, R364) -/

/-- SUSPECT_WINDOW and one SUSPECT_HANDLE for each handle of the partition's step log in the window from `t0` (R364). -/
def State.suspect (s : State) (a t0 : Nat) : State :=
  match s.holderOf a with
  | none => s
  | some p =>
    let log := (s.part p).stepLog
    let len := s.tick - t0
    let age (k : Nat) := (s.tick + 2 ^ 32 - k) % 2 ^ 32
    let inside := log.filter (fun e => age e.2 ≤ len)
    let hs := (inside.map (·.1)).eraseDups
    let short := match log with
      | e :: _ => decide (age e.2 < len)
      | [] => false
    let lost := match (s.part p).logLost with
      | some k => decide (t0 ≤ k)
      | none => false
    let s := (s.errSum 2).raise 0x0108 2 (some p) 1 a
      (t0 % 2 ^ 32 + 2 ^ 32 * (min hs.length (2 ^ 16 - 1)) + 2 ^ 48 * b2n short + 2 ^ 49 * b2n lost)
    hs.foldl (fun s h =>
      let last := ((inside.reverse.find? (fun e => e.1 = h)).map (·.2)).getD 0
      s.raise 0x0109 2 (some p) 1 a last h) s

/-- The tick of the last clean proof of array `a` over a basic window, 0 where there has been none (R364). -/
def State.cleanTick (s : State) (a k : Nat) : Nat := getD 0 k (s.arr a).clean

/-! ### Repetitions (R349–R351) -/

/-- The codes of a repetition that a dispute judges: logical data columns, keeper and patch columns by their number, and data columns that
another column serves as 272 + their number. -/
def State.disputeCode (s : State) (addr : Nat) (codes : List Int) (c : Nat) : Int :=
  if c < 256 then s.dataCode addr codes c else codes.getD (if c < 272 then c else c - 272) 0

/-- What a disputed column is expected to show in a proof or a cross-check. -/
def Dispute.expected (d : Dispute) (c : Nat) : Int := ((d.expect.find? (fun x => x.1 = c)).map (·.2)).getD 0

/-- Whether the last repetition of a dispute is clean (R349 step 2, R354, R356). -/
def State.repClean (s : State) (addr : Nat) (d : Dispute) : Bool :=
  match d.reps.reverse with
  | [] => false
  | cur :: prev =>
    d.cols.all (fun c =>
      let v := s.disputeCode addr cur c
      match d.det with
      | .proof | .xcheck => v == d.expected c
      | _ =>
        inBound d.pass.drive v &&
          (match s.shadowCode addr cur c with
            | some k => k == v
            | none => match prev with
              | q :: _ => s.disputeCode addr q c == v
              | [] => false))

/-- Codes that replace the first ones are added into the WR of every channel that holds a disputed column (R350). D_orig is the code that
the pass gave first, by the columns that served then. -/
def State.correctWr (s : State) (t : Nat) (d : Dispute) (new : Nat → Int) (cols : List Nat) : State :=
  let x := s.tile t
  let key := wrKey d.array d.pass.wr
  let w : Wr := getD Wr.empty key x.wrs
  let chans : List ColChan := getD [] d.array x.colMaps
  let orig := getD [] d.array d.pass.codes
  let vals := (List.range chans.length).map (fun i =>
    match (chans[i]? : Option ColChan) with
    | none => 0
    | some ch => w.vals.getD i 0 +
        ((cols.filter (fun c => ch.base ≤ c && c < ch.base + ch.width)).map (fun c =>
          columnFactor ch.width d.pass.plane (c - ch.base) * (new c - d.pass.code orig c))).sum)
  s.setTile t { x with wrs := put key { w with vals } x.wrs }

/-- The first dispute of tile `t` with a given permanence leaves; its WR is marked checked when none of its disputes is left
(R350, R351). A proof or a cross-check ends with its last dispute. -/
def State.dropDispute (s : State) (t : Nat) (d : Dispute) (rest : List Dispute) : State :=
  let x := s.tile t
  let addr := arrayAddr t d.array
  let s := s.setTile t { x with disputes := rest }
  let more := rest.any (fun e => e.array = d.array && e.det = d.det)
  match d.det with
  | .proof =>
    if more then s
    else
      let a := s.arr addr
      if a.dirty then
        { s.setArr addr { a with proofs := a.proofs + 1, proofTick := s.tick, dirty := false,
                                 overdue := a.overdue.filter (· ≠ 0) } with
          ev := { s.ev with proofs := satAdd 32 s.ev.proofs 1 } }
      else s.proofClean addr d.pass.widx
  | .xcheck =>
    if more then s
    else
      let a := s.arr addr
      { s.setArr addr { a with xTick := s.tick, overdue := a.overdue.filter (· ≠ 1) } with
        ev := { s.ev with xchecks := satAdd 32 s.ev.xchecks 1 } }
  | _ =>
    let key := wrKey d.array d.pass.wr
    if rest.any (fun e => e.array = d.array && e.pass.wr = d.pass.wr && (e.det = .keeper || e.det = .bound)) then s
    else
      let y := s.tile t
      s.setTile t { y with wrs := put key { getD Wr.empty key y.wrs with checked := true } y.wrs }

/-- ACLK cycles of a dispute that ends with repetition `r` (R38, R79, R349, R350): 8 to issue, 128 between repetitions, 136 and
the array's stagger to the codes, and 2 to the WR marked checked. -/
def disputeCycles (a r : Nat) : Nat := 8 + 128 * (r - 1) + 136 + 16 * (a % 8) + 2

/-- A dispute is transient (R349, R350, R354): the WR is corrected with the clean codes, and the events are raised. -/
def State.transient (s : State) (t : Nat) (d : Dispute) (rest : List Dispute) : State :=
  let addr := arrayAddr t d.array
  let cur := d.reps.getLast?.getD []
  let s := { s with ev := { s.ev with transient := satAdd 32 s.ev.transient 1 } }
  let live := d.det = .keeper ∨ d.det = .bound
  let s := if live then s.correctWr t d (s.dataCode addr cur) (d.cols.filter (· < 256)) else s
  let s := d.cols.foldl (fun s c =>
    match d.det with
    | .proof => s.raise 0x0101 0 (s.holderOf addr) 1 addr c
    | .xcheck | .readback => s
    | _ => s.raise 0x0100 1 (s.holderOf addr) 1 addr (c % 256 + 2 ^ 8 * (c % 8)) (s.tile t |>.handleOf d.pass.run)) s
  ((s.dropDispute t d rest).debit (t / 64) (disputeCycles d.array d.reps.length)).settle t

/-- The codes that a cross-check expects: those of the pair reserve driven with the same block, or, where the reserve serves a
retired array, the exact sums (R355, R356). -/
def State.xExpect (s : State) (addr base : Nat) (drive : List Int) (err : Analog) (cols : List Nat) : List (Nat × Int) :=
  let rs := pairReserve addr
  if (s.repair addr).st = 1 ∨ s.reserveBusy addr then cols.map (fun c => (c, s.refSum addr base drive c))
  else
    let codes := s.passCodes rs base drive err
    cols.map (fun c => (c, s.dataCode rs codes c))

/-- DISPUTE_REPETITION (R349): the codes of the next repetition of the tile's first open dispute arrive and are judged. The
first clean one settles it as transient; after two that are not clean it is permanent. A tile settles its disputes one pass at a time, in
order: while its first dispute waits for the reference path, no other is repeated. -/
def execDisputeRepetition (t : Nat) (err : Analog) (s : State) : Result :=
  onTile t (
    let x := s.tile t
    match x.disputes with
    | [] => s
    | d :: rest =>
      if ¬ s.runs (s.partOfTile t) ∨ d.perm then s
      else
        let addr := arrayAddr t d.array
        let codes := s.passCodes addr d.pass.base d.pass.drive err
        let d := { d with reps := d.reps ++ [codes]
                          expect := if d.det = .xcheck then s.xExpect addr d.pass.base d.pass.drive err d.cols else d.expect }
        if s.repClean addr d then s.transient t d rest
        else s.setTile t { x with disputes := { d with perm := d.reps.length ≥ 2 } :: rest })

/-! ### Settlement (R357–R359) -/

/-- What one verdict of R358 does: keeper, data column, known sum, reserve. -/
structure Verdict where
  keeper  : Option Nat := none
  column  : Bool := false
  covered : Bool := false
  sumBad  : Bool := false
  reserve : Bool := false
  correct : Bool := false
  code    : Option Nat := none
  deriving DecidableEq, Repr

/-- The verdict on one disputed column (R358). A BOUND flag on a column that serves no data column finds that column faulty: a keeper, or a
patch column; one already known faulty counts for nothing more. -/
def State.judge (s : State) (t : Nat) (d : Dispute) (c : Nat) : Verdict :=
  let addr := arrayAddr t d.array
  let sv := s.arr (s.servingArray addr)
  let cur := d.reps.getLast?.getD []
  let dc := if c < 256 then c else (c - 256) + 8 * (sv.keeper (c - 256)).m
  let ref := s.refSum addr d.pass.base d.pass.drive dc
  let av := s.disputeCode addr cur c
  if c ≥ 256 ∧ (d.det = .keeper ∨ d.det = .bound) then
    if c < 264 ∧ (sv.keeper (c - 256)).st ≠ .off then { keeper := some (c - 256), code := some 1 }
    else if 264 ≤ c ∧ c < 272 ∧ ¬ bit (s.repair (s.servingArray addr)).patchBad (c - 264) then { column := true, code := some 2 }
    else {}
  else match d.det with
  | .proof =>
    let e := d.expected c
    if c ≥ 256 then
      if ref = e ∧ ref ≠ av then { keeper := some (c - 256), code := some 1 }
      else if ref = av ∧ ref ≠ e then { sumBad := true, code := some 4 }
      else if ref ≠ av then { keeper := some (c - 256), sumBad := true, code := some 3 }
      else {}
    else if ref = av ∧ ref = e then {}
    else if ref = av then { sumBad := true, code := some 4 }
    else if ref = e then { column := true, code := some 2 }
    else { column := true, sumBad := true, code := some 3 }
  | .xcheck =>
    let e := d.expected c
    if ref = av ∧ ref = e then {}
    else if ref = av then { reserve := true, code := some 5 }
    else if ref = e then { column := true, code := some 2 }
    else { column := true, reserve := true, code := some 3 }
  | _ =>
    match s.shadowCode addr cur c with
    | some kv =>
      let k := c % 8
      if ref = av ∧ ref = kv then { correct := true }
      else if ref = av then { keeper := some k, code := some 1 }
      else if ref = kv then { column := true, covered := true, correct := true, code := some 2 }
      else { keeper := some k, column := true, correct := true, code := some 3 }
    | none => match sv.standFor c with
      | some k => { keeper := some k, column := true, correct := true, code := some 1 }
      | none =>
        if inBound d.pass.drive (d.pass.code (getD [] d.array d.pass.codes) c) ∧ ref = av then { correct := true }
        else { column := true, correct := true, code := some 2 }

/-- A keeper is found faulty (R358). -/
def State.keeperFault (s : State) (a k : Nat) : State :=
  let sv := s.servingArray a
  ((s.keeperOff sv k).errSum 0).raise 0x0103 1 (s.holderOf a) 1 a k

/-- A data column is found faulty (R358, R372): a patch that carries it goes to PATCH_BAD; its keeper stands in for it, or it is
uncovered. -/
def State.columnFault (s : State) (a c det : Nat) (covered : Bool) : State :=
  let sv := s.servingArray a
  let s := match (s.repair sv).patchOf c with
    | some p => s.patchOut sv p
    | none => s.judgeColumn sv c
  let s := (s.errSum 0).raise 0x0102 1 (s.holderOf a) 1 a (c + 2 ^ 8 * det + 2 ^ 11 * b2n covered)
  let x := s.arr sv
  if covered then
    s.setArr sv { x with keepers := put (c % 8) { x.keeper (c % 8) with st := .stand, stand := c } x.keepers }
  else if x.uncov.contains c then s
  else s.setArr sv { x with uncov := x.uncov ++ [c] }

/-- An array with weights and an uncovered column is a fault inside its partition (R359). A partition that is stopped already
covers the column at its restart (R366 step 4). -/
def State.uncovered (s : State) (a : Nat) : State :=
  match s.holderOf a with
  | none => s
  | some p =>
    if (s.arr (s.servingArray a)).uncov.isEmpty ∨ (s.part p).restarting.isSome then s else s.partFault p 5 1 a

/-- The known sums of an array are to be formed again (R326, R358). -/
def State.dropSums (s : State) (a : Nat) : State := s.setArr a { s.arr a with sumsOk := false }

/-- The action of one verdict (R358). -/
def State.act1 (s : State) (t : Nat) (d : Dispute) (c : Nat) (v : Verdict) : State :=
  let addr := arrayAddr t d.array
  let cur := d.reps.getLast?.getD []
  let sv := s.arr (s.servingArray addr)
  let kp := (c % 256) % 8
  let exp := match d.det with
    | .proof | .xcheck => d.expected c
    | _ => cur.getD (256 + kp) 0
  let dc := if c < 256 then c else (c - 256) + 8 * (sv.keeper (c - 256)).m
  let ref := s.refSum addr d.pass.base d.pass.drive dc
  let phys := match v.keeper with
    | some k => if v.column then codeColumn sv (s.repair (s.servingArray addr)) c else 256 + k
    | none => if c < 256 then codeColumn sv (s.repair (s.servingArray addr)) c else c
  let s := match v.code with
    | some n => s.sign (s.verdictSig t d phys exp (s.disputeCode addr cur c) (some ref) n)
    | none => s
  let s := if v.correct ∧ (d.det = .keeper ∨ d.det = .bound) then
      s.correctWr t d (fun _ => ref) [c] else s
  let s := match v.keeper with
    | some k => s.keeperFault addr k
    | none => s
  let s := if ¬ v.column then s
    else if c < 256 then s.columnFault addr c (detNum d.det) v.covered
    else (((s.patchOut (s.servingArray addr) (c - 264)).errSum 0).raise 0x0102 1 (s.holderOf addr) 1 addr (c % 256 + 2 ^ 8 * detNum d.det))
  let s := if v.sumBad then
      (s.dropSums addr).raise 0x0104 1 (s.holderOf addr) 1 addr (d.pass.widx % 4 + 4 * d.pass.plane) else s
  let s := if v.reserve then (s.errSum 0).judgeColumn (pairReserve addr) c else s
  if v.column ∧ (d.det = .proof ∨ d.det = .xcheck) then s.suspect addr (s.cleanTick addr (d.pass.base / 128)) else s

/-- SETTLEMENT (R357, R358): the reference path's sums decide the tile's first permanent dispute. The time of the settlement, at
most 1,600 cycles, is a free value (log 3). -/
def execSettlement (t : Nat) (s : State) : Result :=
  onTile t (
    let x := s.tile t
    match x.disputes with
    | [] => s
    | d :: post =>
      if ¬ s.runs (s.partOfTile t) ∨ ¬ d.perm then s
      else
        let addr := arrayAddr t d.array
        let vs := d.cols.map (fun c => (c, s.judge t d c))
        let (n, s) := s.draw
        let s := { s with ev := { s.ev with settled := satAdd 32 s.ev.settled 1 } }
        let s := if d.det = .proof then s.setArr addr { s.arr addr with dirty := true } else s
        let s := vs.foldl (fun s y => s.act1 t d y.1 y.2) s
        let s := (s.dropDispute t d post).debit (t / 64) (disputeCycles d.array 2 + n % 1601 + 2)
        (s.uncovered addr).settle t)

/-! ### The housekeeping sequence (R93, R194) -/

/-- Tile `t` stands in its housekeeping sequence before the device's own operation `act` on array `a` (R93): 1 a cross-check, 2 a calibration
step, 3 a readback, 4 a patch, 5 a rotation step. -/
def State.inSequence (s : State) (t act a : Nat) : Bool :=
  (s.tile t).kind = .hk && (s.tile t).at_ = 3968 && (s.tile t).hkAct = some (act, a) && s.runs (s.partOfTile t)

/-- The sequence goes on to its BEAT_END (R93). -/
def State.sequenceOn (s : State) (t : Nat) : State := (s.moveTo t 3969).settle t

/-! ### Patches and rotation (R360, R361) -/

/-- PATCH_DONE (R360): in the housekeeping sequence, a patch for a column that a keeper stands in for verifies; the keeper returns to
SHADOW. -/
def execPatchDone (array column : Nat) (bad : Faulty) (s : State) : Result :=
  onArray array (
    let sv := s.servingArray array
    if ¬ s.inSequence (array / 64) 4 array ∨ s.inPass sv then s
    else match (s.arr sv).standFor column with
    | none => s
    | some k =>
      let s := s.patchOrRetire array column bad
      let x := s.arr sv
      let kp := x.keeper k
      let s := s.setArr sv { x with keepers := put k { kp with st := .shadow, stand := 0, passes := 0, since := s.tick } x.keepers }
      (s.writeKeeper array sv k (k + 8 * kp.m) allRows).sequenceOn (array / 64))

/-- Keeper `k` of array `sv` is due for its rotation, or in it (R361). -/
def State.rotationDue (s : State) (sv k : Nat) : Bool :=
  let x := s.arr sv
  let kp := x.keeper k
  decide (kp.st = .rotate) || (decide (kp.st = .shadow ∧ kp.passes ≥ 1024 ∧ s.tick - kp.since ≥ 250000000) &&
    !(List.range 8).any (fun j => (x.keeper j).st = .rotate))

/-- KEEPER_ROTATION (R361): in the housekeeping sequence, a due keeper goes to ROTATE, and its cells take the next data column in steps of 16
rows; with the last step m advances and it shadows again. -/
def execKeeperRotation (array k : Nat) (s : State) : Result :=
  guardUnit (array < 65536 && k < 8) (
    let sv := s.servingArray array
    let x := s.arr sv
    let kp := x.keeper k
    if ¬ s.inSequence (array / 64) 5 array ∨ s.inPass sv ∨ ¬ s.rotationDue sv k then s
    else
      let m := (kp.m + 1) % 32
      let s := s.writeKeeper array sv k (k + 8 * m) ((List.range 16).map (kp.rot + ·))
      let x := s.arr sv
      let kp := if kp.rot + 16 ≥ 512 then { kp with st := .shadow, m, rot := 0, passes := 0, since := s.tick }
        else { kp with st := .rotate, rot := kp.rot + 16 }
      (s.setArr sv { x with keepers := put k kp x.keepers }).sequenceOn (array / 64))

/-! ### Cross-checks (R355, R356) -/

/-- The random draws of a cross-check as one number (log 27): the basic window, then 16 distinct rows, each with sign and
magnitude 1–127. -/
def xDraw (seed : Nat) : Nat × List (Nat × Int) :=
  let pick := (List.range 16).foldl (fun (acc : Nat × List Nat × List (Nat × Int)) _ =>
    let (n, free, out) := acc
    let r := free.getD (n % free.length) 0
    let n := n / free.length
    let m : Int := (n / 2 % 127 + 1 : Nat)
    (n / 254, free.filter (· ≠ r), out ++ [(r, if n % 2 = 1 then -m else m)])) (seed / 4, List.range 128, [])
  (seed % 4, pick.2.2)

/-- The cross-check block: N8, E8 = 0x7F, 16 nonzero elements (R355). -/
def xBlock (draws : List (Nat × Int)) : Block :=
  { zeroBlock true with
    e8 := 0x7F
    elems := (List.range 128).map (fun i => elemByte (((draws.find? (fun x => x.1 = i)).map (·.2)).getD 0)) }

/-- One cross-check of array `a` with the draws of `seed` (R355): the reserve's driven rows are written, planes 0–6 are driven,
and the data columns compared. -/
def State.crossCheck (s : State) (a seed : Nat) (err : Analog) : State :=
  let (k, draws) := xDraw seed
  let b := xBlock draws
  let rs := pairReserve a
  let busy := (s.repair a).st = 1 ∨ s.reserveBusy a
  let s := if busy then s else s.writeRows a rs (draws.map (fun x => 128 * k + x.1))
  let t := a / 64
  let ds : List Dispute := (List.range 7).filterMap (fun j =>
    let d := blockDrive b j
    if zeroFlag d then none
    else
      let codes := s.passCodes a (128 * k) d err
      let ex := s.xExpect a (128 * k) d err (List.range 256)
      let cols := (List.range 256).filter (fun c => s.dataCode a codes c ≠ ((ex.getD c (0, 0)).2))
      if cols.isEmpty then none
      else
        let pr : PassRec := { run := (s.tile t).runs, wkind := 0, widx := k, h := 0, plane := j, iblk := 64, wr := 4, arrays := [],
                              base := 128 * k, drive := d, e8 := 0x7F, codes := [] }
        some { det := .xcheck, array := a % 64, cols := cols, pass := s.withCodes pr a codes,
               expect := cols.map (fun c => ex.getD c (0, 0)), reps := [], perm := false, injected := false })
  let s := { s with ev := { s.ev with xcheckNo := s.ev.xcheckNo + 1 } }
  if ds.isEmpty then
    let x := s.arr a
    { s.setArr a { x with xTick := s.tick, overdue := x.overdue.filter (· ≠ 1) } with
      ev := { s.ev with xchecks := satAdd 32 s.ev.xchecks 1 } }
  else
    let y := s.tile t
    s.setTile t { y with disputes := y.disputes ++ ds }

/-- An array that a cross-check may take: a main array with known sums, calibrated with its pair's reserve, and neither programming rows
(R29, R326, R355, R398). -/
def State.xcheckOk (s : State) (a : Nat) : Bool :=
  !isReserve a && !isTracing a && (s.arr a).sumsOk && s.calOk (s.servingArray a) && s.calOk (pairReserve a) &&
    (s.arr (s.servingArray a)).prog.isNone && (s.arr (pairReserve a)).prog.isNone

/-- CROSS_CHECK (R93, R355, R356): in the housekeeping sequence of the array's tile. -/
def execCrossCheck (array seed : Nat) (err : Analog) (s : State) : Result :=
  onArray array (
    if ¬ s.inSequence (array / 64) 1 array then s
    else (if s.xcheckOk array then s.crossCheck array seed err else s).sequenceOn (array / 64))

/-! ### Readback (R327, R328) -/

/-- Cells whose stored bit has flipped: row and physical column. -/
def State.driftCells (s : State) (sv : Nat) (drift : List (Nat × Nat)) : State :=
  drift.foldl (fun s x =>
    let v := getD 0 x.1 (s.arr sv).rows
    s.setRow sv x.1 (if bit v x.2 then v - 2 ^ x.2 else v + 2 ^ x.2)) s

/-- The logical row `r` of array `a` as a readback finds it (R327). -/
def State.readRow (s : State) (a r : Nat) : Nat :=
  let sv := s.servingArray a
  logicalOf (s.repair sv) (getD 0 r (s.arr sv).rows)

/-- A periodic readback of array `a` against the stack copy (R328). -/
def State.readback (s : State) (a : Nat) (bad : Faulty) : State :=
  let rows := allRows.filter (fun r => s.readRow a r ≠ s.logicalRow a r % 2 ^ 256)
  let x := s.arr a
  if rows.isEmpty then
    s.setArr a { x with readTick := s.tick, overdue := x.overdue.filter (· ≠ 3), pb := (x.pb + 1) % 64, sumsOk := false }
  else
    let cols := (List.range 256).filter (fun c => rows.any (fun r => bit (s.readRow a r) c ≠ bit (s.logicalRow a r) c))
    let t0 := ((rows.map (· / 128)).eraseDups.map (s.cleanTick a)).foldl min s.tick
    let sv := s.servingArray a
    let s := (faultyOf bad sv).foldl (fun s c => s.spoilColumn sv rows c) (s.writeRows a sv rows)
    let s := cols.foldl (fun s c =>
      let y := s.arr sv
      let d : Dispute := { det := .readback, array := a % 64, cols := [c], expect := [], reps := [], perm := true, injected := false
                           pass := { run := 0, wkind := 0, widx := 0, h := 0, plane := 0, iblk := 0, wr := 0, arrays := [],
                                     base := 0, drive := [1], e8 := 0, codes := [] } }
      let phys := codeColumn y (s.repair sv) c
      ((s.sign (s.verdictSig (a / 64) d phys 0 0 none 2)).errSum 0).raise 0x0102 1 (s.holderOf a) 1 a
        (c + 2 ^ 8 * 4 + 2 ^ 11)) s
    let s := s.suspect a t0
    let s := match s.coverAll a sv bad with
      | some s => s
      | none => (s.retire a bad).1
    let x := s.arr a
    s.setArr a { x with readTick := s.tick, overdue := x.overdue.filter (· ≠ 3) }

/-- PERIODIC_READBACK (R93, R327, R328): cells that have drifted are found, reported and reprogrammed, in the housekeeping sequence of the
array's tile, between runs. The steps of 16 rows that a readback takes are one step here (log 131). -/
def execPeriodicReadback (array : Nat) (drift : List (Nat × Nat)) (bad : Faulty) (s : State) : Result :=
  onArray array (
    let s' := s.driftCells (s.servingArray array) drift
    if ¬ s'.inSequence (array / 64) 3 array ∨ s'.inPass (s'.servingArray array) then s'
    else (if (s'.holderOf array).isNone ∨ ¬ (s'.arr array).sumsOk then s' else s'.readback array bad).sequenceOn (array / 64))

/-! ### Row programming (R318, R319, R478) -/

/-- ROW_PROGRAM_ATTEMPT (R318): one attempt on a row of an array that holds weights; the columns in `diff` have not taken their
states. A row takes at most four attempts, and what still differs then is a faulty column (R319). While ACLK is stopped no
attempt completes (R478); one array per tile and 64 in the device program at a time; none while a pass of the array is in flight (R29). -/
def execRowProgramAttempt (a : Attempt) (s : State) : Result :=
  guardUnit (a.array < 65536 && a.row < 512) (
    let sv := s.servingArray a.array
    let busy := s.arrays.filter (fun x => x.2.prog.isSome && x.1 ≠ sv)
    let others := s.arrays.any (fun x => x.2.prog.isSome && x.1 ≠ sv && x.1 / 64 = sv / 64)
    let n := match (s.arr sv).prog with
      | some (r, n) => if r = a.row then n else 4
      | none => 0
    if ¬ s.awake ∨ ¬ s.calOk sv ∨ (s.holderOf a.array).isNone ∨ others ∨ busy.length ≥ 64 ∨ n ≥ 4 ∨ s.inPass sv then s
    else
      let v := physRow (s.repair sv) (s.arr sv) (s.logicalRow a.array a.row)
      let v := (a.diff.eraseDups.filter (· < 272)).foldl (fun v c => if bit v c then v - 2 ^ c else v + 2 ^ c) v
      let s := s.setRow sv a.row v
      let x := s.arr sv
      if a.diff.isEmpty then s.setArr sv { x with prog := none }
      else if n < 3 then s.setArr sv { x with prog := some (a.row, n + 1) }
      else
        let s := s.setArr sv { x with prog := none }
        match s.coverAll a.array sv [(sv, a.diff)] with
        | some s => s
        | none => (s.retire a.array [(sv, a.diff)]).1)

/-! ### Partition restart (R96, R366) -/

/-- A tile after its partition's restart (R96). -/
def Tile.restart (x : Tile) (entry : Nat) : Tile :=
  { x with
    at_ := entry, kind := .main, hkAct := none, runs := 0, drafts := 0, seq := 0, inBuf := [], wrs := [], slots := [], outBuf := [], fb := false,
    resv := [], tallyQ := [], skiveQ := [], sendQ := [], kcmpQ := [], inlayQ := [], flight := [], trace := [], hdrs := [], disputes := [] }

/-- A cluster's engines after a partition restart (R132, R366): reservations closed, queues empty. -/
def Cluster.restart (x : Cluster) : Cluster :=
  { x with burn := [], attn := [], logit := [], burnBank := [], attnBank := [], logitBank := [], burnQ := [], attnQ := [],
           inlayQ := [], wrote := [], stored := [], chunk := false }

/-- The tiles and engines of partition `p` are taken back to their entry stitches, and proofs in progress are dropped (R96, R354, R366 step 2). -/
def State.resetUnits (s : State) (p : Nat) : State :=
  let q := s.part p
  let s := q.tileList.foldl (fun s t => s.setTile t ((s.tile t).restart (s.progOf t).entry)) s
  let s := q.clusterList.foldl (fun s c => s.setCluster c (s.cluster c).restart) s
  let s := s.setRing p { s.ring p with tqWait := [] }
  let s : State := { s with arrays := s.arrays.map (fun x => (x.1, if q.clusterList.contains (x.1 / 4096) then { x.2 with dirty := false } else x.2)) }
  s.setPart p { s.part p with beats := [], embedQ := [], draftQ := [], draftRuns := 0, egress := [], atIngress := [], edgeGranted := [], gathered := [] }

/-- Partition `p`'s messages and KV writes on the fabric are abandoned (R259, R260). -/
def State.dropCopies (s : State) (p : Nat) : State :=
  { s with fabric := s.fabric.filter (fun (c : Copy) => c.part != p), kvWr := s.kvWr.filter (fun w => w.part != p) }.meshPrune

/-- Pause migrations of partition `p` start again from block 0, with fresh nonces, after a restart (R372, R421). -/
def State.remigrate (s : State) (p : Nat) : State :=
  (s.handlesOf p (fun e => e.st = .paused)).foldl (fun s h =>
    if (s.extn (handleIdx h)).migrating then s.sendBlocks p h else s) s

/-- The number of a cause in PART_RESTART (R375). -/
def causeNo : PartFault → Nat
  | .tallyEref => 1 | .hdrMismatch => 2 | .bankRange => 3 | .stitchParity => 4 | .columnUncovered => 5 | .fabric => 6
  | .kvGap => 7 | .girthRestart => 8

/-- In a girth, a member's restart goes to the pommel, and the pommel's goes to every member with a new girth epoch
(R258, R366 step 3). -/
def State.announceRestart (s : State) (p cause : Nat) : State :=
  let g := s.girth p
  if g.record.isNone ∨ cause = 8 ∨ g.st ≠ .running then s
  else if s.isPommel p then
    let e := (g.epoch + 1) % 16
    (s.setGirth p { g with epoch := e }).rein p (.restart e false)
  else (s.setGirth p { g with restartSent := true }).reinUp p (.restart g.epoch false)

/-- The restart of partition `p` for a cause (R366, steps 1–5). -/
def State.restartPart (s : State) (p cause lkind loc : Nat) (bad : Faulty) : State :=
  let s := (s.errSum 3).raise 0x010A 2 (some p) lkind loc cause
  let s := s.flushAborts p
  let s := s.resetUnits p
  let q := s.part p
  let s := s.setPart p { q with
    epoch := (q.epoch + 1) % 16, restarts := satAdd 32 q.restarts 1, restarting := none }
  let s := s.announceRestart p cause
  let s := s.coverPartition p bad
  let s := if (s.girth p).record.isSome then s.rein p .ready else s
  let s := (((s.restartAll p).abandonBeats p).remigrate p).errDone
  (s.part p).tileList.foldl (fun s t => s.settle t) s

/-- PARTITION_RESTART (R366): the restart of a fault that has been raised, or of a parity error, which raises itself here
(R365). While the girth is HELD the columns are covered, and the restart waits for release (R268, R372). -/
def execPartitionRestart (p : Nat) (f : PartFault) (bad : Faulty) (s : State) : Result :=
  onPart p (
    let s := if (s.part p).restarting.isNone ∧ f = .stitchParity ∧ s.awake ∧ (s.part p).defined then s.partFault p 4 0 0 else s
    match (s.part p).restarting with
    | none => s
    | some (cause, lkind, loc) =>
      if ¬ s.awake then s
      else if (s.girth p).st = .held then
        (s.coverPartition p bad).setGirth p { s.girth p with restartPend := true }
      else s.restartPart p cause lkind loc bad)

/-! ### Memory errors (R109, R367) -/

/-- The signature of a memory error (R373). -/
def State.memSig (s : State) (loc : Nat) : Signature :=
  sigBytes 0xFFFF 0 (3 + 4 * 5) (List.replicate 4 0) 0 0 0 0 0 0 0x80 0 0 0 0 s.tick loc s.store.bootSer

/-- The cause of the chip reset that an error site leads to (RESET_CAUSE), and its number in MEM_UE (R375). -/
def ueNo : UeSite → Nat
  | .slice => 0 | .stack => 1 | .recordStore => 2 | .processor => 3

/-- The ledger index that an on-die address lies in (R103, R105, R106). -/
def ledgerIndexAt (loc : Nat) : Option Nat :=
  let off := loc % 2 ^ 21
  if off < 0x10000 then some (loc / 2 ^ 27 % 16 * 2 ^ 16 + loc / 2 ^ 21 % 64 * 2 ^ 10 + off / 64) else none

/-- MEM_UE (R367, R368): an uncorrectable error leads to a chip reset; one in a ledger entry also ends that request (R170). -/
def execMemUe (site : UeSite) (loc : Nat) (s : State) : Result :=
  if s.pwr.st = .off ∨ s.pwr.st = .dormant ∨ s.ev.halted ∨ s.ev.resetDue.isSome then .next s
  else
    let s := (s.raise 0x010C 3 none (if site = .slice then 2 else 3) loc (ueNo site)).sign (s.memSig loc)
    let s := match site, ledgerIndexAt loc with
      | .slice, some i =>
        if (s.entry i).st.active then s.abortHere (s.entry i).part (mkHandle i (s.entry i).gen) else s
      | _, _ => s
    .next ((s.errPush 3).dueReset (ueNo site + 1) loc)

/-- MEM_CE (R109): a corrected error is counted and reported. An armed CE injection is spent (CHK_INJECT). -/
def execMemCe (loc syndrome : Nat) (s : State) : Result :=
  if s.pwr.st = .off ∨ s.pwr.st = .dormant ∨ s.ev.halted then .next s
  else
    let s := { s with ev := { s.ev with ce := satAdd 32 s.ev.ce 1, injCe := none } }
    .next (((s.errSum 5).raise 0x010B 1 none 2 loc syndrome).sign (s.memSig loc) |>.errPush 1)

/-- KNOWN_SUMS_COMPUTED (R326): the known sums of an array that holds weights come to exist in its part of the area. `wrong` lists bytes that
hold another value than the reference path formed, as offset and value: R358 has a verdict for them (KNOWN_SUM_BAD). -/
def execKnownSumsComputed (array : Nat) (wrong : List (Nat × Int)) (s : State) : Result :=
  onArray array (
    if ¬ s.awake ∨ (s.holderOf array).isNone then s else s.formSums array wrong)

end Sys2Proof.Machine
end

