-- ==== Sys2Proof/Machine/Power.lean ====
section
/-!
DEFINITION. Clocks, the power cap, the brake and the light power states (R430–R446): ACLK requests, braking, REST and gating.
-/

namespace Sys2Proof.Machine

open Sys2Proof

/-! ### The brake (R441–R444) -/

/-- A_BRK: the largest multiple of 25 MHz from 100 to 800 with 40 + 510 · A_BRK / 800 ≤ BRAKE_W; 0 when there is none (R441). -/
def aBrkOf (brakeW : Nat) : Nat :=
  (((List.range 29).map (fun i => 100 + 25 * i)).filter (fun f => 40 * 800 + 510 * f ≤ brakeW * 800)).foldl max 0

/-- A_BRK of this device. -/
def State.aBrk (s : State) : Nat := aBrkOf s.pwr.brakeW

/-- BRAKED and TOGGLE both brake (R442). -/
def State.braking (s : State) : Bool := s.pwr.filter ≠ .clear

/-- The ACLK that the cap and the brake call for (R440, R441). -/
def State.wantClk (s : State) : Nat := if s.braking then min s.aBrk s.pwr.capClk else s.pwr.capClk

/-- The request follows the cap and the brake while the fast clocks are on; ACLK_CHANGE lands it (R431). -/
def State.request (s : State) : State :=
  if s.pwr.pllLock then { s with pwr := { s.pwr with want := s.wantClk } } else s

/-- Braked ticks in the window of 250,000 that ends now (R444). -/
def State.brakedTicks (s : State) : Nat :=
  let lo := s.tick - 250000
  let eps := s.pwr.episodes ++ (match s.pwr.brakeOn with
    | some t => [(t, s.tick)]
    | none => [])
  (eps.map (fun e => e.2 - max e.1 lo)).sum

/-- Beats in progress at a tick that is braked and BEYOND carry BRAKE = 1 (R444). -/
def State.markBraked (s : State) : State :=
  if s.braking ∧ s.pwr.beyond then
    let hs := (s.parts.map (·.2.beats)).flatten.flatMap (fun b => if b.started.isSome then b.slots.map (·.2.1) else [])
    hs.foldl (fun s h => match s.entryOf h with
      | some e => s.setEntry (handleIdx h) { e with budget := e.budget ||| 2 ^ 29 }
      | none => s) s
  else s

/-- Braking begins or its kind changes: an entry into BRAKED or TOGGLE (R442, BRK_CNT). -/
def State.brakeEnter (s : State) (f : Filter) : State :=
  let fresh := ¬ s.braking
  let s := { s with pwr := { s.pwr with
    filter := f
    brakeOn := if fresh then some s.tick else s.pwr.brakeOn
    heldRaised := if fresh then false else s.pwr.heldRaised
    brkCnt := satAdd 32 s.pwr.brkCnt 1 } }
  let s := if fresh then (s.pwrEv 0).raise 0x0400 0 none 0 0 s.aBrk else s
  s.request.markBraked

/-- The brake filter runs in RUN and IDLE (R442). -/
def State.filterRuns (s : State) : Bool := (s.pwr.st = .run || s.pwr.st = .idle) && s.pwr.tclkOk

/-- BRAKE_ON: BRAKE_N low for 50 ticks takes CLEAR to BRAKED (R442). -/
def execBrakeOn (s : State) : Result :=
  .next (if s.filterRuns ∧ s.pwr.filter = .clear then s.brakeEnter .braked else s)

/-- BRAKE_TOGGLE: quick falling edges take CLEAR or BRAKED to TOGGLE (R442). -/
def execBrakeToggle (s : State) : Result :=
  .next (if s.filterRuns ∧ s.pwr.filter ≠ .toggle then s.brakeEnter .toggle else s)

/-- BRAKE_OFF: BRAKE_N high long enough takes the filter to CLEAR, and the clocks return (R442, R443). -/
def execBrakeOff (s : State) : Result :=
  .next (
    if ¬ (s.filterRuns ∧ s.braking) then s
    else
      let on := s.pwr.brakeOn.getD s.tick
      let eps := (s.pwr.episodes ++ [(on, s.tick)]).filter (fun e => e.2 + 250000 > s.tick)
      let s := { s with pwr := { s.pwr with filter := .clear, brakeOn := none, heldRaised := false, episodes := eps } }
      (s.raise 0x0401 0 none 0 0 ((s.tick - on) / 25)).request)

/-- BRAKE_BEYOND: the braked count in the window exceeds 25 · ALLOW_US (R444). -/
def execBrakeBeyond (s : State) : Result :=
  .next (
    if s.pwr.beyond ∨ s.brakedTicks ≤ 25 * s.pwr.allowUs then s
    else
      let s' := { s with pwr := { s.pwr with beyond := true } }
      ((s'.pwrEv 1).raise 0x0402 1 none 0 0 (s.brakedTicks / 25)).markBraked)

/-- BEYOND_CLEAR: the count falls back to 25 · ALLOW_US or below (R444). -/
def execBeyondClear (s : State) : Result :=
  .next (if s.pwr.beyond ∧ s.brakedTicks ≤ 25 * s.pwr.allowUs then { s with pwr := { s.pwr with beyond := false } } else s)

/-- BRAKE_HELD: 100 ms of continuous braking raise it once (R442). -/
def execBrakeHeld (s : State) : Result :=
  .next (
    match s.pwr.brakeOn with
    | none => s
    | some t =>
      if s.pwr.heldRaised ∨ s.tick - t < 2500000 then s
      else ({ s with pwr := { s.pwr with heldRaised := true } }).raise 0x0403 1)

/-- ACLK_CHANGE: the requested frequency lands on one edge (R431). -/
def execAclkChange (mhz : Nat) (s : State) : Result :=
  .next (if s.pwr.pllLock ∧ mhz = s.pwr.want ∧ ¬ s.pwr.trip then { s with pwr := { s.pwr with aclk := mhz } } else s)

/-! ### The cap (R440) -/

/-- One round of the power cap on the round's power in units of 0.1 mW (R440). -/
def State.capRound (s : State) (x : Nat) : State :=
  let w := s.pwr
  let aboveCap := x > w.capW * 10000
  let under := x * 100 < 95 * (w.capW * 10000)
  let low := if under then w.capLow + 1 else 0
  let s := { s with pwr := { w with
    meas := x / 1000 % 2 ^ 16
    capClk := if aboveCap then (if w.capClk > w.clkFloor then max w.clkFloor (w.capClk - 25) else w.capClk)
      else if low ≥ 4 then min 800 (w.capClk + 25) else w.capClk
    capLow := if low ≥ 4 then 0 else low
    floorRaised := w.floorRaised && aboveCap } }
  let s := if aboveCap ∧ w.capClk ≤ w.clkFloor ∧ ¬ w.floorRaised then
      (({ s with pwr := { s.pwr with floorRaised := true } }).pwrEv 2).raise 0x0404 1 none 0 0 (x / 1000) else s
  s.request

/-! ### REST (R436, R437) -/

/-- The conditions of R436 but the delay and REST_EN. -/
def State.quiet (s : State) : Bool :=
  !s.anyActive && s.parts.all (fun x => x.2.beats.isEmpty) &&
  s.girths.all (fun x => x.2.st = .unset || x.2.st = .stopped) &&
  s.host.fetched.isEmpty && s.clusters.all (fun x => !x.2.chunk) && s.ext.all (fun x => !x.2.migrating)

/-- REST_ENTRY: after REST_DELAY with no work the device enters REST: the fast clocks stop and the ports go to electrical idle
(R436). -/
def execRestEntry (s : State) : Result :=
  .next (
    if ¬ s.awake ∨ ¬ s.isReady ∨ ¬ s.pwr.restEn ∨ ¬ s.quiet ∨ s.tick - s.pwr.idleSince < max 1 s.pwr.restDelay * 25000 then s
    else { s with
      pwr := { s.pwr with st := .rest, restAt := s.tick, aclk := 0, want := 0, pllLock := false }
      ports := s.ports.map (fun x => (x.1, if x.2.en then { x.2 with st := .down } else x.2)) })

/-- Every tile is gated: the state is IDLE (R434). -/
def State.allGated (s : State) : Bool := s.tiles.all (fun x => x.2.gated)

/-- The device leaves REST: the clocks return, and the ports that are enabled train (R431, R437). The ages of R194 have not grown
(R436). -/
def State.leaveRest (s : State) : State :=
  if s.pwr.st ≠ .rest then s
  else
    let d := s.tick - s.pwr.restAt
    { s with
      arrays := s.arrays.map (fun x => (x.1, { x.2 with
        proofTick := x.2.proofTick + d, xTick := x.2.xTick + d, readTick := x.2.readTick + d, sumsTick := x.2.sumsTick + d,
        trigTick := min s.tick (x.2.trigTick + d) }))
      clusters := s.clusters.map (fun x => (x.1, { x.2 with startTrigTick := min s.tick (x.2.startTrigTick + d) }))
      pwr := { s.pwr with st := if s.allGated then .idle else .run, pllLock := true, aclk := s.wantClk, want := s.wantClk,
                          idleSince := s.tick }
      ports := s.ports.map (fun x => (x.1, if x.2.en ∧ x.2.st = .down then { x.2 with st := .training } else x.2)) }

/-- REST_EXIT: a wake source brings the device out of REST (R437). -/
def execRestExit (s : State) : Result := .next s.leaveRest

/-! ### Gating (R435) -/

/-- Tile `t` waits for the first input of a run (R435): at its entry stitch or a WAIT, nothing arrived and nothing queued. -/
def State.tileIdle (s : State) (t : Nat) : Bool :=
  let x := s.tile t
  let waits := x.at_ = (s.progOf t).entry || (match s.stitchAt t x.at_ with
    | some ⟨_, .wait _⟩ => true
    | _ => false)
  waits && (x.hdrOf x.runs).isNone && !x.resv.any (fun r => r.2.run = x.runs && r.2.done) &&
    x.tallyQ.isEmpty && x.skiveQ.isEmpty && x.sendQ.isEmpty && x.kcmpQ.isEmpty && x.inlayQ.isEmpty &&
    x.flight.isEmpty && x.trace.isEmpty && x.disputes.isEmpty && !(s.cluster (t / 64)).chunk

/-- TILE_GATE (R435): an idle tile of a GATE = 1 partition gates; with every tile gated the device is in IDLE (R434). -/
def execTileGate (t : Nat) (s : State) : Result :=
  onTile t (
    match (s.part (s.partOfTile t)).table with
    | none => s
    | some ts =>
      if ¬ ts.gate ∨ ¬ s.awake ∨ ¬ s.tileIdle t then s
      else
        let s := s.setTile t { s.tile t with gated := true }
        if s.allGated then { s with pwr := { s.pwr with st := .idle } } else s)

/-- TILE_WAKE (R435): a flit for one of its reservations or a housekeeping chunk wakes a gated tile. -/
def execTileWake (t : Nat) (s : State) : Result :=
  onTile t (
    let x := s.tile t
    match (s.part (s.partOfTile t)).table with
    | none => s
    | some ts =>
      let called := s.fabric.any (fun c => c.dest.cluster * 64 + c.dest.port = t && decide (c.dest.port < 64)) ||
        x.resv.any (fun r => decide (r.2.hdrs > 0)) || (s.cluster (t / 64)).chunk || !ts.gate
      if ¬ x.gated ∨ ¬ called ∨ ¬ s.awake ∨ s.hk.stop then s
      else
        let s := s.setTile t { x with gated := false }
        ({ s with pwr := { s.pwr with st := .run } }).settle t)

end Sys2Proof.Machine
end

