-- ==== Sys2Proof/Machine/Housekeeping.lean ====
section
/-!
DEFINITION. Housekeeping and temperature: chunks of the housekeeping sequence (R191, R195), rounds (R376–R388), calibration
(R390–R398) and the fixed trip (R389).
-/

namespace Sys2Proof.Machine

open Sys2Proof

/-! ### Chunks (R191–R195) -/

/-- A tile that is between runs (R93): at its entry stitch with nothing of the next run arrived, or without a main program. -/
def State.betweenRuns (s : State) (t : Nat) : Bool :=
  let x := s.tile t
  x.kind = .main && ((s.progOf t).entry = 4095 || (x.at_ = (s.progOf t).entry && (x.hdrOf x.runs).isNone &&
    !x.resv.any (fun r => r.2.run = x.runs)))

/-- No beat input waits at any tile of partition `p` (R191). -/
def State.noInput (s : State) (p : Nat) : Bool :=
  s.fabric.all (fun c => c.part ≠ p) && (s.part p).tileList.all (fun t => ((s.tile t).hdrOf (s.tile t).runs).isNone)

/-- The age of an activity of R193 on an array, and its longest interval, in ticks; none where it is not due (R193, R326). -/
def State.activityAge (s : State) (a activity : Nat) : Option (Nat × Nat) :=
  let x := s.arr a
  match activity with
  | 0 => if x.sumsOk then some (s.tick - max x.proofTick x.sumsTick, 200000) else none
  | 1 => if x.sumsOk then some (s.tick - max x.xTick x.sumsTick, 25000000) else none
  | 2 => if s.calPending a then
      some (s.tick - (if x.calOk then x.trigTick else (s.cluster (a / 4096)).startTrigTick), 1250000) else none
  | 3 => if x.sumsOk then some (s.tick - max x.readTick x.sumsTick, 2160000000000) else none
  | _ => none

/-- Array `a` is the one that its tile's calibrator takes next: no triggered array of the tile has waited longer, ties to the
lower address (R392). -/
def State.calFirst (s : State) (a : Nat) : Bool :=
  let since (b : Nat) : Nat := if (s.arr b).calOk then (s.arr b).trigTick else (s.cluster (b / 4096)).startTrigTick
  (List.range 64).all (fun i =>
    let b := a / 64 * 64 + i
    b = a || !s.calPending b || decide (since b > since a) || (since b = since a && decide (b > a)))

/-- Array `a`'s next calibration step needs the housekeeping sequence: it is a tracing array's, or its column has no usable stand-in
(R395, R396). -/
def State.calNeedsHk (s : State) (a : Nat) : Bool :=
  let cur := match (s.tile (a / 64)).calib with
    | some (b, n, _) => if b = a then some n else none
    | none => if s.calPending a && s.calFirst a then some 0 else none
  match cur with
  | none => false
  | some n => isTracing a || (match (calOrder (s.arr a) (s.repair a))[n]? with
    | some c => !standInOk (s.arr a) (s.repair a) c
    | none => false)

/-- The urgency of what the sequence can run on array `a` as a fraction (R193, R194): the activities of R193 that act on arrays, and keeper
rotation as 5, with urgency 0.25 (R361). -/
def State.urgency (s : State) (a act : Nat) : Option (Nat × Nat) :=
  match act with
  | 0 => if isTracing a then none else s.activityAge a 0
  | 1 => if s.xcheckOk a then s.activityAge a 1 else none
  | 2 => if s.calNeedsHk a then s.activityAge a 2 else none
  | 3 => s.activityAge a 3
  | 5 => if !isReserve a && (List.range 8).any (s.rotationDue (s.servingArray a)) then some (1, 4) else none
  | _ => none

/-- A patch is to be programmed for a column of array `a` that a keeper stands in for (R360). -/
def State.patchWaits (s : State) (a : Nat) : Bool :=
  !isReserve a && (List.range 8).any (fun k => ((s.arr (s.servingArray a)).keeper k).st = .stand)

/-- The arrays of a tile. -/
def tileArrays (t : Nat) : List Nat := (List.range 64).map (arrayAddr t)

/-- What the housekeeping sequence of tile `t` runs next (R194, R360): a patch first, then the most urgent activity, ties in the order of
R193's table and then to the lower array address. -/
def State.hkChoice (s : State) (t : Nat) : Option (Nat × Nat) :=
  match (tileArrays t).find? s.patchWaits with
  | some a => some (4, a)
  | none =>
    (([0, 1, 2, 3, 5].flatMap (fun act => (tileArrays t).filterMap (fun a => (s.urgency a act).map (fun u => ((act, a), u))))).foldl
      (fun (best : Option ((Nat × Nat) × (Nat × Nat))) x => match best with
        | none => some x
        | some b => if x.2.1 * b.2.2 > b.2.1 * x.2.2 then some x else best) none).map (·.1)

/-- Some activity of the clusters of partition `p` is more urgent than KV migration, whose urgency is 0.5, or a patch waits (R194, R360). -/
def State.beyondMigration (s : State) (p : Nat) : Bool :=
  (s.part p).tileList.any (fun t => (tileArrays t).any (fun a => s.patchWaits a ||
    (List.range 4).any (fun act => match s.urgency a act with
      | some (n, d) => decide (2 * n > d)
      | none => false)))

/-- HK_CHUNK_START (R191, R194, R195): the supervisor of cluster `c` starts a chunk on its tiles that are between runs and runs the most urgent
activity there: from credit while it is positive, without credit while no beat input waits at any tile of the partition. -/
def execHkChunkStart (c : Nat) (s : State) : Result :=
  onCluster c (
    let p := s.partOfCluster c
    let ts := ((List.range 64).map (c * 64 + ·)).filter s.betweenRuns
    if ¬ s.runs p ∨ ts.isEmpty ∨ (s.cluster c).chunk then s
    else
      let s := s.accrue c
      let credit := decide ((s.cluster c).credit > 0)
      if ¬ credit ∧ ¬ s.noInput p then s
      else
        let x := s.cluster c
        let x := { x with chunk := true, credit := if credit then x.credit - (1000 * (s.hkOf c).2 : Nat) else x.credit }
        let s := s.setCluster c x
        ts.foldl (fun s t => (s.setTile t { s.tile t with kind := .hk, at_ := 3968, hkAct := s.hkChoice t, gated := false }).settle t) s)

/-- HK_OVERDUE (R195): an activity at urgency 2 is reported once for its unit. -/
def execHkOverdue (array activity : Nat) (s : State) : Result :=
  onArray array (
    match s.activityAge array activity with
    | none => s
    | some (age, i) =>
      let x := s.arr array
      if ¬ s.awake ∨ age < 2 * i ∨ x.overdue.contains activity then s
      else (s.setArr array { x with overdue := x.overdue ++ [activity] }).raise 0x0030 1 (s.holderOf array) 1 array activity)

/-! ### A thermal stop at the pommel (R387) -/

/-- The pommel ends every active request of the girth that is not PAUSED, and the girth stops (R387). -/
def State.thermalEnd (s : State) (p : Nat) : State :=
  let s := (s.handlesOf p (fun e => e.st.active && e.st ≠ .paused)).foldl
    (fun s h => (s.voidPromise h 4).endRequest h true 0x0A) s
  let s := ((s.rein p (.stop .girthStop)).stopWheel p).releaseHold p
  s.setGirth p { s.girth p with st := .stopped, thermal := none, thermalStop := false, readmits := [] }

/-- A thermal stop reaches the pommel of partition `p`'s girth (R387). -/
def State.thermalAt (s : State) (p : Nat) (drain : Bool) : State :=
  let g := s.girth p
  if g.st ≠ .running ∧ g.st ≠ .held then s
  else
    let s := s.setGirth p { g with thermalStop := true, thermal := if drain then some (g.thermal.getD s.tick) else g.thermal }
    if drain then s else s.thermalEnd p

/-- A peer mailbox message from this device reaches the pommel of every girth of the device; a pommel acts itself (R386, R387). -/
def State.tellPommels (s : State) (m : PeerMsg) : State :=
  s.girths.foldl (fun s x =>
    let p := x.1
    if (s.girth p).record.isNone then s
    else if s.isPommel p then
      match m with
      | .warn on =>
        let g := s.girth p
        s.setGirth p { g with warn := if on then 0 :: g.warn.filter (· ≠ 0) else g.warn.filter (· ≠ 0) }
      | .thermalStop d => s.thermalAt p d
      | .words _ => s
    else s.rein p (.peerMbx (((s.girth p).record.map (·.gpos)).getD 0) 0 m)) s

/-! ### A round (R376–R388) -/

/-- A channel that no round has converted. -/
def HkChan.zero : HkChan := {}

/-- The channels that a round converts (R378, R379, R384). -/
def State.hkList (s : State) : List Nat :=
  if s.pwr.st = .dormant then [18, 19]
  else (List.range 32).filter (fun n => bit s.hk.mask n || (18 ≤ n && n < 24))

/-- Which converter converts each channel of a list in normal mode (R378): the one free first, HKC0 on a tie; a diode takes
two conversions. The answer lists channels on HKC1. -/
def hkSchedule : List Nat → Nat → Nat → List Nat
  | [], _, _ => []
  | n :: ns, f0, f1 =>
    let d := if n = 18 ∨ n = 19 then 2 else 1
    if f0 ≤ f1 then hkSchedule ns (f0 + d) f1 else n :: hkSchedule ns f0 (f1 + d)

/-- The full scale of a channel in its VALUE unit (R377). -/
def hkScale (n : Nat) : Nat :=
  if n = 5 ∨ n = 12 ∨ n = 16 then 3000
  else if n = 20 then 3000 else if n = 21 then 3500 else if n = 22 then 800 else if n = 23 then 1000 else 1500

/-- The nominal voltage of rail channels 0–12 in mV (R377, R459). -/
def railNominal (n : Nat) : Int := [700, 700, 750, 750, 800, 1800, 1100, 1100, 750, 750, 1200, 800, 1800].getD n 0

/-- A code as a VALUE (R376, R377): codes 0–4,095 span the scale; the rounding is open (log 3). -/
def hkValue (n code : Nat) : Int :=
  let x := code * hkScale n
  ((x / 4095 + (if x % 4095 ≠ 0 ∧ Config.hkRoundUp n code then 1 else 0) : Nat) : Int)

/-- A code of a reading. -/
def codeAt (l : List (Nat × Nat)) (n : Nat) : Nat := ((l.find? (fun x => x.1 = n)).map (·.2)).getD 0

/-- The VALUE of channel `n` from a converter's code (R377): a diode's from the difference of its two conversions. -/
def hkChanValue (r : HkReading) (n code : Nat) : Int :=
  if n = 18 ∨ n = 19 then Config.compensate (n + 62) (code - codeAt r.low n) 0 else hkValue n code

/-- The value that R380 takes of two that disagree: the larger current or temperature, the rail value farther from nominal,
HKC0's otherwise. -/
def hkChoose (n : Nat) (a b : Int) : Int × Bool :=
  if 18 ≤ n ∧ n ≤ 23 then (max a b, decide (b > a))
  else if n ≤ 12 then
    let far := (b - railNominal n).natAbs > (a - railNominal n).natAbs
    (if far then b else a, far)
  else (a, false)

/-- The next cross-check channel above `n` in the mask, wrapping (R380). -/
def nextXch (cs : List Nat) (n : Nat) : Nat := ((cs.find? (· > n)).orElse (fun _ => cs.head?)).getD 0

/-- Channel `n` after its conversion: value, code, and the rail counters of R381 with RAIL_RANGE. -/
def State.hkConvert (s : State) (n : Nat) (v : Int) (code : Nat) : State :=
  let c : HkChan := getD HkChan.zero n s.hk.chans
  let rail := n ≤ 12
  let nom := railNominal n
  let bad := rail ∧ (v - nom).natAbs * 20 > nom.natAbs
  let c := { c with value := v, code, old := false, out := if bad then c.out + 1 else 0
                    within := if rail ∧ ¬ bad then c.within + 1 else 0 }
  let c := { c with raised := c.raised && decide (c.within < 2) }
  let hit := c.out ≥ 2 ∧ ¬ c.raised
  let s := { s with hk := { s.hk with chans := put n { c with raised := c.raised || decide hit } s.hk.chans } }
  if hit then (s.thermEv 4).raise 0x0207 1 none 3 n (v % 2 ^ 64).toNat else s

/-- Step 1 and step 3 of a round: the channels, and the cross-check of XCH (R378–R380). -/
def State.hkChannels (s : State) (r : HkReading) : State :=
  let cs := s.hkList
  let h := s.hk
  let on1 := hkSchedule cs 0 0
  let x := h.xch
  let cross := s.pwr.st ≠ .dormant ∧ cs.contains x
  let a := codeAt r.codes0 x
  let b := codeAt r.codes1 x
  let dis := cross ∧ (if a < b then b - a else a - b) > max 1 h.xtol
  let s := cs.foldl (fun s n =>
    let c0 := codeAt r.codes0 n
    let c1 := codeAt r.codes1 n
    let v0 := hkChanValue r n c0
    let v1 := hkChanValue r n c1
    let both := h.degraded ∨ (dis ∧ n = x)
    let ch := hkChoose n v0 v1
    if both then s.hkConvert n ch.1 (if ch.2 then c1 else c0)
    else if on1.contains n then s.hkConvert n v1 c1 else s.hkConvert n v0 c0) s
  let s := { s with hk := { s.hk with chans := (List.range 32).foldl (fun t n =>
    let c : HkChan := getD HkChan.zero n t
    let c := if cs.contains n then c else { c with old := true }
    let c := if cross ∧ n = x then { c with xc := dis } else c
    if c = HkChan.zero then del n t else put n c t) s.hk.chans } }
  if ¬ cross then { s with hk := { s.hk with xch := if s.pwr.st = .dormant then x else nextXch cs x } }
  else
    let s : State := if dis then (s.thermEv 2).raise 0x0205 1 none 3 x (a + 2 ^ 16 * b) else s
    let d := if dis then s.hk.disagree + 1 else 0
    let g := if dis then 0 else s.hk.agree + 1
    let enter : Bool := decide (d ≥ 4) && !s.hk.degraded
    let s := { s with hk := { s.hk with xch := nextXch cs x, disagree := d, agree := g
                                        degraded := (s.hk.degraded && decide (g < 16)) || enter } }
    if enter then (s.thermEv 3).raise 0x0206 1 else s

/-- The rail reading that corrects a ring oscillator (R383): VDD_A by half for clusters, VDD_F by edge for sensors 64–79
(log 28). -/
def sensorRail (k : Nat) : Nat :=
  if k < 32 then 0 else if k < 64 then 1
  else if k < 72 then (if (k - 64) % 4 < 2 then 2 else 3)
  else if k < 76 then 2 else 3

/-- The sensors that a round reads (R382, R384). -/
def State.sensorList (s : State) : List Nat := if s.pwr.st = .dormant then [80, 81] else List.range 82

/-- Temperatures of a round (R382, R383). -/
def State.hkTemps (s : State) (r : HkReading) : Tbl Int :=
  s.sensorList.map (fun k =>
    (k, if k ≥ 80 then ((getD HkChan.zero (k - 62) s.hk.chans).value)
        else Config.compensate k (codeAt r.counts k) (getD HkChan.zero (sensorRail k) s.hk.chans).value.toNat))

/-- ΔT of sensor `k` over four rounds, when the window is full (R385). -/
def State.deltaT (s : State) (k : Nat) : Option Int :=
  match s.hk.hist with
  | a :: _ :: _ :: _ :: b :: _ => match find? k a, find? k b with
    | some x, some y => some (x - y)
    | _, _ => none
  | _ => none

/-- The RATE field in 1/64 °C/ms of a ΔT over a period in 0.25 ms: ΔT · 4 / period; its rounding is open (log 3). -/
def rateField (k : Nat) (dt : Int) (period : Nat) : Int :=
  let n := dt * 4
  let q := n / period
  if n % period ≠ 0 ∧ Config.hkRoundUp (1000 + k) n.natAbs then q + 1 else q

/-- Whether the rate of a ΔT is at least `w` / 32 °C/ms (R385–R387). -/
def rateAtLeast (dt : Int) (period w : Nat) : Bool := dt * 4 ≥ 2 * w * period

/-- The sensor with the largest of some figures, the lower number on a tie. -/
def maxSensor (l : List (Nat × Int)) : Option (Nat × Int) :=
  l.foldl (fun b x => match b with
    | some y => if x.2 > y.2 then some x else b
    | none => some x) none

/-- t_drain as W cycles: the largest W(BEAT_SLOTS) among partitions with a beat in progress (R387). -/
def State.drainCycles (s : State) : Nat :=
  (s.parts.filterMap (fun x => match x.2.table with
    | some ts => if x.2.beats.any (fun b => b.started.isSome) then some (ts.w.getD (ts.beatSlots - 1) 0) else none
    | none => none)).foldl max 0

/-- WARN at the end of a round (R386): `hot` the sensor at or above HOT_LIMIT, `rate` the device rate and its sensor. -/
def State.warnRound (s : State) (rate : Option (Nat × Int)) (hot : Option Nat) : State :=
  let h := s.hk
  let fast : Bool := match rate with
    | some (_, dt) => rateAtLeast dt h.inForce h.warnRate
    | none => false
  if rate.isNone then s
  else if fast ∨ hot.isSome then
    let s' := { s with hk := { h with warn := true, warnQuiet := 0 } }
    if h.warn then s'
    else
      let k := if fast then (rate.map (·.1)).getD 0 else hot.getD 0
      let f := (rate.map (fun x => rateField x.1 x.2 h.inForce)).getD 0
      ((s'.thermEv 0).raise 0x0200 1 none 3 k (f % 2 ^ 64).toNat).tellPommels (.warn true)
  else if ¬ h.warn then s
  else if h.warnQuiet + 1 < 8 then { s with hk := { h with warnQuiet := h.warnQuiet + 1 } }
  else (({ s with hk := { h with warn := false, warnQuiet := 0 } }).raise 0x0201 0).tellPommels (.warn false)

/-- STOP at the end of a round (R387, R388). -/
def State.stopRound (s : State) (rate : Option (Nat × Int)) (hot : Option Nat) (dts : List (Nat × Int)) : State :=
  let h := s.hk
  match rate with
  | none => s
  | some (k, dt) =>
    if rateAtLeast dt h.inForce h.stopRate ∧ ¬ h.stop then
      let trips : List (Nat × Nat) := (dts.filter (fun x => x.2 > 0)).map (fun x =>
        ((1000 * (2000 - getD 0 x.1 h.temps).toNat * h.inForce), x.2.toNat))
      let w := s.drainCycles
      let drain := s.pwr.aclk > 0 ∧ trips.all (fun y => y.1 * s.pwr.aclk > (w + 50 * s.pwr.aclk) * y.2)
      let us := (trips.map (fun y => y.1 / y.2)).foldl min (2 ^ 24 - 1)
      let arrived := s.parts.flatMap (fun x => List.replicate (s.beatsWaiting x.1) x.1)
      let s := { s with hk := { h with stop := true, stopQuiet := 0, stopNow := !(decide drain),
                                       drain := if drain then arrived else [] } }
      let s := (s.thermEv 1).raise 0x0202 2 none 3 k (b2n drain + 2 ^ 8 * us)
      let s : State := if drain then
          { s with tiles := s.tiles.map (fun x =>
              (x.1, if s.drained (s.partOfTile x.1) then { x.2 with gated := true } else x.2)) }
        else { s with tiles := s.tiles.map (fun x => (x.1, { x.2 with gated := true })) }
      s.tellPommels (.thermalStop drain)
    else if ¬ h.stop then s
    else if rateAtLeast dt h.inForce h.warnRate ∨ hot.isSome then { s with hk := { h with stopQuiet := 0 } }
    else if h.stopQuiet + 1 < 16 then { s with hk := { h with stopQuiet := h.stopQuiet + 1 } }
    else ({ s with hk := { h with stop := false, stopNow := false, drain := [], stopQuiet := 0 } }).raise 0x0203 0

/-- Arrays whose cluster has moved by more than DTCAL / 4 °C are triggered (R391). -/
def State.calTriggers (s : State) : State :=
  if ¬ s.hk.auto then s
  else
    let moved (tc tcal : Int) : Bool := (tc - tcal).natAbs > 4 * s.hk.dtcal
    let s : State := { s with arrays := s.arrays.map (fun x =>
      (x.1, if x.2.calOk ∧ ¬ x.2.calPend ∧ moved (s.clusterTemp (x.1 / 4096)) x.2.tcal
        then { x.2 with calPend := true, trigTick := s.tick } else x.2)) }
    if ¬ s.hk.startCal then s
    else (List.range 16).foldl (fun s c =>
      let x := s.cluster c
      if ¬ x.startTrig ∧ moved (s.clusterTemp c) x.startTcal then s.setCluster c { x with startTrig := true, startTrigTick := s.tick }
      else s) s

/-- Trims move by at most one step per round toward their targets, which the compensation tables hold (R383): each move of −1, 0
or +1 is a free value (log 3). -/
def State.trimRound (s : State) : State :=
  let (n, s) := s.draw
  let mv (i : Nat) : Int := (n / 3 ^ i % 3 : Nat) - 1
  let s := { s with hk := { s.hk with bg0 := s.hk.bg0 + mv 0, bg1 := s.hk.bg1 + mv 1 } }
  if s.pwr.st = .dormant then s
  else (List.range 16).foldl (fun s c => s.setCluster c { s.cluster c with refTrim := (s.cluster c).refTrim + mv (2 + c) }) s

/-- The round's power in units of 0.1 mW (R440). Which of the two readings of VDD_A, VDD_F and VDDQ is taken is open (log 3). -/
def State.roundPower (s : State) : Nat × State :=
  let (n, s) := s.draw
  let v : Nat → Nat := fun k => (getD HkChan.zero k s.hk.chans).value.toNat
  let pick : Nat → Nat → Nat := fun i a => if bit n i then v (a + 1) else v a
  (pick 0 0 * v 20 + pick 1 2 * v 21 + pick 2 6 * v 22 + 750 * v 23 + 150000, s)

/-- The readings of a round enter the window (R385). -/
def State.newTemps (s : State) (temps : Tbl Int) : State :=
  { s with hk := { s.hk with temps, hist := (temps :: s.hk.hist).take 5 } }

/-- The ΔT of every sensor whose window is full (R385). -/
def State.deltas (s : State) : List (Nat × Int) :=
  s.hk.temps.filterMap (fun (x : Nat × Int) => (s.deltaT x.1).map (fun d => (x.1, d)))

/-- A sensor at or above HOT_LIMIT (R386). -/
def State.hotSensor (s : State) : Option Nat :=
  ((s.hk.temps.filter (fun (x : Nat × Int) => decide (x.2 ≥ ((16 * s.hk.hotLimit : Nat) : Int)))).head?).map (·.1)

/-- RATE, TEMP_MAX and ROUNDS at the end of a round (R378, R385). -/
def State.tempRegs (s : State) (dts : List (Nat × Int)) : State :=
  let top := maxSensor s.hk.temps
  { s with hk := { s.hk with
    rates := dts.map (fun (x : Nat × Int) => (x.1, rateField x.1 x.2 s.hk.inForce))
    maxTemp := (top.map (·.2)).getD 0
    maxSens := (top.map (·.1)).getD 0
    rounds := (s.hk.rounds + 1) % 2 ^ 16 } }

/-- HK_ROUND (R376–R388, R391, R440): one housekeeping round. -/
def execHkRound (r : HkReading) (s : State) : Result :=
  .next (
    if s.pwr.st = .off ∨ ¬ s.pwr.tclkOk then s
    else
      let s : State := s.hk.resend.foldl (fun s' x => s'.rein x.1 (.peerMbx (((s'.girth x.1).record.map (·.gpos)).getD 0) 0 x.2))
        { s with hk := { s.hk with resend := [] } }
      let s := s.hkChannels r
      let s := s.newTemps (s.hkTemps r)
      let dts := s.deltas
      let rate := maxSensor dts
      let hot := s.hotSensor
      let s := s.tempRegs dts
      let s := (s.warnRound rate hot).stopRound rate hot dts
      let s := s.trimRound
      let s := if s.pwr.st = .dormant then s
        else
          let y := s.calTriggers.roundPower
          y.2.capRound y.1
      let next := if s.pwr.st = .dormant then 64 else max 1 s.hk.period
      if next = s.hk.inForce ∧ ¬ s.hk.perWr then s else { s with hk := { s.hk with inForce := next, perWr := false, hist := [], rates := [] } })

/-! ### Calibration (R390–R398) -/

/-- CAL_RANGE for a trim at an end of its range (R397). -/
def State.calRange (s : State) (a c which : Nat) (v : Int) : State :=
  if v = -32 ∨ v = 31 then
    (s.thermEv 5).raise 0x0208 1 none 1 a (c + 2 ^ 9 * which + 2 ^ 10 * (if v = 31 then 1 else 0))
  else s

/-- Array `a` has been calibrated, with T_c as it was at the start (R391, R392). -/
def State.calDone (s : State) (a : Nat) (tc : Int) : State :=
  let x := s.arr a
  let s := s.setArr a { x with calOk := true, calPend := false, tcal := tc, calTick := s.tick,
                               overdue := x.overdue.filter (· ≠ 2) }
  { s with hk := { s.hk with calDone := satAdd 32 s.hk.calDone 1 } }

/-- New trims of one column, held at the ends of their range (R390, R397). -/
def State.applyTrim (s : State) (t : Trim) : State :=
  let o := max (-32) (min 31 t.offset)
  let g := max (-32) (min 31 t.gain)
  let x := s.arr t.array
  ((s.setArr t.array { x with trims := put t.column (o, g) x.trims }).calRange t.array t.column 0 o).calRange t.array t.column 1 g

/-- The arrays can take calibration steps: in service, or in step 7 of start-up (R398, R449). -/
def State.calRuns (s : State) : Bool := s.awake && (s.pwr.phase = 2 || s.pwr.phase = 4)

/-- CAL_STEP (R392–R397): one column step of the tile's calibration ends and its trims apply. A tracing array takes one step
(R396). -/
def execCalStep (trim : Trim) (s : State) : Result :=
  onArray trim.array (
    let a := trim.array
    let t := a / 64
    let x := s.arr a
    let r := s.repair a
    let cur := match (s.tile t).calib with
      | some (b, n, tc) => if b = a then some (n, tc) else none
      | none => if s.calPending a && s.calFirst a then some (0, s.clusterTemp (a / 4096)) else none
    match cur with
    | none => s
    | some (n, tc) =>
      let order := calOrder x r
      let hk := (isTracing a ∨ ¬ standInOk x r trim.column) ∧ s.isReady
      let on (s : State) : State := if hk then s.sequenceOn t else s
      if ¬ s.calRuns ∨ x.prog.isSome ∨ (s.tile t).disputes.any (fun d => d.array = a % 64) then s
      else if hk ∧ ¬ s.inSequence t 2 a then s
      else if isTracing a then
        let s := (s.setTile t { s.tile t with calib := none }).calDone a tc
        on (if s.isReady then s.debit (a / 4096) 896 else s)
      else if order[n]? ≠ some trim.column then s
      else
        let s := s.applyTrim trim
        let s := if hk then s.debit (a / 4096) 903 else s
        on (if n + 1 < order.length then s.setTile t { s.tile t with calib := some (a, n + 1, tc) }
          else (s.setTile t { s.tile t with calib := none }).calDone a tc))

/-! ### The fixed trip (R389) -/

/-- THERMTRIP (R389): THERMTRIP_N goes low, the fast clocks and the drives stop, and the trip flag is written. The trip is
latched until the next power-on reset. -/
def execThermtrip (s : State) : Result :=
  .next (
    if s.pwr.st = .off then s
    else { s with pwr := { s.pwr with trip := true, aclk := 0, want := 0, pllLock := false }
                  store := { s.store with tripFlag := true } })

end Sys2Proof.Machine
end

