-- ==== Sys2Proof/Machine/Packets.lean ====
section
/-!
DEFINITION. Command packets: their fields and sizes (R283, R295–R300), what each ring and mailbox accepts (R284, R304), the order
of long commands (R285, R425), and host addresses (R272).
-/

namespace Sys2Proof.Machine

open Sys2Proof

/-! ### Fields (R283) -/

/-- OPCODE. -/
def pktOp (w : List Nat) : Nat := bits (nthW w 0) 7 0
/-- EXPERT. -/
def pktExpert (w : List Nat) : Bool := bit (nthW w 0) 8
/-- Bit `i` of word 0, a bit of FLAGS. -/
def pktFlag (w : List Nat) (i : Nat) : Bool := bit (nthW w 0) i
/-- PART. -/
def pktPart (w : List Nat) : Nat := bits (nthW w 0) 19 16
/-- TAG. -/
def pktTag (w : List Nat) : Nat := bits (nthW w 1) 15 0
/-- LENGTH. -/
def pktLen (w : List Nat) : Nat := bits (nthW w 1) 31 16

/-- The parameter bytes of an opcode; none for an opcode that R295 does not list (R295–R300). -/
def opLen (op : Nat) (expert : Bool) : Option Nat :=
  match op with
  | 0x01 => some 56 | 0x02 => some 4 | 0x03 => some 8 | 0x04 => some 12 | 0x05 => some 12 | 0x06 => some 4
  | 0x10 => some 24 | 0x11 => some (if expert then 16 else 12) | 0x12 => some 12 | 0x13 => some 4 | 0x14 => some 0
  | 0x15 => some 24 | 0x16 => some 4
  | 0x20 => some 20 | 0x21 => some 12 | 0x22 => some 0 | 0x23 => some 0
  | 0x30 => some 8 | 0x31 => some 8
  | 0x40 => some 12 | 0x41 => some 16
  | 0x80 => some 20 | 0x81 => some 16 | 0x82 => some 4 | 0x83 => some 4 | 0x84 => some 4 | 0x85 => some 8
  | 0x86 => some 12 | 0x87 => some 16 | 0x88 => some 12 | 0x89 => some 8 | 0x8A => some 8
  | _ => none

/-- The opcode is one of the opcode table (R295). -/
def opListed (op : Nat) : Bool := (opLen op false).isSome

/-- The FLAGS bits [15:9] that an opcode defines, in place (R296–R300). -/
def opFlags (op : Nat) : Nat :=
  match op with
  | 0x01 => 0x1E00
  | 0x04 => 0x0200 | 0x10 => 0x0200 | 0x82 => 0x0200 | 0x83 => 0x0200 | 0x84 => 0x0200
  | _ => 0

/-- A full parameter word. -/
def wFull : Nat := 0xFFFFFFFF

/-- The defined bits of words 2 onwards; a word beyond the list is reserved (R6, R296–R300). `all` is FLAGS ALL. -/
def opMasks (op : Nat) (expert all : Bool) : List Nat :=
  match op with
  | 0x01 => [wFull, wFull, 0x0FFFFFFF, wFull, wFull, wFull, wFull, wFull, wFull, wFull, 0x1FFF, wFull, wFull, wFull]
  | 0x02 => [wFull] | 0x03 => [wFull, wFull] | 0x04 => [wFull, wFull, wFull] | 0x05 => [wFull, wFull, wFull]
  | 0x06 => [wFull]
  | 0x10 => [wFull, wFull, wFull, wFull, wFull, wFull]
  | 0x11 => [wFull, wFull, wFull, if expert then 0xF else 0]
  | 0x12 => [wFull, wFull, wFull] | 0x13 => [0xFFFF]
  | 0x15 => [0xFFF, wFull, wFull, wFull, wFull, wFull] | 0x16 => [0xFFF]
  | 0x20 => [0xFFFF, wFull, wFull, wFull, wFull] | 0x21 => [wFull, wFull, wFull]
  | 0x30 => [wFull, wFull] | 0x31 => [wFull, wFull]
  | 0x40 => [wFull, wFull, wFull] | 0x41 => [wFull, wFull, wFull, wFull]
  | 0x80 => [wFull, wFull, wFull, wFull, wFull] | 0x81 => [0x103FF, 0x1FFFFF, 0xFF, wFull]
  | 0x82 => [if all then 0 else 0xFFFF] | 0x83 => [if all then 0 else 0xFFFF] | 0x84 => [if all then 0 else 0xFFFF]
  | 0x85 => [wFull, wFull] | 0x86 => [0xFFFF, wFull, wFull] | 0x87 => [0xFF, wFull, wFull, wFull]
  | 0x88 => [wFull, wFull, wFull] | 0x89 => [0xFFFF, 0x1F07FF03] | 0x8A => [0xFFFF, wFull]
  | _ => []

/-- A command for one array or for every array of a partition, and its ALL flag (R300). -/
def pktAll (w : List Nat) : Bool := (pktOp w = 0x82 || pktOp w = 0x83 || pktOp w = 0x84) && pktFlag w 9

/-- Device-wide opcodes, whose PART is reserved (R284). -/
def deviceWide (w : List Nat) : Bool :=
  let op := pktOp w
  op = 0x30 || op = 0x31 || op = 0x40 || op = 0x86 || op = 0x88 || op = 0x89 || op = 0x8A ||
    ((op = 0x82 || op = 0x83 || op = 0x84) && !pktFlag w 9)

/-- The opcodes that a partition ring accepts (R284). -/
def partRingOps : List Nat :=
  [0x01, 0x02, 0x03, 0x04, 0x05, 0x06, 0x10, 0x11, 0x12, 0x13, 0x14, 0x15, 0x16, 0x21, 0x22, 0x23, 0x41, 0x80, 0x81, 0x85, 0x87]

/-- The opcodes that the firmware carries out from any mailbox (R304). -/
def mbxOps : List Nat := [0x02, 0x05, 0x23, 0x31, 0x40, 0x41]

/-- Whether a source accepts a listed opcode (R284, R304). -/
def srcAccepts (src : CmdSrc) (w : List Nat) : Bool :=
  match src with
  | .ring 16 => pktOp w ≠ 0x01 && pktOp w ≠ 0x03 && pktOp w ≠ 0x04
  | .ring b => partRingOps.contains (pktOp w) && pktPart w = b
  | .mbx m => mbxOps.contains (pktOp w) || (pktOp w = 0x30 && m < 2)

/-- Every bit of `x` lies in `m`. -/
def within (x m : Nat) : Bool := x &&& m = x

/-- The checks of a packet that do not depend on the device's state: source, expert flag, reserved bits, LENGTH (R6, R11, R12,
R283, R284, R304). A packet that fails one replies REJECT_PARAM. -/
def packetOk (src : CmdSrc) (w : List Nat) : Bool :=
  let op := pktOp w
  let w0 := nthW w 0
  srcAccepts src w && (op < 0x80 || pktExpert w) && bits w0 31 20 = 0 && within (bits w0 15 9 * 512) (opFlags op) &&
    (!deviceWide w || pktPart w = 0) && opLen op (pktExpert w) = some (pktLen w) &&
    (List.range 14).all (fun i => within (nthW w (i + 2)) ((opMasks op (pktExpert w) (pktAll w)).getD i 0))

/-! ### Long commands (R285) -/

/-- What a long command is long for: none for a command that is not long, a partition, or 16 for the whole device (R285). -/
def longFor (w : List Nat) : Option Nat :=
  let op := pktOp w
  if deviceWide w then (if op = 0x40 ∨ op = 0x88 ∨ op = 0x89 then none else some 16)
  else if op = 0x10 ∨ op = 0x11 ∨ op = 0x12 ∨ op = 0x13 ∨ op = 0x14 ∨ op = 0x15 ∨ op = 0x22 ∨ op = 0x23 ∨ op = 0x80 ∨
      op = 0x82 ∨ op = 0x83 ∨ op = 0x84 then some (pktPart w)
  else none

/-- The commands that do not wait for the rebuild after a TENANT_END (R425). -/
def rebuildFree (op : Nat) : Bool :=
  op = 0x01 || op = 0x02 || op = 0x03 || op = 0x04 || op = 0x05 || op = 0x06 || op = 0x23 || op = 0x31 || op = 0x40 || op = 0x41

/-- A command packet waits under R285 or R425; `earlier` are the packets fetched before it and not yet replied. -/
def State.waits (s : State) (earlier : List Fetched) (w : List Nat) : Bool :=
  if ¬ opListed (pktOp w) then false
  else
    (s.sec.scrub = .rebuilding && !rebuildFree (pktOp w)) ||
    (match longFor w with
      | none => false
      | some 16 => earlier.any (fun f => (longFor f.words).isSome) || (s.sec.scrub ≠ .none && pktOp w ≠ 0x31)
      | some p => earlier.any (fun f => longFor f.words = some p))

/-- A packet belongs to ring block `b`; one that a mailbox left waiting is ordered with the management ring's (R304). -/
def Fetched.ofBlock (f : Fetched) (b : Nat) : Bool :=
  match f.src with
  | .ring k => k = b
  | .mbx _ => b = 16

/-- The first packet of block `b`, in fetch order, that has not started and does not wait. -/
def State.nextOf (s : State) (b : Nat) : List Fetched → List Fetched → Option Fetched
  | _, [] => none
  | earlier, f :: fs =>
    if f.ofBlock b ∧ ¬ f.running ∧ ¬ f.stalled ∧ ¬ s.waits earlier f.words then some f else s.nextOf b (earlier ++ [f]) fs

/-- The device carries out commands: it is READY and nothing holds it (R368, R389, R432, R449). -/
def State.serves (s : State) : Bool :=
  s.isReady && (s.pwr.st = .run || s.pwr.st = .idle) && s.pwr.tclkOk && !s.pwr.trip && s.ev.resetDue.isNone && !s.ev.halted

/-- A command's effect, given where it came from and its packet. -/
abbrev CmdEffect := CmdSrc → List Nat → State → State

/-- A started command that waits within its own effect lets the commands behind it go on (R285). -/
def markStalled (src : CmdSrc) (pkt : List Nat) : List Fetched → List Fetched
  | [] => []
  | f :: fs => if f.src = src ∧ f.words = pkt then { f with stalled := !f.running } :: fs else f :: markStalled src pkt fs

/-- The command of a packet waits within its own effect, unless it runs on (R285). -/
def State.stallCmd (s : State) (src : CmdSrc) (pkt : List Nat) : State :=
  { s with host := { s.host with fetched := markStalled src pkt s.host.fetched } }

/-- The command that `command` takes up: one of block `b` with opcode `op` that has started and waits within its own effect, else the next of
the block when it has that opcode (R285). -/
def State.taken (s : State) (b op : Nat) : Option Fetched :=
  match s.host.fetched.find? (fun f => f.ofBlock b && f.stalled && !f.running && decide (pktOp f.words = op)) with
  | some f => some f
  | none => (s.nextOf b [] s.host.fetched).filter (fun f => pktOp f.words = op)

/-- The next command of block `b` is carried out when it has opcode `op` (R284, R285): a packet that fails its checks replies
REJECT_PARAM and changes nothing; otherwise `f` is its effect. One that has not replied waits, and those behind it go on. -/
def command (b op : Nat) (f : CmdEffect) (s : State) : Result :=
  onBlock b (
    if ¬ s.serves then s
    else match s.taken b op with
      | none => s
      | some c =>
        if ¬ packetOk c.src c.words then s.reply c.src c.words 0x04
        else
          let s' := f c.src c.words s
          if s'.host.fetched.length < s.host.fetched.length then s'
          else s'.stallCmd c.src c.words)

/-- A command goes on and replies later (R285). -/
def markRunning (src : CmdSrc) (pkt : List Nat) : List Fetched → List Fetched
  | [] => []
  | f :: fs => if f.src = src ∧ f.words = pkt then { f with running := true } :: fs else f :: markRunning src pkt fs

/-- The command of a packet has started and its reply follows later. -/
def State.startCmd (s : State) (src : CmdSrc) (pkt : List Nat) : State :=
  { s with host := { s.host with fetched := markRunning src pkt s.host.fetched } }

/-- Whether a command arrived through the trusted path: a ring with TRUSTED = 1, or a secure mailbox (R422). -/
def State.trustedPath (s : State) (src : CmdSrc) : Bool :=
  match src with
  | .ring _ => s.trusted
  | .mbx m => m < 2

/-- Ring block `b`'s commands fetched whose reply is not in the CQ yet, because they run or because it waits for a free entry: INFLIGHT
(R278, R290). -/
def State.inflight (s : State) (b : Nat) : Nat :=
  s.host.fetched.countP (fun f => f.src = .ring b) + (s.ring b).cqWait.countP (fun e => bits (nthW e 0) 23 20 = 0)

/-! ### Host addresses (R272) -/

/-- A host address and length that a command may name: a window address has bits [62:34] zero and stays within 16 GiB. -/
def addrOk (a n : Nat) : Bool := a < 2 ^ 63 || (bits a 62 34 = 0 && a % 2 ^ 34 + n ≤ 2 ^ 34)

/-- `n` bytes at a host address: host memory as the command finds it, or the staging window (R271, R272). -/
def State.readMem (s : State) (h : HostMem) (a n : Nat) : List Byte :=
  if a < 2 ^ 63 then hostBytes h a n else (List.range n).map (fun i => Memory.readFree s.staging (a % 2 ^ 34 + i))

/-- The read of `n` bytes at a host address leaves, a TEE request of the trusted stream while TRUSTED = 1 (R271, R417); the staging window is the
device's own. -/
def State.asks (s : State) (a n : Nat) : State := if n = 0 ∨ 2 ^ 63 ≤ a then s else s.emit (.hostRead a n s.trusted)

/-- Bytes written at a host address: a memory write leaves, a TEE request of the trusted stream while TRUSTED = 1 (R417), or the window's lines are
written after a back-invalidate each (R271–R273). -/
def State.writeMem (s : State) (a : Nat) (data : List Byte) : State :=
  if data.isEmpty then s
  else if a < 2 ^ 63 then s.emit (.hostWrite a data s.trusted)
  else
    let o := a % 2 ^ 34
    let s := (List.range' (o / 64) ((o + data.length - 1) / 64 + 1 - o / 64)).foldl
      (fun s l => s.emit (.backInvalidate l)) s
    { s with staging := Memory.writeAll s.staging o data }

end Sys2Proof.Machine
end

