-- ==== Sys2Proof/Machine/Admission.lean ====
section
/-!
DEFINITION. Admission: selection parameters (R218), spans and tiers (R143–R145), seats (R182), the checks of R183 with the
promise test (R185, R187, R188), and the claim round (R186).
-/

namespace Sys2Proof.Machine

open Sys2Proof

/-! ### Selection parameters (R218, R296) -/

/-- The defaults of R296, as words 24–39. -/
def selDefault : List Nat := [0x3F800000, 0x3F800000, 0, 0, 0x3F800000, 0, 0, 0, 0, 0, 0, 0, 0, 0, 0, 0]

/-- A binary32 word whose value lies from `lo` to `hi`, both non-negative; −0 counts as 0. -/
def f32Within (lo hi x : Nat) : Bool := (lo ≤ x && x ≤ hi) || (x = 0x80000000 && lo = 0)

/-- Every value within its range, reserved bits, LD and SEED_C zero, and expert parameters zero without EXPERT (R218, R283). -/
def selOk (w : List Nat) (expert : Bool) : Bool :=
  f32Within 0x3B800000 0x41800000 (nthW w 0) && f32Within 1 0x3F800000 (nthW w 1) && f32Within 0 0x3F7FFFFF (nthW w 2) &&
    bits (nthW w 3) 8 0 ≤ 256 && bits (nthW w 3) 31 20 = 0 && (expert || bits (nthW w 3) 19 10 = 0) &&
    f32Within 0x3F800000 0x41800000 (nthW w 4) && f32Within 0 0x41800000 (nthW w 5) && f32Within 0 0x41800000 (nthW w 6) &&
    (List.range 4).all (fun i => bits (nthW w (7 + i)) 30 18 = 0) && (List.range 5).all (fun i => nthW w (11 + i) = 0)

/-- The token matches a valid END0–END3 (R218, R226). -/
def isEnd (sel : List Nat) (t : Nat) : Bool :=
  (List.range 4).any (fun i => bit (nthW sel (7 + i)) 31 && bits (nthW sel (7 + i)) 17 0 = t)

/-! ### Spans (R143–R145) -/

/-- Units of 64 KiB that a number of bytes takes. -/
def units64 (n : Nat) : Nat := ceilDiv n 65536

/-- The stack KV area in 64 KiB units: the usable stacks less the stack copy, the known sums, the extensions, the wear area, the
staging window and the bias tables (R5's sizes in R169, R209, R213, R273, R321, R326; log 31). -/
def stackKvUnits : Nat := (240 * 2 ^ 30 - (2 ^ 30 + 448 * 2 ^ 20 + 192 * 2 ^ 20 + 2 ^ 31 + 2 ^ 34 + 2 ^ 25)) / 65536

/-- The bytes that the shard store holds (R309). -/
def State.shardBytes (s : State) : Nat := (s.shards.map (fun x => x.2.2.length)).sum

/-- Every streamed span of the device as base and length in 64 KiB units. -/
def State.streamedSpans (s : State) : List (Nat × Nat) :=
  s.ext.flatMap (fun x =>
    let e := s.entry x.1
    if e.st = .free ∨ ¬ e.streamed then []
    else match (s.part e.part).table with
      | some ts => x.2.spans.map (fun cb => (cb.2, units64 (ts.spanBytes cb.1 (spanLen e.maxlen))))
      | none => [])

/-- The lowest base at which `n` units fit beside the spans (first fit). -/
def firstFit (spans : List (Nat × Nat)) (n : Nat) : Nat :=
  let free (b : Nat) : Bool := spans.all (fun x => b + n ≤ x.1 || x.1 + x.2 ≤ b)
  let cands := (0 :: spans.map (fun x => x.1 + x.2)).filter free
  cands.foldl min (cands.headD 0)

/-- The clusters of a partition that hold KV layers (R143). -/
def State.kvClusters (s : State) (p : Nat) : List Nat :=
  match (s.part p).table with
  | some ts => (s.part p).clusterList.filter (fun c => !(ts.kvLayers c).isEmpty)
  | none => []

/-- The size of a resident slot of cluster `c`: its span at M = RES_POS (R145). -/
def State.slotUnits (s : State) (p c : Nat) : Nat :=
  match (s.part p).table with
  | some ts => units64 (ts.spanBytes c (spanLen (s.girth p).resPos))
  | none => 0

/-- The spans of a request of partition `p` (R143–R145); none where they cannot be allocated. -/
def State.allocSpans (s : State) (p h : Nat) (streamed : Bool) (rslot maxlen : Nat) : Option (Tbl Nat) :=
  match (s.part p).table with
  | none => some []
  | some ts =>
    let cs := s.kvClusters p
    if streamed then
      let r := cs.foldl (fun (acc : List (Nat × Nat) × Tbl Nat) c =>
        let n := units64 (ts.spanBytes c (spanLen maxlen))
        let b := firstFit acc.1 n
        ((b, n) :: acc.1, put c b acc.2)) (s.streamedSpans, [])
      let top := (r.1.map (fun x => x.1 + x.2)).foldl max 0
      if top + units64 s.shardBytes ≤ stackKvUnits then some r.2 else none
    else
      let clash := s.ext.any (fun x =>
        x.1 ≠ handleIdx h && !x.2.spans.isEmpty && (s.entry x.1).part = p && (s.entry x.1).st ≠ .free &&
          !(s.entry x.1).streamed && (s.entry x.1).rslot = rslot)
      if clash ∨ ¬ cs.all (fun c => (rslot + 1) * s.slotUnits p c ≤ 1024) then none
      else some (cs.foldl (fun (t : Tbl Nat) c => put c (rslot * s.slotUnits p c) t) [])

/-- The entries that hold seats and resident slots in the girth of partition `p`: active requests that are not PAUSED, and
claims in flight (R182, R186). -/
def State.holders (s : State) (p except : Nat) : List Entry :=
  (s.ledger.filterMap (fun x =>
    if x.2.part = p ∧ x.2.st.active ∧ mkHandle x.1 x.2.gen ≠ except ∧
      (x.2.st ≠ .paused ∨ !(s.extn x.1).spans.isEmpty) then some x.2 else none)) ++
    ((s.girth p).claims.filter (fun c => c.handle ≠ except)).map (·.entry)

/-- The tier and resident slot of a request (R145): RESIDENT in the lowest free slot, else STREAMED with slot 0xFF. -/
def State.tierFor (s : State) (p except maxlen : Nat) : Bool × Nat :=
  let g := s.girth p
  let used := ((s.holders p except).filter (fun e => !e.streamed)).map (·.rslot)
  if maxlen ≤ g.resPos then
    match (List.range (min g.resCount 255)).find? (fun r => !used.contains r) with
    | some r => (false, r)
    | none => (true, 0xFF)
  else (true, 0xFF)

/-! ### Seats (R182) -/

/-- A free seat of `n` contiguous slots: the lowest decode row, then the lowest slot (R182). -/
def State.findSeat (s : State) (p except n : Nat) : Option (Nat × Nat) :=
  let w := (s.girth p).wheel
  let held := (s.holders p except).filter (fun e => !e.be && e.st ≠ .paused && e.row ≠ 0xFF)
  let fits (r k : Nat) : Bool :=
    k + n ≤ w.b && held.all (fun e => e.row ≠ r || k + n ≤ e.slot || e.slot + 1 + e.draft ≤ k)
  (List.range' w.pfRows (w.k - w.pfRows)).findSome? (fun r =>
    ((List.range w.b).find? (fits r)).map (fun k => (r, k)))

/-! ### The checks (R183, R185, R187, R188) -/

/-- The positions of the prompt of a request: at re-prefill the delivered tokens count as prompt (R201). -/
def Entry.prompt (e : Entry) : Nat := e.plen + e.tokens

/-- Rides that a prefill still takes (R182). -/
def ridesLeft (b : Nat) (e : Entry) : Nat := ceilDiv (e.prompt - e.l) b

/-- The bounds of a request under a wheel, in ticks (R185): `rides` its prompt's rides; a resume takes no prefill row (log 32). -/
def State.boundsUnder (s : State) (p : Nat) (w : Wheel) (rides : Nat) (row : Bool) (swap : Nat) : Nat × Nat :=
  let g := s.girth p
  let left (h : Nat) : Nat := ridesLeft w.b (s.entry (handleIdx h))
  let rem := (List.range w.pfRows).map (fun i => match find? i g.pfRow with
    | some h => left h
    | none => 0)
  let q := if row then rowFreeAfter rem (g.queue.map left) else 0
  (q * w.c + (rides + 1) * w.c + w.tDraft + w.tRing + swap, w.c)

/-- The wheels that a promise must hold under: the running one, and the new one while figures wait (R188). -/
def State.wheels (s : State) (p : Nat) : List Wheel :=
  let g := s.girth p
  if g.figs.isEmpty ∨ s.newWheel p = g.wheel then [g.wheel] else [g.wheel, s.newWheel p]

/-- What admission finds: a status (0 passes), the promise or the bounds, and a seat. -/
structure Judged where
  status : Nat
  ttft   : Nat
  tpt    : Nat
  row    : Nat
  slot   : Nat

/-- The bounds in whole microseconds under every wheel that counts, the larger of each (R185, R188). -/
def State.boundsUs (s : State) (p rides : Nat) (row : Bool) (swap : Nat) : Nat × Nat :=
  let bs := (s.wheels p).map (fun w => s.boundsUnder p w (ceilDiv rides w.b) row swap)
  (usUp ((bs.map (·.1)).foldl max 0), usUp ((bs.map (·.2)).foldl max 0))

/-- Checks 3–5 for a promised request (R183): `prompt` positions to prefill, `row` whether it takes a prefill row, `warned` whether
a WARN refuses it (R187). -/
def State.judgeSeat (s : State) (p except : Nat) (e : Entry) (prompt : Nat) (row warned : Bool) (ttft tpt : Nat) : Judged :=
  let g := s.girth p
  let (tb, pb) := s.boundsUs p prompt row g.swapTerm
  let (tb0, pb0) := s.boundsUs p prompt row 0
  let tooLong (m : Model) : Bool := e.maxlen > m.nCap || (m.resOnly && e.streamed)
  if tooLong g.model ∨ tooLong g.wheel.model ∨ (warned ∧ g.warn ≠ []) then ⟨0x03, tb, pb, 0xFF, 0⟩
  else match (if e.embed then some (0xFF, 0) else s.findSeat p except (1 + e.draft)) with
    | none => ⟨0x02, 0, 0, 0xFF, 0⟩
    | some (r, k) =>
      let a := if ttft = 0 then min tb (2 ^ 32 - 1) else ttft
      let b := if tpt = 0 then min pb (2 ^ 32 - 1) else tpt
      if tb ≤ a ∧ (e.embed ∨ pb ≤ b) then ⟨0, a, b, r, k⟩
      else if tb0 ≤ a ∧ (e.embed ∨ pb0 ≤ b) ∧ g.swapTerm ≠ 0 then ⟨0x05, tb, pb, 0xFF, 0⟩
      else ⟨0x03, tb, pb, 0xFF, 0⟩

/-! ### KV that moves (R159, R160, R163) -/

/-- The bytes of a region's committed part: element and exponent lines of positions 0 to L − 1, or the committed copy of a state
layer (R154, R159, R160). -/
def committedOff (d : AttnDesc) (m l o : Nat) : Bool :=
  if d.op = 1 then
    let nb := 2 ^ d.nbl
    o < 256 * nb * l || (256 * nb * m ≤ o && o < 256 * nb * m + 2 * nb * l)
  else o < 2 ^ 17

/-- The committed KV bytes that a request's spans hold, keyed by cluster · 2^40 + offset in the span. -/
def State.spanCells (s : State) (p h : Nat) : List Host.Cell :=
  match (s.part p).table with
  | none => []
  | some ts =>
    let e := s.entry (handleIdx h)
    let m := spanLen e.maxlen
    (s.extn (handleIdx h)).spans.flatMap (fun cb =>
      (ts.kvLayers cb.1).flatMap (fun d =>
        let off := ts.layerBase cb.1 d.layer m
        let base := kvKey e.streamed cb.1 (cb.2 * 2 ^ 16) + off
        (s.kv.filter (fun x => base ≤ x.1 && committedOff d m e.l (x.1 - base))).map
          (fun x => (cb.1 * 2 ^ 40 + off + (x.1 - base), x.2))))

/-- Saved KV bytes written into the spans that the request now holds (R163). -/
def State.restoreCells (s : State) (h : Nat) (cells : List Host.Cell) : State :=
  let e := s.entry (handleIdx h)
  let spans := (s.extn (handleIdx h)).spans
  { s with kv := cells.foldl (fun kv x =>
      match find? (x.1 / 2 ^ 40) spans with
      | some b => Memory.write kv (kvKey e.streamed (x.1 / 2 ^ 40) (b * 2 ^ 16 + x.1 % 2 ^ 40)) x.2
      | none => kv) s.kv }

/-- The lowest address at which `n` blocks fit into the pool ranges of partition `p` (R160, R298); none where the pool lacks
room (R161). -/
def State.poolFit (s : State) (p n : Nat) : Option Nat :=
  let used := s.ext.filterMap (fun x => if (s.entry x.1).part = p ∧ x.2.nblk ≠ 0 then some (x.2.pool, 4096 * x.2.nblk) else none)
  let fits (a : Nat) : Bool :=
    (s.part p).pools.any (fun r => r.1 ≤ a && a + 4096 * n ≤ r.1 + r.2) &&
      used.all (fun u => a + 4096 * n ≤ u.1 || u.1 + u.2 ≤ a)
  let cands := ((s.part p).pools.map (·.1) ++ used.map (fun u => u.1 + u.2)).filter fits
  match cands with
  | [] => none
  | a :: as => some (as.foldl min a)

/-! ### The claim round (R186) -/

/-- What the claim of an entry carries (R186, R218, R292, R342). -/
def claimOf (h : Nat) (e : Entry) (x : Ext) : ClaimMsg :=
  { handle := h, tier := e.streamed, rslot := e.rslot, maxlen := e.maxlen, draft := e.draft, classS := e.classS, embed := e.embed
    inlay := x.inlay, sel := x.sel, seed := e.seed, hist := x.hist, out := x.out, tag := e.tag, plen := e.plen
    tokens := e.tokens, lateOk := e.lateOk }

/-- An inlay that a request binds is loaded on this device (R342). -/
def State.inlayHere (s : State) (p : Nat) (i : Option Nat) : Bool :=
  match i with
  | some i => (find? i (s.part p).inlays).isSome
  | none => true

/-- The spans that a claim gives a request here: those it still holds after a pause, or new ones (R143, R163, R186). -/
def State.claimSpans (s : State) (p h : Nat) (streamed : Bool) (rslot maxlen : Nat) (inlay : Option Nat) (keep : Bool) :
    Option (Tbl Nat) :=
  if ¬ s.inlayHere p inlay then none
  else if keep ∧ ¬ (s.extn (handleIdx h)).spans.isEmpty ∧ (s.entry (handleIdx h)).streamed = streamed ∧
      (s.entry (handleIdx h)).rslot = rslot then some (s.extn (handleIdx h)).spans
  else s.allocSpans p h streamed rslot maxlen

/-- The extension as a claim builds it again after its stack was lost, from what the pommel has kept of the request's claim (R170). -/
def Ext.rebuilt (x : Ext) : Ext :=
  match x.carried with
  | some m => { x with inlay := m.inlay, sel := m.sel }
  | none => x

/-- The pommel opens a claim round (R186): its own spans first, then the claim round the girth; none where its own spans cannot
be allocated, or the inlay is not loaded on it (R342). -/
def State.openClaim (s : State) (p : Nat) (c : Pending) (x : Ext) : Option State :=
  let x := x.rebuilt
  match s.claimSpans p c.handle c.entry.streamed c.entry.rslot c.entry.maxlen x.inlay c.resume with
  | none => none
  | some sp =>
    let x := { x with spans := sp, carried := some (claimOf c.handle c.entry x) }
    let s := s.setExt (handleIdx c.handle) x
    let g := s.girth p
    some ((s.setGirth p { g with claims := g.claims ++ [c] }).rein p (.claim (claimOf c.handle c.entry x)))

/-- The claim that a message of the round belongs to. -/
def Girth.claimFor (g : Girth) (h : Nat) : Option Pending := g.claims.find? (fun c => c.handle = h)

/-- A claim round is over. -/
def State.closeClaim (s : State) (p h : Nat) : State :=
  let g := s.girth p
  s.setGirth p { g with claims := g.claims.filter (fun c => c.handle ≠ h) }

/-- The reply words of an accepted SUBMIT or RESUME (R296). -/
def acceptWords (h : Nat) (e : Entry) : List Nat :=
  [h, e.ttft, e.tpt, b2n e.streamed + 2 ^ 4 * e.draft]

end Sys2Proof.Machine
end

