-- ==== Sys2Proof/Machine/Requests.lean ====
section
/-!
DEFINITION. The request commands: SUBMIT, CANCEL, PAUSE, RESUME, QUERY, DROP (R183–R187, R296, R297), the claim round at the
pommel and at a member (R186), the promise model and the housekeeping floor (R179, R188, R192).
-/

namespace Sys2Proof.Machine

open Sys2Proof

/-! ### Before the checks (R184) -/

/-- What R184 refuses a SUBMIT or RESUME with: no tenant, not the pommel of a girth, a girth that does not run, a held one; and
REJECT_PROMISE after the report of a thermal stop (R387). -/
def State.girthJudge (s : State) (p : Nat) : Option Nat :=
  if s.sec.tenant.isNone then some 0x0C
  else if ¬ s.isPommel p then some 0x04
  else match (s.girth p).st with
    | .running => if (s.girth p).thermalStop then some 0x03 else none
    | .held => some 0x0F
    | _ => some 0x04

/-! ### SUBMIT -/

/-- The selection block of a SUBMIT: the defaults, or 64 bytes at SEL_ADDR; none where the address is refused (R272, R296). -/
def State.submitSel (s : State) (h : HostMem) (w : List Nat) : Option (List Nat) :=
  let a := dword w 10
  if a = 0 then some selDefault
  else if ¬ addrOk a 64 then none
  else let bs := s.readMem h a 64; some ((List.range 16).map (wordAt bs))

/-- Check 1 of R183, with the address and format rules of R218, R272, R292 and R296. -/
def submitOk (w sel : List Nat) : Bool :=
  let plen := bits (nthW w 4) 23 0
  let maxlen := bits (nthW w 5) 23 0
  let embed := pktFlag w 12
  decide (2 ≤ maxlen ∧ maxlen ≤ 2 ^ 20 ∧ 1 ≤ plen ∧ (plen < maxlen ∨ (embed ∧ plen ≤ maxlen)) ∧
    bits (nthW w 4) 27 24 ≤ 8 ∧ (pktFlag w 9 → bits (nthW w 5) 31 24 = 0) ∧
    dword w 2 % 64 = 0) && addrOk (dword w 2) (4 * maxlen) && selOk sel (pktExpert w) &&
    (if embed then decide (Config.pooledBytes (pktPart w) ≤ nthW w 15) && addrOk (dword w 13) (nthW w 15)
     else nthW w 13 = 0 && nthW w 14 = 0 && nthW w 15 = 0)

/-- The lowest free index of the girth's ledger share (R166): FREE, and claimed by no claim in flight. -/
def State.freeIndex (s : State) (p : Nat) : Option Nat :=
  let base := (((s.girth p).record.map (·.ledger)).getD 0) * 2 ^ 16
  (List.range (2 ^ 16)).findSome? (fun i =>
    if (s.entry (base + i)).st = .free ∧ ¬ (s.girth p).claims.any (fun c => handleIdx c.handle = base + i)
    then some (base + i) else none)

/-- The partition's table set holds a state layer (R155). -/
def TableSet.hasState (ts : TableSet) : Bool := ts.attn.any (fun x => x.2.any (fun d => d.op = 2 || d.op = 3))

/-- DRAFT of an admitted request (R155, R183, R219). -/
def State.draftFor (s : State) (p d : Nat) (embed : Bool) : Nat :=
  if embed ∨ ((s.part p).table.map (·.hasState)).getD false then 0 else min d (s.dmax p)

/-- The entry of a SUBMIT before its promise and seat are known (R167, R296). -/
def State.submitEntry (s : State) (w : List Nat) (i : Nat) : Entry :=
  let p := pktPart w
  let maxlen := bits (nthW w 5) 23 0
  let promise := pktFlag w 9
  let (streamed, rslot) := s.tierFor p (2 ^ 32) maxlen
  { st := .admitted, part := p, classS := pktFlag w 11, streamed, lateOk := pktFlag w 10, be := !promise, embed := pktFlag w 12
    gen := (s.entry i).gen, draft := s.draftFor p (bits (nthW w 4) 27 24) (pktFlag w 12), maxlen, rslot
    plen := bits (nthW w 4) 23 0, row := 0xFF, tag := pktTag w, seed := dword w 8, prio := bits (nthW w 5) 31 24 }

/-- The extension of a SUBMIT (R169, R218, R292). -/
def submitExt (w sel : List Nat) : Ext :=
  { sel, hist := dword w 2, out := dword w 13, outBytes := nthW w 15, subPart := pktPart w
    inlay := if bit (nthW w 12) 12 then some (bits (nthW w 12) 11 0) else none }

/-- The reply to a request that admission refuses (R296): the bounds with REJECT_PROMISE, else zero. -/
def rejectWords (j : Judged) : List Nat := if j.status = 0x03 then [0, min j.ttft (2 ^ 32 - 1), min j.tpt (2 ^ 32 - 1), 0] else []

/-- The reply words of a refusal of `girthJudge`: a REJECT_PROMISE carries the bounds of R185 like any other (R296, R387). -/
def State.stopBounds (s : State) (p st rides : Nat) (row : Bool) : List Nat :=
  let b := s.boundsUs p rides row (s.girth p).swapTerm
  rejectWords ⟨st, b.1, b.2, 0xFF, 0⟩

/-- SUBMIT (R166, R183–R187, R189, R296): after the refusals of R184 and the checks of R183, the claim goes round the girth, and the
reply waits for its return. -/
def execSubmit (b : Nat) (h : HostMem) (s : State) : Result :=
  command b 0x01 (fun src w s =>
    let p := pktPart w
    match s.girthJudge p, s.submitSel h w with
    | some st, _ => s.reply src w st (s.stopBounds p st (bits (nthW w 4) 23 0) true)
    | none, none => s.reply src w 0x04
    | none, some sel =>
      let s := if dword w 10 = 0 then s else s.asks (dword w 10) 64
      if ¬ submitOk w sel then s.reply src w 0x04
      else match s.freeIndex p with
        | none => s.reply src w 0x02
        | some i =>
          let hd := mkHandle i (s.entry i).gen
          let e := s.submitEntry w i
          let j : Judged := if e.be then ⟨0, 0, 0, 0xFF, 0⟩ else s.judgeSeat p hd e e.plen true true (nthW w 6) (nthW w 7)
          if j.status ≠ 0 then s.reply src w j.status (rejectWords j)
          else
            let e := { e with ttft := j.ttft, tpt := j.tpt, row := j.row, slot := j.slot }
            match s.openClaim p { src := some src, words := w, handle := hd, resume := false, entry := e } (submitExt w sel) with
            | none => s.reply src w 0x02
            | some s => s.startCmd src w) s

/-! ### The claim at the pommel (R186) -/

/-- An admitted request that takes a prefill row is queued for one (R182, R185). -/
def State.queuePrefill (s : State) (p h : Nat) : State :=
  let g := s.girth p
  s.setGirth p ({ g with queue := g.queue ++ [h] }).assign

/-- A claim that ends without success (R186): the members and this device free what they allocated, and the command is answered; a
re-admission ends its request FAILED with VOID = RESTART (R200, R201). -/
def State.claimFails (s : State) (p : Nat) (c : Pending) (status : Nat) : State :=
  let s := s.closeClaim p c.handle
  match c.src with
  | none => (s.voidPromise c.handle 2).endRequest c.handle true 0x0A
  | some src =>
    let x := s.extn (handleIdx c.handle)
    let held := c.resume ∧ ¬ x.poolData
    let s := s.setExt (handleIdx c.handle) { x with spans := if held then x.spans else [] }
    (s.rein p (.release c.handle c.resume)).reply src c.words status

/-- CLAIM_RETURN (R163, R171, R173, R186, R201): a claim that comes back to the pommel makes the promise at this tick. -/
def execClaimReturn (p handle : Nat) (s : State) : Result :=
  onPart p (
    match s.isPommel p, (s.girth p).claimFor handle with
    | true, some c =>
      let i := handleIdx handle
      let x := s.extn i
      if (s.girth p).st ≠ .running then s
      else match c.src with
        | some src =>
          if c.resume ∧ (s.entry i).st ≠ .paused then s.claimFails p c 0x04
          else
            let e := { c.entry with tRef := s.tick, status := 0, void := if c.resume then (s.entry i).void else 0 }
            let s := (s.closeClaim p handle).setEntry i e
            let s := s.setExt i { x with admTick := s.tick, migrating := false, migWait := false,
                                         nblk := if x.poolData then x.nblk else 0 }
            let s := if c.resume then (if x.poolData ∧ x.nblk ≠ 0 then s.emit (.poolRead p handle x.nblk) else s)
              else if e.be then s else s.queuePrefill p handle
            s.busyMark.reply src c.words 0x01 (acceptWords handle e)
        | none =>
          if (s.entry i).st ≠ .prefill then (s.closeClaim p handle).rein p (.release handle false)
          else
          let e := { c.entry with tRef := s.tick, kbase := c.entry.tokens, pend := (s.entry i).pend }
          let s := ((s.closeClaim p handle).setEntry i e).setExt i { x with admTick := s.tick, carried := x.carried }
          let s := if e.be then s else s.queuePrefill p handle
          s.notice x.subPart 2 0x07 e.tag [handle, 0, e.tokens, e.void]
    | _, _ => s)

/-- REFUSE (R186, R256): at the pommel a refused claim ends; a member passes the refusal up the tree. -/
def execRefuse (p handle : Nat) (s : State) : Result :=
  onPart p (
    if s.isPommel p then
      match (s.girth p).claimFor handle with
      | some c => s.claimFails p c 0x02
      | none => s
    else s.rein p (.refuse handle))

/-! ### The claim at a member (R168, R186) -/

/-- The entry that a member writes for a claim (R168): a re-claim of a restarted request keeps its L. -/
def memberEntry (p : Nat) (m : ClaimMsg) (st : ReqState) (l : Nat) : Entry :=
  { st, part := p, streamed := m.tier, gen := handleGen m.handle, draft := m.draft, l, maxlen := m.maxlen, rslot := m.rslot, row := 0 }

/-- CLAIM (R143–R145, R168, R169, R186, R209, R211, R218, R292, R342): a member allocates the request's spans and writes its entry, or
refuses, and the claim goes on round the girth. Of the members, the cantle alone holds the selection parameters. -/
def execClaim (p : Nat) (m : ClaimMsg) (s : State) : Result :=
  onPart p (
    if s.isPommel p ∨ (s.girth p).record.isNone ∨ (s.girth p).st ≠ .running then s
    else
      let i := handleIdx m.handle
      let old := s.entryOf m.handle
      let paused := (old.map (fun e => decide (e.st = .paused))).getD false
      match s.claimSpans p m.handle m.tier m.rslot m.maxlen m.inlay paused with
      | none => s.rein p (.refuse m.handle)
      | some sp =>
        let x := s.extn i
        let moved := paused ∧ ¬ x.spans.isEmpty ∧ x.spans ≠ sp
        let cells := if moved then s.spanCells p m.handle else x.saved
        let e := memberEntry p m (if paused then .resuming else if old.isSome then .prefill else .admitted)
          (if paused then (old.map (·.l)).getD 0 else 0)
        let x' : Ext := if old.isSome then { x with spans := sp, saved := cells, carried := some m,
                                                    claimed := paused && (x.spans.isEmpty || decide (x.spans ≠ sp)),
                                                    migrating := false, migWait := false, nblk := if x.poolData then x.nblk else 0 }
          else { spans := sp, carried := some m }
        let x' := { x' with inlay := m.inlay, sel := if s.isCantle p then m.sel else [], hist := m.hist, out := m.out, got := []
                            decided := [], selDone := false, noPost := false, seen := 0, nextStep := none }
        let s := ((s.setEntry i e).setExt i x').busyMark
        let s := if paused then s else { s with wear := del i s.wear }
        let s := if paused ∧ x.poolData ∧ x.nblk ≠ 0 then s.emit (.poolRead p m.handle x.nblk) else s
        s.rein p (.claim m))

/-- RELEASE (R168, R171, R186): a member frees the request; the release of a refused resume takes back what its claim
allocated and leaves the request PAUSED (R163, log 34). -/
def execRelease (p handle : Nat) (undo : Bool) (s : State) : Result :=
  onPart p (
    if s.isPommel p then s
    else match s.entryOf handle with
      | none => s
      | some e =>
        let i := handleIdx handle
        let x := s.extn i
        let s := if undo ∧ e.st = .resuming then
            (s.setEntry i { e with st := .paused }).setExt i
              { x with spans := if x.claimed then [] else x.spans, claimed := false }
          else s.memberFree handle
        s.rein p (.release handle undo))

/-! ### CANCEL, PAUSE, RESUME, QUERY, DROP (R297) -/

/-- The entry that a command's HANDLE names (R165) in the command's partition. -/
def State.named (s : State) (w : List Nat) : Option Entry :=
  (s.entryOf (nthW w 2)).bind (fun e => if e.part = pktPart w then some e else none)

/-- A request is cancelled at the pommel (R163, R171, R199, R268, R297): a step in flight completes first, and so does a draft run (log 35), unless
the girth is held. -/
def State.cancelRequest (s : State) (h : Nat) : State :=
  match s.entryOf h with
  | none => s
  | some e =>
    if ¬ e.st.active then s
    else if ((s.extn (handleIdx h)).inFlight ∨ (s.extn (handleIdx h)).draftAt.isSome) ∧ (s.girth e.part).st ≠ .held then
      (s.setEntry (handleIdx h) { e with pend := .cancel }).rein e.part (.stop (.cancel h))
    else s.endRequest h false 0x09

/-- CANCEL (R165, R199, R297, R305): an ended request is left unchanged, and the reply gives its status. A member other than the
pommel carries the stop to the pommel. -/
def cancelCmd (src : CmdSrc) (w : List Nat) (s : State) : State :=
  match s.named w with
  | none => s.reply src w 0x04
  | some e =>
    let h := nthW w 2
    let s := if s.isPommel e.part ∨ (s.girth e.part).record.isNone then s.cancelRequest h else s.reinUp e.part (.stop (.cancel h))
    s.reply src w 0x00 [h, (s.entry (handleIdx h)).status]

/-- CANCEL from a ring (R284, R297). -/
def execCancel (b : Nat) (s : State) : Result := command b 0x02 cancelCmd s

/-- PAUSE (R159, R162, R297): PEND takes the pause, and its time to live is held. -/
def execPause (b : Nat) (s : State) : Result :=
  command b 0x03 (fun src w s =>
    match s.named w with
    | none => s.reply src w 0x04
    | some e =>
      let h := nthW w 2
      let i := handleIdx h
      if ¬ s.isPommel e.part ∨ (e.st ≠ .prefill ∧ e.st ≠ .decode) then s.reply src w 0x04
      else
        let ttl := if nthW w 3 = 0 then (s.part e.part).ttlMs else nthW w 3
        let s := s.setEntry i { e with pend := if e.pend = .cancel then .cancel else .pause }
        (s.setExt i { s.extn i with ttlMs := ttl }).reply src w 0x01 [h]) s

/-- The tier of a resumed request: its spans' own while this device still holds them, else a new one (R145, R163). -/
def State.resumeTier (s : State) (p h : Nat) (e : Entry) : Bool × Nat :=
  if (s.extn (handleIdx h)).spans.isEmpty then s.tierFor p h e.maxlen else (e.streamed, e.rslot)

/-- RESUME (R163, R165, R184, R185, R297): admission with a new promise, then the claim round; refusals leave the request PAUSED. A WARN
refuses a promised RESUME as it does a promised SUBMIT: R187 names SUBMIT alone, and R163 resumes through admission (DESIGN CHOICE, log 135). -/
def execResume (b : Nat) (s : State) : Result :=
  command b 0x04 (fun src w s =>
    let p := pktPart w
    match s.girthJudge p, s.named w with
    | some st, _ => s.reply src w st (s.stopBounds p st 0 false)
    | none, none => s.reply src w 0x04
    | none, some e =>
      let h := nthW w 2
      if e.st ≠ .paused ∨ ((s.girth p).claimFor h).isSome then s.reply src w 0x04
      else
        let (streamed, rslot) := s.resumeTier p h e
        let e := { e with streamed, rslot, be := !pktFlag w 9 }
        let j : Judged := if e.be then ⟨0, 0, 0, 0xFF, 0⟩ else s.judgeSeat p h e 0 false true (nthW w 3) (nthW w 4)
        if j.status ≠ 0 then s.reply src w j.status (rejectWords j)
        else
          let e := { e with st := .resuming, ttft := j.ttft, tpt := j.tpt, row := j.row, slot := j.slot, kbase := e.tokens, pend := .none }
          match s.openClaim p { src := some src, words := w, handle := h, resume := true, entry := e } (s.extn (handleIdx h)) with
          | none => s.reply src w 0x02
          | some s => s.startCmd src w) s

/-- STATE as a number (R167). -/
def ReqState.num : ReqState → Nat
  | .free => 0 | .admitted => 1 | .prefill => 2 | .decode => 3 | .paused => 4 | .resuming => 5 | .done => 6 | .failed => 7

/-- PEND as a number (R167). -/
def Pend.num : Pend → Nat
  | .none => 0 | .pause => 1 | .cancel => 2

/-- The 16 words of a ledger entry (R167). -/
def Entry.words (e : Entry) : List Nat :=
  [e.st.num + 2 ^ 4 * e.part + 2 ^ 8 * b2n e.classS + 2 ^ 9 * b2n e.streamed + 2 ^ 10 * b2n e.lateOk + 2 ^ 11 * b2n e.be +
     2 ^ 12 * b2n e.embed + 2 ^ 13 * e.pend.num + 2 ^ 15 * b2n e.halt + 2 ^ 16 * e.gen + 2 ^ 28 * e.draft,
   e.l, e.maxlen + 2 ^ 24 * e.rslot, e.plen + 2 ^ 24 * e.row, e.ttft, e.tpt, e.tRef % 2 ^ 32, e.tRef / 2 ^ 32,
   e.tokens + 2 ^ 24 * e.slot, e.budget, e.tIn, e.tag, e.seed % 2 ^ 32, e.seed / 2 ^ 32,
   e.status + 2 ^ 8 * e.void + 2 ^ 16 * e.restarts, e.prio + 2 ^ 8 * e.kbase]

/-- The 48 words of a ledger extension (R169, R218); words 36–37 hold SEED at the cantle only. -/
def Ext.words (x : Ext) (seed : Nat) : List Nat :=
  (List.range 16).map (fun c => match find? c x.spans with
    | some b => b + 2 ^ 24
    | none => 0) ++
  [x.pool % 2 ^ 32, x.pool / 2 ^ 32, x.nblk, x.pepoch,
   match x.inlay with
   | some i => i + 2 ^ 12
   | none => 0,
   x.late, x.drafted, x.accepted] ++
  (List.range 11).map (nthW x.sel) ++ [x.ld, seed % 2 ^ 32, seed / 2 ^ 32, 0, 0] ++ List.replicate 8 0

/-- QUERY (R165, R172, R297): the state and counts of a request; a nonzero DEST takes the entry and the extension. With TRUSTED = 1, a
non-secure mailbox names no host memory (R417). -/
def queryCmd (src : CmdSrc) (w : List Nat) (s : State) : State :=
  match s.named w with
  | none => s.reply src w 0x04
  | some e =>
    let h := nthW w 2
    let x := s.extn (handleIdx h)
    let dest := dword w 3
    if dest ≠ 0 ∧ ¬ addrOk dest 256 then s.reply src w 0x04
    else if dest ≠ 0 ∧ s.trusted ∧ ¬ s.trustedPath src then s.reply src w 0x0B
    else
      let seed := if s.isCantle e.part then (x.carried.map (·.seed)).getD e.seed else 0
      let s := if dest = 0 then s else s.writeMem dest (wordBytes (e.words ++ x.words seed))
      s.reply src w 0x00 [h, e.st.num + 2 ^ 8 * e.void + 2 ^ 16 * e.status + 2 ^ 24 * b2n e.streamed + 2 ^ 25 * b2n e.halt,
        e.l, e.tokens, x.late, e.restarts]

/-- QUERY from a ring (R284, R297). -/
def execQuery (b : Nat) (s : State) : Result := command b 0x05 queryCmd s

/-- DROP (R165, R171, R172, R297): a DONE or FAILED entry goes to FREE with the next generation. -/
def execDrop (b : Nat) (s : State) : Result :=
  command b 0x06 (fun src w s =>
    match s.named w with
    | none => s.reply src w 0x04
    | some e =>
      let h := nthW w 2
      if e.st ≠ .done ∧ e.st ≠ .failed then s.reply src w 0x04
      else ((s.setExt (handleIdx h) {}).setEntry (handleIdx h) { gen := (e.gen + 1) % 4096 }).reply src w 0x00 [h]) s

/-! ### Expiry and re-admission -/

/-- TTL_EXPIRY (R162, R163, R171): a paused request whose time to live has passed ends EXPIRED_TTL; in the tick of expiry itself a RESUME still
prevails. -/
def execTtlExpiry (p handle : Nat) (s : State) : Result :=
  onPart p (match s.entryOf handle with
    | some e => if e.part = p ∧ s.isPommel p ∧ e.st = .paused ∧ e.tRef < s.tick then s.endRequest handle false 0x08 else s
    | none => s)

/-- READMIT (R182, R183, R200, R201, R288, R399): a restarted request is admitted again from its prompt and delivered tokens; where the
promise no longer holds it is served best-effort at the highest priority, and so it is where check 3 or 4 of R183 fails (N_CAP, RES_ONLY, no
free seat), which R201 does not name; a WARN refuses no re-admission (DESIGN CHOICE, logs 135, 136). -/
def execReadmit (p handle : Nat) (s : State) : Result :=
  onPart p (
    let g := s.girth p
    match s.entryOf handle with
    | none => s
    | some e =>
      if ¬ s.isPommel p ∨ g.st ≠ .running ∨ g.thermalStop ∨ handle ∉ g.readmits ∨ e.st ≠ .prefill then s
      else
        let s := s.setGirth p { g with readmits := g.readmits.filter (· ≠ handle) }
        let (streamed, rslot) := s.tierFor p handle e.maxlen
        let e := { e with streamed, rslot, row := 0xFF, slot := 0 }
        let promised := decide (e.ttft ≠ 0)
        let j : Judged := if promised then s.judgeSeat p handle e e.prompt true false e.ttft e.tpt else ⟨0, 0, 0, 0xFF, 0⟩
        let e := if promised ∧ j.status = 0 then { e with be := false, row := j.row, slot := j.slot }
          else if promised then { e with be := true, prio := 255 } else { e with be := true }
        match s.openClaim p { src := none, words := [], handle, resume := false, entry := e }
            { s.extn (handleIdx handle) with spans := [] } with
        | some s => s.setEntry (handleIdx handle) e
        | none => (s.voidPromise handle 2).endRequest handle true 0x0A)

/-! ### Promise model and housekeeping floor -/

/-- PROMISE_MODEL_SET (R179, R188, R286, R300): the pommel's promise model; the running wheel keeps its figures until it
stops. -/
def execPromiseModelSet (b : Nat) (s : State) : Result :=
  command b 0x81 (fun src w s =>
    let p := pktPart w
    let g := s.girth p
    let fp := bits (nthW w 2) 9 0
    let ncap := bits (nthW w 3) 20 0
    let pf := bits (nthW w 4) 7 0
    if ¬ s.isPommel p ∨ fp < 400 ∨ 800 < fp ∨ ncap < 64 ∨ 2 ^ 20 < ncap ∨ (g.wheel.k ≠ 0 ∧ g.wheel.k ≤ pf) then s.reply src w 0x04
    else
      let m : Model := { fpMhz := fp, nCap := ncap, resOnly := bit (nthW w 2) 16, pfRows := pf, tDraft := nthW w 5 }
      ((s.setGirth p { g with model := m }).wheelRest p).reply src w 0x00) s

/-- HOUSEKEEP_SET (R191, R192, R300): the floor of a partition's clusters; in a girth whose wheel may run it takes effect when the
wheel stops, and the pommel learns of it over the rein tree. -/
def execHousekeepSet (b : Nat) (s : State) : Result :=
  command b 0x85 (fun src w s =>
    let p := pktPart w
    let q := s.part p
    let perm := nthW w 2
    let chunk := nthW w 3
    let st := (s.girth p).st
    if ¬ q.defined ∨ perm < 10 ∨ 250 < perm ∨ chunk < 25 ∨ 500 < chunk then s.reply src w 0x04
    else if (s.girth p).record.isNone ∨ st = .unset ∨ st = .set ∨ st = .linked ∨ st = .stopped then
      (s.setPart p { q with hkPerm := perm, hkChunk := chunk, hkNext := none }).reply src w 0x00
    else
      let g := s.girth p
      let s := s.setPart p { q with hkNext := some (perm, chunk) }
      let s := if s.isPommel p then
          s.setGirth p { g with floors := put 0 (perm, chunk) g.floors }
        else s.rein p (.hk perm chunk)
      (s.wheelRest p).reply src w 0x00) s

end Sys2Proof.Machine
end

