-- ==== Sys2Proof/Machine/Beats.lean ====
section
/-!
DEFINITION. Beats: their issue at the pommel (R181, R182, R189, R190, R196), their start and their results (R91, R177, R252, R253),
verdicts and commits (R148, R171, R197–R199, R226, R227), and pauses (R159–R163).
-/

namespace Sys2Proof.Machine

open Sys2Proof

/-! ### BEAT_ISSUE (R181) -/

/-- One request's part of a beat: handle, first position, positions, and the budget it is issued with. -/
structure Ride where
  handle : Nat
  first  : Nat
  n      : Nat
  budget : Nat
  deriving DecidableEq, Repr

/-- A request waits for its next step: it has no step in flight, its drafting is done, and it does not pause (R159, R181, R228). -/
def State.backReady (s : State) (h : Nat) (e : Entry) : Bool :=
  let x := s.extn (handleIdx h)
  !x.inFlight && (e.st ≠ .decode || e.draft = 0 || x.drafted1)

/-- A request may ride: not held, not waiting for its re-admission, and not about to pause or cancel (R159, R199, R268). -/
def State.mayRide (s : State) (p h : Nat) (e : Entry) : Bool :=
  !e.halt && !(s.girth p).readmits.contains h && ((s.girth p).claimFor h).isNone &&
    (e.st = .admitted || e.st = .prefill || (e.st = .decode && e.pend = .none))

/-- The promised requests seated in row `r` of the wheel, in seat order (R181, R182). -/
def State.seated (s : State) (p r : Nat) : List Nat :=
  let g := s.girth p
  if r < g.wheel.pfRows then
    match find? r g.pfRow with
    | some h => [h]
    | none => []
  else
    let hs := s.handlesOf p (fun e => !e.be && e.st = .decode && e.row = r)
    (List.range g.wheel.b).filterMap (fun k => hs.find? (fun h => (s.entry (handleIdx h)).slot = k))

/-- The positions of a request's next step: a prefill ride of at most `room` positions, or a decode step with its drafts (R182, R221,
R223). -/
def State.stepLen (s : State) (h : Nat) (e : Entry) (room : Nat) : Nat :=
  if e.st = .decode then 1 + (s.extn (handleIdx h)).drafts.length else min room (e.prompt - e.l)

/-- The best-effort requests of partition `p`: highest PRIO first, then lowest index (R189). -/
def State.bestEffort (s : State) (p : Nat) : List Nat :=
  let hs := s.handlesOf p (fun e => e.be && (e.st = .admitted || e.st = .prefill || e.st = .decode))
  (List.range 256).flatMap (fun k => hs.filter (fun h => (s.entry (handleIdx h)).prio + k = 255))

/-- The best-effort rides that fill `room` free slots of beat `j` (R189). -/
def State.fillRides (s : State) (p j : Nat) : Nat → List Nat → List Ride
  | _, [] => []
  | room, h :: hs =>
    let e := s.entry (handleIdx h)
    let n := s.stepLen h e room
    let turn := j / max 1 (s.girth p).wheel.k
    if n = 0 ∨ room < n ∨ ¬ s.mayRide p h e ∨ ¬ s.backReady h e ∨
        (e.st ≠ .decode ∧ (s.extn (handleIdx h)).rideTurn = some turn) then s.fillRides p j room hs
    else { handle := h, first := e.l, n, budget := 2 ^ 30 } :: s.fillRides p j (room - n) hs

/-- The step of a request starts at the pommel (R171, R176, R177). -/
def State.startRide (s : State) (p j : Nat) (r : Ride) : State :=
  let i := handleIdx r.handle
  let e := s.entry i
  let x := s.extn i
  let s := s.setEntry i { e with st := if e.st = .admitted then .prefill else e.st, budget := r.budget, tIn := s.tick % 2 ^ 32 }
  let s := s.setExt i { x with inFlight := true, stepPos := r.n, missed := budMissed r.budget, late1 := false
                               rideTurn := some (j / max 1 (s.girth p).wheel.k) }
  if e.st = .decode ∧ e.draft > 0 then s.sendDraft p { handle := r.handle, classS := e.classS, toks := x.drafts } else s

/-- The slots of a beat from its rides: slot, handle, position, budget (R91, R182, R223). -/
def rideSlots (rs : List Ride) : List (Nat × Nat × Nat × Nat) :=
  ((rs.flatMap (fun r => (List.range r.n).map (fun k => (r.handle, r.first + k, r.budget)))).zipIdx).map
    (fun x => (x.2, x.1.1, x.1.2.1, x.1.2.2))

/-- The step log takes an entry for each slot of a beat that starts; its oldest entries go when it is full (R363). -/
def State.logBeat (s : State) (p : Nat) (slots : List (Nat × Nat × Nat × Nat)) : State :=
  let q := s.part p
  let l := q.stepLog ++ slots.map (fun x => (x.2.1, s.tick))
  s.setPart p { q with stepLog := l.drop (l.length - 131072) }

/-- The vectors of a beat that the pommel embeds, with their headers (R54, R92, R231); `emb` gives one vector per slot (log 30). -/
def embedded (slots : List (Nat × Nat × Nat × Nat)) (emb : List (List Block)) : List (VecHdr × List Block) :=
  slots.map (fun x =>
    let bs := emb.getD x.1 []
    ({ eref := (bs.map (·.e8)).foldl max 0, blocks := bs.length, part := false, first := 0, handle := x.2.1, pos := x.2.2.1
       slot := x.1, last := x.1 + 1 = slots.length, budget := x.2.2.2 }, bs))

/-- The header of a draft run's vector (R54, R220): one slot, with LAST. -/
def draftHdr (h pos : Nat) (bs : List Block) : VecHdr :=
  { eref := (bs.map (·.e8)).foldl max 0, blocks := bs.length, part := false, first := 0, handle := h, pos, slot := 0, last := true, budget := 0 }

/-- The seated requests of a beat whose deadline has passed end, unless late delivery is asked for (R196). -/
def State.deadlineCheck (s : State) (hs : List Nat) : State :=
  hs.foldl (fun s h =>
    let e := s.entry (handleIdx h)
    if e.st.active ∧ e.deadline < s.tick ∧ ¬ e.lateOk then s.endRequest h false 0x06 else s) s

/-- The promised rides of a row (R181, R182, R196). -/
def State.seatRides (s : State) (p : Nat) (hs : List Nat) : List Ride :=
  (hs.filter (fun h => (s.entry (handleIdx h)).st.active)).map (fun h =>
    let e := s.entry (handleIdx h)
    { handle := h, first := e.l, n := s.stepLen h e (s.girth p).wheel.b, budget := e.issueBudget s.tick })

/-- The pommel issues beats: its girth runs, the wheel has figures, a request is active, and nothing holds the device (R181,
R262, R387). -/
def State.issues (s : State) (p : Nat) : Bool :=
  let g := s.girth p
  s.isPommel p && g.st = .running && s.runs p && !s.hk.stop && !g.thermalStop && g.wheel.k ≠ 0 && g.wheel.tGap ≠ 0 &&
    ((s.part p).swap.map (·.held.isEmpty)).getD true && !(s.activeOf p).isEmpty

/-- The cadence tick of the next beat (R181): now where the wheel is stopped. -/
def State.cadence (s : State) (p : Nat) : Nat :=
  match (s.girth p).t0 with
  | some t => t + (s.girth p).beatNo * (s.girth p).wheel.tGap
  | none => s.tick

/-- The draft runs of a beat's prefill rides, as header and vector: the pommel runs the draft model over a ride's positions as part of the ride
(R220). The vectors of the draft model follow those of the slots in `emb` (log 30). -/
def State.rideDrafts (s : State) (slots : List (Nat × Nat × Nat × Nat)) (emb : List (List Block)) : List (VecHdr × List Block) :=
  let mine := slots.filter (fun x => (s.entry (handleIdx x.2.1)).st ≠ .decode && (s.entry (handleIdx x.2.1)).draft ≠ 0)
  mine.zipIdx.map (fun x =>
    let bs := emb.getD (slots.length + x.2) []
    (draftHdr x.1.2.1 x.1.2.2.1 bs, bs))

/-- BEAT_ISSUE (R171, R176, R181, R182, R189, R190, R196, R220, R223, R255): the next beat of the wheel leaves once every promised request
of its row is back, or at its cadence tick; free slots take best-effort steps. -/
def execBeatIssue (p : Nat) (emb : List (List Block)) (s : State) : Result :=
  onPart p (
    let g := s.girth p
    if ¬ s.issues p then s
    else
      let j := g.beatNo
      let hs := (s.seated p (j % g.wheel.k)).filter (fun h => s.mayRide p h (s.entry (handleIdx h)))
      let cad := s.cadence p
      if s.tick < cad ∧ ¬ hs.all (fun h => s.backReady h (s.entry (handleIdx h))) then s
      else
        let hs := hs.filter (fun h => s.backReady h (s.entry (handleIdx h)))
        let s := s.deadlineCheck hs
        let seats := s.seatRides p hs
        let free := g.wheel.b - (seats.map (·.n)).sum
        let fill := match g.margin with
          | some m => decide (g.wheel.tGap ≤ 8 * m)
          | none => true
        let rides := seats ++ (if fill then s.fillRides p j free (s.bestEffort p) else [])
        let slots := rideSlots rides
        let s := rides.foldl (fun s r => s.startRide p j r) s
        let g := s.girth p
        let s := s.setGirth p { g with
          t0 := some (g.t0.getD s.tick), beatNo := j + 1, lastIssue := some s.tick, margin := some (cad - s.tick)
          issued := if slots.isEmpty then g.issued else g.issued ++ [{ j, tick := s.tick, slots }] }
        if slots.isEmpty then s.wheelRest p
        else
          let q := s.part p
          let s := s.setPart p { q with
            beats := q.beats ++ [{ arrived := [], ready := [], started := some s.tick, slots, ended := [] }]
            embedQ := q.embedQ ++ embedded slots emb }
          let s := ((s.logBeat p slots).busyMark)
          let s := if s.braking ∧ s.pwr.beyond then s.markBraked else s
          (s.rideDrafts slots emb).foldl (fun s d => s.issueDraft p d.1 d.2) (s.feed 2 p))

/-! ### BEAT_START and BEAT_OUT (R177, R252, R253) -/

/-- The first beat that has not started satisfies a test; it is replaced by `f` of it. -/
def startFirst (ok : Beat → Bool) (f : Beat → Beat) : List Beat → Option (Beat × List Beat)
  | [] => none
  | b :: bs =>
    if b.started.isNone then (if ok b then some (b, f b :: bs) else none)
    else (startFirst ok f bs).map (fun r => (r.1, b :: r.2))

/-- A step of `n` positions is the one in progress here: BUDGET, T_IN and the positions it writes (R148, R167, R177). -/
def State.beginStep (s : State) (i n bud tIn : Nat) : State :=
  (s.setEntry i { s.entry i with budget := bud, tIn }).setExt i
    { s.extn i with inFlight := true, stepPos := n, missed := budMissed bud, late1 := false, noPost := false, decided := [], selDone := false
                    got := [], seen := 0, nextStep := none }

/-- A step of handle `h` starts at a member (R148, R228, R253). Where the step before it still awaits its commit, it takes its turn at the
commit. -/
def State.startStep (s : State) (slots : List (Nat × Nat × Nat × Nat)) (h : Nat) : State :=
  let i := handleIdx h
  match s.entryOf h with
  | none => s
  | some _ =>
    let mine := slots.filter (fun x => x.2.1 = h)
    let bud := (mine.head?.map (·.2.2.2)).getD 0
    let x := s.extn i
    if x.inFlight then s.setExt i { x with nextStep := some (mine.length, bud, s.tick % 2 ^ 32) }
    else s.beginStep i mine.length bud (s.tick % 2 ^ 32)

/-- BEAT_START (R91, R177, R252, R253, R291, R334, R363, R387, R444): the partition's next beat starts at a member. -/
def execBeatStart (p : Nat) (s : State) : Result :=
  onPart p (
    let q := s.part p
    if s.isPommel p ∨ ¬ s.runs p ∨ (s.girth p).st ≠ .running ∨ ¬ ((q.swap.map (·.held.isEmpty)).getD true) ∨
        (s.hk.stop ∧ p ∉ s.hk.drain) ∨ (s.isCantle p ∧ 1024 ≤ (s.ring p).tqWait.length) then s
    else match startFirst (s.messageComplete p) (fun b => { b with started := some s.tick }) q.beats with
      | none => s
      | some (b, beats) =>
        let s := s.setPart p { q with beats }
        let s := { s with hk := { s.hk with drain := s.hk.drain.erase p } }
        let s : State := ((b.slots.map (·.2.1)).eraseDups).foldl (fun (s : State) h => s.startStep b.slots h) s
        let s : State := (s.logBeat p b.slots).busyMark
        if s.braking ∧ s.pwr.beyond then s.markBraked else s)

/-- Ticks since the step in progress of an entry started, from the low 32 bits of TICK (R167, R177). -/
def State.elapsed (s : State) (e : Entry) : Nat := (s.tick % 2 ^ 32 + 2 ^ 32 - e.tIn) % 2 ^ 32

/-- The budget that leaves this device for a step of handle `h` (R177, R178). -/
def State.budgetLeaving (s : State) (p h : Nat) : Nat :=
  let e := s.entry (handleIdx h)
  budgetOut e.budget (if s.isPommel p then 0 else (s.girth p).hopIn) (s.elapsed e)

/-- BEAT_OUT (R177, R178, R241): the messages of a slot are handed to their Luawin ports, each with the budget that is left. -/
def execBeatOut (p slot : Nat) (s : State) : Result :=
  onPart p (
    let q := s.part p
    if ¬ s.runs p then s
    else
      let out := q.egress.filter (fun x => x.2.2.1.slot = slot)
      let s := s.setPart p { q with egress := q.egress.filter (fun x => x.2.2.1.slot ≠ slot) }
      let l := ((s.girth p).record.map (·.ledger)).getD 0
      out.foldl (fun s x =>
        let b := s.budgetLeaving p x.2.2.1.handle
        let i := handleIdx x.2.2.1.handle
        let s := s.setExt i { s.extn i with missed := (s.extn i).missed || budMissed b }
        s.sendMsg x.1 l x.2.1 { x.2.2.1 with budget := b } x.2.2.2) s)

/-! ### Commits (R148, R155, R210) -/

/-- One token enters a wear list (R210). -/
def wearAdd (w : Wear) (t : Nat) : Wear :=
  match w.find? (fun x => x.1 = t) with
  | some x => (t, min (x.2 + 1) 255) :: w.filter (fun y => y.1 ≠ t)
  | none => ((t, 1) :: w).take 512

/-- The wear counts of the commit of a step (R210, R211): the tokens it delivered, and, while the request is prefilled, those of its
prompt positions: the original prompt under WEAR_PROMPT, delivered tokens always. -/
def Ext.commitWear (x : Ext) (w : Wear) (prefill : Bool) (l : Nat) (toks : List Nat) : Wear :=
  match x.carried with
  | none => w
  | some m =>
    let prompt := if prefill then (toks.zipIdx).filterMap (fun t =>
      if m.plen ≤ l + t.2 ∨ bit (nthW m.sel 3) 9 then some t.1 else none) else []
    (prompt ++ x.got).foldl wearAdd w

/-- The state layers of a request that the step stored up to the new L: their working copies are committed; else they are discarded
(R155). The step's KV writes are in the slices (R148, log 139). -/
def State.commitStates (s : State) (p h newL : Nat) : State :=
  match (s.part p).table with
  | none => s
  | some ts => (s.part p).clusterList.foldl (fun s c =>
      let s : State := { s with kvWr := s.kvWr.filter (fun w => w.cluster ≠ c ∨ w.handle ≠ h) }
      let cl := s.cluster c
      let mine := cl.stored.filter (fun x => x.1 = h)
      let s := mine.foldl (fun s x => if newL = x.2.2 + 1 then s.commitState ts c h x.2.1 else s) s
      let cl := s.cluster c
      if cl.stored.any (fun x => x.1 = h) ∨ cl.wrote.any (fun x => x.1 = h) then
        s.setCluster c { cl with stored := cl.stored.filter (fun x => x.1 ≠ h), wrote := cl.wrote.filter (fun x => x.1 ≠ h) }
      else s) s

/-- A commit moves L on this device and ends the step in flight (R148, R149); a step that started here before it begins now. -/
def State.applyCommit (s : State) (p h newL : Nat) : State :=
  let i := handleIdx h
  let s := s.commitStates p h newL
  let e := s.entry i
  let next := (s.extn i).nextStep
  let s := (s.setEntry i { e with l := newL }).setExt i
    { s.extn i with inFlight := false, stepPos := 0, missed := false, got := [], decided := [], selDone := false, noPost := false, late1 := false
                    seen := 0, nextStep := none }
  match next with
  | some (n, bud, tIn) => s.beginStep i n bud tIn
  | none => s

/-- COMMIT (R148, R155, R171, R199, R209–R211): a member takes the new L of a handle; applying one twice changes nothing.
`toks` are the history tokens of the committed positions, which the cantle of a re-prefill or under WEAR_PROMPT reads. One of an old
girth epoch is discarded and counted in LW_STALE (R258). -/
def execCommit (p handle newL epoch : Nat) (toks : List Nat) (s : State) : Result :=
  onPart p (
    match s.entryOf handle with
    | none => s
    | some e =>
      let i := handleIdx handle
      let x := s.extn i
      if s.isPommel p ∨ e.part ≠ p then s
      else if epoch ≠ (s.girth p).epoch then
        match ((s.girth p).record.map (·.upPort)).getD none with
        | some q => s.staleOn q
        | none => s
      else if ¬ x.inFlight ∨ newL < e.l ∨ e.l + x.stepPos < newL then s.rein p (.commit handle newL)
      else
        let s := if newL = e.l ∨ ¬ s.isCantle p then s
          else { s with wear := put i (x.commitWear (getD [] i s.wear) (e.st = .prefill) e.l (toks.take (newL - e.l))) s.wear }
        let s := s.applyCommit p handle newL
        let e := s.entry i
        let prompt := (x.carried.map (fun m => m.plen + m.tokens)).getD 0
        let s := if e.st = .prefill ∧ prompt ≤ newL then s.setEntry i { e with st := .decode } else s
        s.busyMark.rein p (.commit handle newL))

/-! ### VERDICT (R197, R198, R226, R227) -/

/-- The draft length pointer after a commit (R220). -/
def ldAfter (e : Entry) (x : Ext) (a newL : Nat) : Nat :=
  if e.draft = 0 then x.ld else if e.st = .decode then (if a < x.drafts.length then newL else newL - 1) else newL

/-- The last token of a step ends its request: an end token, or MAXLEN positions (R226). -/
def endsWith (e : Entry) (x : Ext) (toks : List Nat) : Bool :=
  (match toks.getLast? with
    | some t => isEnd x.sel t
    | none => false) || decide (e.maxlen ≤ e.plen + e.tokens + toks.length)

/-- The pommel commits a step and tells the members (R148). -/
def State.commitAt (s : State) (p h newL : Nat) : State :=
  let g := s.girth p
  ((s.applyCommit p h newL).setGirth p { g with issued := dropIssued h g.issued }).rein p (.commit h newL)

/-- A step whose result is discarded: the commit leaves L unchanged (R197, R199, R214). -/
def State.discardStep (s : State) (p h : Nat) (failed : Bool) (status : Nat) : State :=
  (s.commitAt p h (s.entry (handleIdx h)).l).endRequest h failed status

/-- A request enters DECODE: it leaves its prefill row for its seat (R171, R182). -/
def State.enterDecode (s : State) (p h : Nat) : State :=
  let i := handleIdx h
  ((s.setEntry i { s.entry i with st := .decode }).leaveRow p h)

/-- A step is delivered: the commit, the counts, the draft pointer, the deadlines, and the end of the request (R171, R173, R198, R220,
R226, R227). -/
def State.deliverStep (s : State) (p : Nat) (v : VerdictMsg) : State :=
  let h := v.handle
  let i := handleIdx h
  let e := s.entry i
  let x := s.extn i
  let decode := e.st = .decode
  let newL := if decode then e.l + v.a + 1 else e.l + x.stepPos
  let final := decode ∨ e.prompt ≤ newL
  let s := s.commitAt p h newL
  let e1 := s.entry i
  let k := v.toks.length
  let e1 := if final then { e1 with tokens := e.tokens + k } else e1
  let e1 := if final ∧ v.late ∧ ¬ e.be then
      { e1 with kbase := e1.tokens, tRef := (s.tick + 25 * e.tpt + 2 ^ 64 - 25 * e.ttft) % 2 ^ 64, void := if v.brake then 1 else e1.void }
    else e1
  let s := s.setEntry i e1
  let x1 := s.extn i
  let s := s.setExt i { x1 with
    ld := ldAfter e x v.a newL, drafts := [], drafted1 := false, draftAt := none
    late := if v.late then satAdd 32 x1.late k else x1.late
    drafted := if decode then satAdd 32 x1.drafted x.drafts.length else x1.drafted
    accepted := if decode then satAdd 32 x1.accepted v.a else x1.accepted }
  if final ∧ (e.embed ∨ endsWith e x v.toks) then s.endRequest h false 0x00
  else if final ∧ ¬ decode then s.enterDecode p h
  else s

/-- VERDICT (R148, R171, R197–R199, R214, R226, R227, R229): the pommel receives the result of a step; one of
an old girth epoch is discarded and counted (R258). -/
def execVerdict (p epoch : Nat) (v : VerdictMsg) (s : State) : Result :=
  onPart p (
    if (s.girth p).record.isSome ∧ epoch ≠ (s.girth p).epoch then s.staleOn (s.returnPort p)
    else match s.entryOf v.handle with
    | none => s
    | some e =>
      if ¬ s.isPommel p ∨ e.part ≠ p ∨ (s.girth p).st ≠ .running ∨ ¬ (s.extn (handleIdx v.handle)).inFlight then s
      else if v.status = 0x0A then s.discardStep p v.handle true 0x0A
      else if e.pend = .cancel then s.discardStep p v.handle false 0x09
      else if v.status = 0x06 then
        (if v.brake then s.voidPromise v.handle 1 else s).discardStep p v.handle false 0x06
      else s.deliverStep p v)

/-! ### Pauses (R159–R163) -/

/-- A request enters PAUSED on this device: LPTR and the pause count are taken, and its migration waits to begin (R160). -/
def State.enterPause (s : State) (h : Nat) : State :=
  let i := handleIdx h
  let x := s.extn i
  s.setExt i { x with lptr := (s.entry i).l, pepoch := (x.pepoch + 1) % 2 ^ 16, migWait := true }

/-- The migration of a paused request begins once no activity is more urgent (R194): its blocks go to the pool, or its data stays in the spans
where the pool lacks room or a write fails (R159–R161, R274, R421). -/
def State.migrate (s : State) (p h : Nat) (writeFails : Bool) : State :=
  let i := handleIdx h
  let n := s.saddleBlocks p h
  let x := s.extn i
  if ¬ x.migWait then s
  else if n = 0 then s.setExt i { x with migWait := false, spans := [], poolData := true, nblk := 0 }
  else if s.beyondMigration p then s
  else
    let x := { x with migWait := false }
    match (if writeFails then none else s.poolFit p n) with
    | none => (s.setExt i x).saddleEvent p h 0x0022 1 0 n
    | some a => (s.setExt i { x with pool := a, nblk := n, migrating := true }).sendBlocks p h

/-- PAUSE_MIGRATE (R159–R162, R171, R194, R288): at its step boundary a request with a pause pending enters PAUSED, and this device
copies its committed data to the saddlebag tier; a copy that had to wait for a more urgent activity begins now. -/
def execPauseMigrate (p handle : Nat) (writeFails : Bool) (s : State) : Result :=
  onPart p (
    match s.entryOf handle with
    | none => s
    | some e =>
      let i := handleIdx handle
      let x := s.extn i
      if e.part ≠ p ∨ (s.girth p).st ≠ .running then s
      else if e.st = .paused then (if x.migWait then (s.migrate p handle writeFails).busyMark else s)
      else if e.st ≠ .decode ∨ x.inFlight ∨ x.draftAt.isSome then s
      else if s.isPommel p then
        if e.pend ≠ .pause then s
        else
          let e := { e with st := .paused, pend := .none, row := 0xFF, tRef := (s.tick + 25000 * x.ttlMs) % 2 ^ 64 }
          let s := ((s.setEntry i e).setExt i { x with drafts := [], drafted1 := false, draftAt := none }).forget p handle
          ((s.notice x.subPart 3 0x00 e.tag [handle, e.l, e.tokens, 0]).enterPause handle).migrate p handle writeFails |>.busyMark
      else (((s.setEntry i { e with st := .paused }).enterPause handle).migrate p handle writeFails).busyMark)

/-- SADDLEBAG_WRITE_DONE (R161, R274, R294): every block is written and the spans are freed; blocks whose write failed, by number, leave the data
in them. The event names the first of them (DESIGN CHOICE, log 137). -/
def execSaddlebagWriteDone (p handle : Nat) (failed : List Nat) (s : State) : Result :=
  onPart p (
    match s.entryOf handle with
    | none => s
    | some e =>
      let i := handleIdx handle
      let x := s.extn i
      if e.part ≠ p ∨ e.st ≠ .paused ∨ ¬ x.migrating then s
      else if failed.isEmpty then
        (s.setExt i { x with spans := [], saved := s.spanCells p handle, poolData := true, migrating := false }).busyMark
      else
        ((s.saddleEvent p handle 0x0022 1 (failed.headD 0) failed.length).setExt i { x with migrating := false, nblk := 0 }).busyMark)

/-- RESUME_READ (R163, R171, R200, R274, R294): the blocks are read, in the order in which they were written, and each is checked. A clean read
sets L to LPTR and enters DECODE; where one is missing, of another pause or fails its tag, the event names the first such block (DESIGN CHOICE, log
137), and the request restarts by re-prefill. -/
def execResumeRead (p handle : Nat) (blocks : List (Option BagRead)) (s : State) : Result :=
  onPart p (
    match s.entryOf handle with
    | none => s
    | some e =>
      let i := handleIdx handle
      if e.part ≠ p ∨ e.st ≠ .resuming then s
      else
        let x := s.extn i
        let due := if x.poolData then s.saddleList p handle else []
        match due.zipIdx.find? (fun b => !bagOk handle x.pepoch b.1 ((blocks[b.2]?).getD none)) with
        | some b =>
          let s := s.saddleEvent p handle 0x0023 2 b.2 b.1.part
          ((s.freePool handle).restartRequest handle).busyMark
        | none =>
          let s := s.restoreCells handle x.saved
          let s := s.setEntry i { e with l := x.lptr, st := .decode }
          ((s.setExt i { s.extn i with claimed := false }).freePool handle).busyMark)

end Sys2Proof.Machine
end

