-- ==== Sys2Proof/Machine/Awl.lean ====
section
/-!
DEFINITION. The awl: gather and select stages (R203–R206), penalties and bias (R212, R213), sampling (R208, R215–R217), drafting
and verification (R219–R228), and LOGIT_BIAS_SET.
-/

namespace Sys2Proof.Machine

open Sys2Proof

/-! ### Ranked logits (R204) -/

/-- A token and its value. -/
abbrev Ranked := Nat × F32

/-- `a` ranks above `b`: a larger value, or an equal one with a lower token ID (R204). -/
def ranksAbove (a b : Ranked) : Bool := ltX b.2 a.2 || (!ltX a.2 b.2 && decide (a.1 < b.1))

/-- A ranked list with one more element. -/
def rankInsert (x : Ranked) : List Ranked → List Ranked
  | [] => [x]
  | y :: ys => if ranksAbove x y then x :: y :: ys else y :: rankInsert x ys

/-- A list in sorted order (R204). -/
def rankSort (l : List Ranked) : List Ranked := l.foldr rankInsert []

/-- A binary32 word as a value; an infinity counts as one beyond every finite value of its sign. -/
def valOf (w : Nat) : F32 := (ofBits w).getD (if w ≥ 2 ^ 31 then (-1, 1000) else (1, 1000))

/-! ### Selection parameters (R213, R218) -/

/-- The bias table that a request's parameters name, empty where none applies (R213, R218). -/
def State.biasOf (s : State) (p : Nat) (sel : List Nat) : List TokVal :=
  if bit (nthW sel 3) 11 then getD [] (bits (nthW sel 3) 19 12) (s.part p).bias else []

/-- nlow: the entries whose bias is negative or −∞ (R205). -/
def nlow (bias : List TokVal) : Nat := bias.countP (fun b => decide (2 ^ 31 < b.2))

/-- A selection parameter as a value. -/
def selF (sel : List Nat) (i : Nat) : F32 := valOf (nthW sel i)

/-! ### The gather stage (R203, R205) -/

/-- The oldest full bank of every reservation that a cluster's logit map entries name; none until all are full (R203, R205). -/
def State.logitBanks (s : State) (ts : TableSet) (c : Nat) : Option (List (LogitEnt × Nat × EngResv)) :=
  allSome ((ts.logit.filter (fun e => e.cluster = c)).map (fun e =>
    ((s.cluster c).fireBank 66 e.rbuf 0).map (fun b => (e, b, (s.cluster c).eng 66 e.rbuf b))))

/-- The logits of a map entry's blocks: token and value, none for one that overflows binary32 (R203, R204). -/
def entryLogits (vocab : Nat) (e : LogitEnt) (r : EngResv) : List (Nat × Option F32) :=
  ((r.blocks e.nblk).zipIdx).flatMap (fun kb =>
    (List.range 128).filterMap (fun i =>
      let t := e.first + 128 * kb.2 + i
      if t < vocab then some (t, elemF32 kb.1 i) else none))

/-- AWL_GATHER (R203–R205): when every logit reservation of a cluster is complete for a slot, its G largest logits go to the select
stage, with the raw logits of the biased tokens (R206). Selection of target tokens is the cantle's (R202). -/
def execAwlGather (c p : Nat) (s : State) : Result :=
  guardUnit (c < 16 && p < 16) (
    match (s.part p).table with
    | none => s
    | some ts =>
      if ¬ s.runs p ∨ ¬ s.isCantle p ∨ ¬ bit (s.part p).clusters c ∨ ¬ ts.logit.any (fun e => e.cluster = c) then s
      else match s.logitBanks ts c with
        | none => s
        | some bs =>
          let hdrs := bs.flatMap (fun x => x.2.2.hdrs)
          let h := hdrs.headD default
          if hdrs.any (fun k => !hdrAgree k h) then s.partFault p 2 3 (c + 2 ^ 4 * 66)
          else
            let x := s.extn (handleIdx h.handle)
            let embed := ((x.carried.map (·.embed)).getD false)
            if embed then
              if (s.part p).gathered.any (fun g => g.cluster = c ∧ g.hdr.slot = h.slot ∧ g.hdr.handle = h.handle) then s
              else s.setPart p { s.part p with gathered := (s.part p).gathered ++ [⟨c, h, false, []⟩] }
            else
              let raw := bs.flatMap (fun y => entryLogits ts.vocab y.1 y.2.2)
              let bad := raw.any (fun y => y.2.isNone)
              let bias := s.biasOf p x.sel
              let all := rankSort (raw.map (fun y => (y.1, y.2.getD (0, 0))))
              let g := 768 + nlow bias
              let rest := (all.drop g).filter (fun y => bias.any (fun b => b.1 = y.1))
              let cl := bs.foldl (fun (cl : Cluster) y => cl.setEng 66 y.1.rbuf y.2.1 {}) (s.cluster c)
              let s := (s.setCluster c cl).setPart p { s.part p with
                gathered := (s.part p).gathered ++ [⟨c, h, bad, (all.take g ++ rest).map (fun y => (y.1, toBits y.2))⟩] }
              if bad then s.raise 0x0002 2 (some p) 0 0 0 h.handle else s)

/-! ### Candidates (R206, R212–R214) -/

/-- Penalties on a logit whose token has wear count `c` (R212); none is −∞. -/
def penalise (sel : List Nat) (c : Nat) (x : F32) : Option F32 :=
  if c = 0 then some x
  else
    let x1 := if x.1 > 0 then divF x (selF sel 4) else if x.1 < 0 then mulF x (selF sel 4) else some x
    let x2 := x1.bind (fun v => subF v (selF sel 5))
    x2.bind (fun v => fmaF (negX (selF sel 6)) ((c : Int), 0) v)

/-- A bias added after the penalties (R213); none is −∞, and a sum beyond binary32 is an infinity of the bias's sign. -/
def addBias (bias : List TokVal) (t : Nat) (x : F32) : Option F32 :=
  match bias.find? (fun b => b.1 = t) with
  | none => some x
  | some b =>
    if b.2 = negInfBits then none
    else match addF x (valOf b.2) with
      | some v => some v
      | none => if b.2 < 2 ^ 31 then some (1, 1000) else none

/-- The candidate list of a slot (R206, R212–R214): at most 256 tokens, none whose logit is −∞. -/
def candidates (sel : List Nat) (pen : Bool) (bias : List TokVal) (wear : Wear) (lists : List TokVal) : List Ranked :=
  let all := rankSort (lists.map (fun y => (y.1, valOf y.2)))
  let g := 768 + nlow bias
  let used := all.take g ++ (all.drop g).filter (fun y => bias.any (fun b => b.1 = y.1))
  let adj := used.filterMap (fun y =>
    let c := if pen then ((wear.find? (fun w => w.1 = y.1)).map (·.2)).getD 0 else 0
    ((penalise sel c y.2).bind (addBias bias y.1)).map (fun v => (y.1, v)))
  (rankSort adj).take 256

/-! ### Sampling (R208, R216, R217) -/

/-- A draw: u in [0, 1), a multiple of 2^−24 (R208). -/
def awlDraw (seed use c0 : Nat) : F32 := (((philox0 (seed % 2 ^ 32) (seed / 2 ^ 32) c0 use 0 0) / 2 ^ 8 : Nat), -24)

/-- A distribution of class S (R216): tokens, unnormalised masses and their sum. -/
structure Dist where
  toks : List Nat
  mass : List F32
  sum  : F32

/-- Masses added in ascending order, one rounding each (R216, R217). -/
def sumF (l : List F32) : F32 := l.foldl (fun a x => (addF a x).getD a) (0, 0)

/-- Trailing masses below MIN_P go, but never the first (R216). -/
def minPCut (minP : F32) : List F32 → List F32
  | [] => []
  | l@(_ :: _) => l.take (max 1 ((l.zipIdx).foldl (fun m x => if ltX x.1 minP then m else x.2 + 1) 1))

/-- The smallest prefix whose sum reaches `lim`: its length and its sum (R216). -/
def topPCut (lim : F32) : List F32 → F32 → Nat → Nat × F32
  | [], c, j => (j, c)
  | e :: es, c, j =>
    let c := (addF c e).getD c
    if ltX c lim then topPCut lim es c (j + 1) else (j + 1, c)

/-- The distribution of R216 over a candidate list; none where the arithmetic leaves binary32 (a value R216 does not state; log 3). -/
def distOf (temp minP topP : F32) (topK : Nat) (cs : List Ranked) : Option Dist :=
  let cs := cs.take (if topK = 0 then 256 else topK)
  match cs with
  | [] => none
  | c0 :: _ =>
    (divF c0.2 temp).bind (fun z0 =>
      (allSome (cs.map (fun c => match divF c.2 temp with
        | none => some (0, 0)
        | some z => expDiff z z0))).map (fun e =>
          let e := minPCut minP e
          let (nf, sf) := topPCut ((mulF topP (sumF e)).getD (0, 0)) e (0, 0) 0
          { toks := (cs.map (·.1)).take nf, mass := e.take nf, sum := sf }))

/-- The distribution that a request's parameters give (R216, R218). -/
def selDist (sel : List Nat) (cs : List Ranked) : Option Dist :=
  distOf (selF sel 0) (selF sel 2) (selF sel 1) (bits (nthW sel 3) 8 0) cs

/-- The first index whose prefix sum exceeds the limit, the last index where none does (R217). -/
def sampleAt (lim : F32) : List F32 → F32 → Nat → Nat
  | [], _, i => i - 1
  | e :: es, c, i =>
    let c := (addF c e).getD c
    if ltX lim c then i else sampleAt lim es c (i + 1)

/-- A token sampled with a draw (R217). -/
def sampleDist (toks : List Nat) (mass : List F32) (sum u : F32) : Nat :=
  toks.getD (sampleAt ((mulF u sum).getD (0, 0)) mass (0, 0) 0) (toks.getLastD 0)

/-- p of a token (R216, R225). -/
def Dist.prob (d : Dist) (t : Nat) : F32 :=
  match (d.toks.zip d.mass).find? (fun x => x.1 = t) with
  | some x => (divF x.2 d.sum).getD (0, 0)
  | none => (0, 0)

/-! ### One decision (R215, R217, R224, R225) -/

/-- What the select stage decides for a slot: a drafted token is accepted, a token ends the step, no candidate remains, or a value that
R216 does not state. -/
inductive Decision where
  | accept (t : Nat)
  | final (t : Nat)
  | empty
  | unstated
  deriving DecidableEq, Repr

/-- q of a token in a draft record's list (R221, R225). -/
def qOf (l : List TokVal) (t : Nat) : F32 := ((l.find? (fun x => x.1 = t)).map (fun x => valOf x.2)).getD (0, 0)

/-- The decision for the token at position `pos`, with the draft at that position if there is one (R215, R217, R224, R225). -/
def decideSlot (classS : Bool) (sel : List Nat) (seed pos : Nat) (draft : Option (Nat × List TokVal)) (cs : List Ranked) : Decision :=
  match cs with
  | [] => .empty
  | c0 :: _ =>
    if ¬ classS then
      match draft with
      | some y => if y.1 = c0.1 then .accept c0.1 else .final c0.1
      | none => .final c0.1
    else match selDist sel cs with
      | none => .unstated
      | some d =>
        match draft with
        | none => .final (sampleDist d.toks d.mass d.sum (awlDraw seed 0 pos))
        | some (y, q) =>
          if ltX ((mulF (awlDraw seed 2 pos) (qOf q y)).getD (0, 0)) (d.prob y) then .accept y
          else
            let r := d.toks.map (fun t =>
              let v := (subF (d.prob t) (qOf q t)).getD (0, 0)
              if v.1 < 0 then (0, 0) else v)
            let sum := sumF r
            let v := awlDraw seed 3 pos
            .final (if sum.1 > 0 then sampleDist d.toks r sum v else sampleDist d.toks d.mass d.sum v)

/-! ### The end of a step at the cantle (R174, R197, R226, R291, R292) -/

/-- The delivered tokens: up to the first end token, or the token that takes the request to MAXLEN positions (R226). -/
def deliverable (sel : List Nat) (maxlen : Nat) : Nat → List Nat → List Nat
  | _, [] => []
  | pos, t :: ts => if isEnd sel t ∨ maxlen ≤ pos + 1 then [t] else t :: deliverable sel maxlen (pos + 1) ts

/-- The step of a handle has MISSED or BRAKE set when this device is done with it at this tick (R177, R178). -/
def State.stepMissed (s : State) (p h : Nat) : Bool := (s.extn (handleIdx h)).missed || budMissed (s.budgetLeaving p h)
def State.stepBraked (s : State) (h : Nat) : Bool := budBrake (s.entry (handleIdx h)).budget

/-- The token records of a step, the last one with its verdict (R226, R291, R292). -/
def stepRecords (m : ClaimMsg) (brake : Bool) (base a : Nat) (toks : List Nat) : List TokRec :=
  (toks.zipIdx).map (fun x =>
    let pos := base + x.2
    let last := decide (x.2 + 1 = toks.length)
    let ends := last && (isEnd m.sel x.1 || decide (m.maxlen ≤ pos + 1))
    { words := [m.handle, x.1 + 2 ^ 19 * b2n ends + 2 ^ 20 * b2n brake, pos + 2 ^ 24 * a, m.tag]
      histAddr := m.hist + 4 * pos, histData := leBytes 4 x.1, handle := m.handle, first := decide (x.2 = 0)
      verdict := if last then some { handle := m.handle, a, toks, late := false, brake, status := 0 } else none })

/-- Records join those that wait for the TQ of partition `p` (R291). -/
def State.queueRecords (s : State) (p : Nat) (rs : List TokRec) : State :=
  s.setRing p { s.ring p with tqWait := (s.ring p).tqWait ++ rs }

/-- A step is decided (R226): its tokens wait to be posted, or, after a CANCEL, only the verdict leaves (R199). -/
def State.finishStep (s : State) (p : Nat) (m : ClaimMsg) (base a : Nat) (toks : List Nat) : State :=
  let i := handleIdx m.handle
  let toks := deliverable m.sel m.maxlen base toks
  let x := s.extn i
  let s := s.setExt i { x with selDone := true, decided := [], got := toks }
  let brake := s.stepBraked m.handle
  if x.noPost then s.sendVerdict p ({ handle := m.handle, a, toks, late := false, brake, status := 0 })
  else s.queueRecords p (stepRecords m brake base a toks)

/-- A step whose result is discarded with a status (R62, R214). -/
def State.failStep (s : State) (p h status : Nat) : State :=
  let i := handleIdx h
  let s := s.setExt i { s.extn i with selDone := true, decided := [], got := [] }
  let q := s.part p
  (s.setPart p { q with abort := q.abort.filter (· ≠ h) }).sendVerdict p
    ({ handle := h, a := 0, toks := [], late := false, brake := s.stepBraked h, status })

/-- A prefill ride that is not the last ends at the cantle: no token, only the verdict (R182, R197). -/
def State.rideOver (s : State) (p h : Nat) (lateOk : Bool) : State :=
  let i := handleIdx h
  let missed := s.stepMissed p h
  let s := s.setExt i { s.extn i with selDone := true, missed }
  s.sendVerdict p ({ handle := h, a := 0, toks := [], late := missed, brake := s.stepBraked h,
                       status := if missed ∧ ¬ lateOk then 0x06 else 0 })

/-- The blocks of an EMBED request's output at the cantle, in FIRST order, and the clusters with their banks emptied (R296, log 36). -/
def State.takePooled (s : State) (ts : TableSet) : List Block × State :=
  let es := ts.logit.foldr (fun e l =>
    let (lo, hi) := l.partition (fun x => x.first < e.first)
    lo ++ e :: hi) []
  es.foldl (fun (acc : List Block × State) e =>
    let cl := acc.2.cluster e.cluster
    match cl.fireBank 66 e.rbuf 0 with
    | some b => (acc.1 ++ (cl.eng 66 e.rbuf b).blocks e.nblk, acc.2.setCluster e.cluster (cl.setEng 66 e.rbuf b {}))
    | none => acc) ([], s)

/-- The pooled vector of an EMBED request waits to be posted (R174, R291, R296). -/
def State.finishEmbed (s : State) (p : Nat) (m : ClaimMsg) (bs : List Block) : State :=
  let i := handleIdx m.handle
  let x := s.extn i
  let brake := s.stepBraked m.handle
  let v : VerdictMsg := { handle := m.handle, a := 0, toks := [], late := false, brake, status := 0 }
  let s := s.setExt i { x with selDone := true }
  if x.noPost then s.sendVerdict p v
  else s.queueRecords p [{ words := [m.handle, 2 ^ 19 + 2 ^ 20 * b2n brake + 2 ^ 21, m.plen, m.tag], histAddr := m.out
                           histData := bs.flatMap blockBytes, handle := m.handle, first := true, verdict := some v }]

/-! ### The select stage (R206) -/

/-- The gather lists of the slot at the front, one of each cluster that holds logits; none until all are there (R205, R206). -/
def slotLists (cs : List Nat) (g0 : Gather) (l : List Gather) : Option (List Gather) :=
  allSome (cs.map (fun c => l.find? (fun g => g.cluster = c ∧ g.hdr.slot = g0.hdr.slot ∧ g.hdr.handle = g0.hdr.handle)))

/-- The gather lists without those of a slot that has been used: the first of each cluster. -/
def dropSlot (g0 : Gather) : List Nat → List Gather → List Gather
  | [], l => l
  | c :: cs, l => dropSlot g0 cs (l.eraseP (fun g => g.cluster = c && g.hdr.slot = g0.hdr.slot && g.hdr.handle = g0.hdr.handle))

/-- The working wear counts of a step: as committed, with the drafts accepted so far (R224, R225). -/
def State.workingWear (s : State) (i : Nat) : Wear := (s.extn i).decided.foldl wearAdd (getD [] i s.wear)

/-- A decision at a slot of a step takes effect (R214, R215, R217, R224–R226). -/
def State.takeDecision (s : State) (p : Nat) (m : ClaimMsg) (base pos : Nat) (d : Decision) : State :=
  let i := handleIdx m.handle
  let x := s.extn i
  match d with
  | .accept t => s.setExt i { x with decided := x.decided ++ [t] }
  | .final t => s.finishStep p m base x.decided.length (x.decided ++ [t])
  | .empty => (s.raise 0x0031 2 (some p) 0 0 pos m.handle).failStep p m.handle 0x0A
  | .unstated =>
    let (n, s) := s.draw
    s.finishStep p m base x.decided.length (x.decided ++ [n % 2 ^ 18])

/-- The select stage on one slot whose lists are there, for the request the claim describes. -/
def State.selectSlot (s : State) (p : Nat) (ts : TableSet) (m : ClaimMsg) (h : VecHdr) (ls : List Gather) : State :=
  let i := handleIdx m.handle
  let e := s.entry i
  let x := s.extn i
  let prompt := m.plen + m.tokens
  let prefill := e.st ≠ .decode
  let lastOfRide := decide (h.pos + 1 = e.l + x.stepPos)
  let (bs, s) := if m.embed then s.takePooled ts else ([], s)
  if x.selDone then s
  else if ls.any (·.bad) ∨ m.handle ∈ (s.part p).abort then s.failStep p m.handle 0x0A
  else if prefill ∧ h.pos + 1 < prompt then (if lastOfRide then s.rideOver p m.handle m.lateOk else s)
  else if m.embed then s.finishEmbed p m bs
  else
    let cs := candidates m.sel (!m.classS || bit (nthW m.sel 3) 10) (s.biasOf p m.sel) (s.workingWear i) (ls.flatMap (·.pairs))
    let draft := if prefill then none else x.drafts[h.pos - e.l]?
    let draft := if h.pos + 1 < e.l + x.stepPos then draft else none
    s.takeDecision p m (if prefill then prompt else e.l + 1) (h.pos + 1) (decideSlot m.classS m.sel m.seed (h.pos + 1) draft cs)

/-- AWL_SELECT (R206, R208, R212–R217, R223–R228): the select stage takes the next slot whose gather lists are all there, and
decides its token, at the cantle (R202). A slot of a step that has not started here, or whose predecessor still awaits its commit, waits
(R228). -/
def execAwlSelect (p : Nat) (s : State) : Result :=
  onPart p (
    match (s.part p).table, (s.part p).gathered with
    | some ts, g0 :: _ =>
      let cs := (ts.logit.map (·.cluster)).eraseDups
      let i := handleIdx g0.hdr.handle
      match slotLists cs g0 (s.part p).gathered, (s.extn i).carried, s.entryOf g0.hdr.handle with
      | some ls, some m, some _ =>
        let x := s.extn i
        if ¬ s.runs p ∨ ¬ s.isCantle p ∨ ¬ x.inFlight ∨ x.stepPos ≤ x.seen then s
        else
          let s := s.setExt i { x with seen := x.seen + 1 }
          let s := s.setPart p { s.part p with gathered := dropSlot g0 cs (s.part p).gathered }
          s.selectSlot p ts m g0.hdr ls
      | some _, _, _ => s.setPart p { s.part p with gathered := dropSlot g0 cs (s.part p).gathered }
      | none, _, _ => s
    | _, _ => s)

/-! ### Drafting (R219–R222, R255) -/

/-- The drafted token for a position from its draft logits, and its q list in class S (R221): the largest logit, or R216 over the 32 largest at TEMP
alone, sampled with use 1. -/
def draftTok (classS : Bool) (sel : List Nat) (seed pos : Nat) (cs : List Ranked) : Nat × List TokVal :=
  let top := (cs.head?.map (·.1)).getD 0
  if ¬ classS then (top, [])
  else match distOf (selF sel 0) (0, 0) (1, 0) 32 (cs.take 32) with
    | some d => (sampleDist d.toks d.mass d.sum (awlDraw seed 1 pos), d.toks.map (fun t => (t, toBits (d.prob t))))
    | none => (top, [])

/-- The banks of the draft logit map, with their clusters, once every one is full (R203, R221). -/
def State.draftBanks (s : State) (ts : TableSet) : Option (List (LogitEnt × Nat × EngResv)) :=
  if ts.dlogit.isEmpty then none
  else allSome (ts.dlogit.map (fun e =>
    ((s.cluster e.cluster).fireBank 66 e.rbuf 0).map (fun b => (e, b, (s.cluster e.cluster).eng 66 e.rbuf b))))

/-- Those banks are read and empty again (R132, R203). -/
def State.draftUsed (s : State) (bs : List (LogitEnt × Nat × EngResv)) : State :=
  bs.foldl (fun s x => s.setCluster x.1.cluster ((s.cluster x.1.cluster).setEng 66 x.1.rbuf x.2.1 {})) s

/-- A draft run over position `pos` of a request is issued, and its logits are awaited (R220, R221). -/
def State.draftAtPos (s : State) (p h pos : Nat) (vec : List Block) : State :=
  let i := handleIdx h
  (s.setExt i { s.extn i with draftAt := some pos }).issueDraft p (draftHdr h pos vec) vec

/-- The logits of the draft run over position `q` have come (R204, R220, R221): below L the model only catches up; from L on they give the token of
position q + 1. A round ends after d_eff tokens or at a drafted end token. -/
def State.draftGot (s : State) (p h q : Nat) (logits : List (Nat × Option F32)) (vec : List Block) : State :=
  let i := handleIdx h
  let e := s.entry i
  let x := s.extn i
  if e.pend = .cancel then s.endRequest h false 0x09
  else if logits.any (fun y => y.2.isNone) then
    let s := s.raise 0x0002 2 (some p) 0 0 0 h
    if (s.part p).beats.isEmpty then s.endRequest h true 0x0A else (s.setExt i { x with draftAt := none }).abortAtBeatEnd p h
  else if q < e.l then s.draftAtPos p h (q + 1) vec
  else
    let n := min e.draft (e.maxlen - e.l - 2)
    let y := draftTok e.classS x.sel e.seed (q + 1) (rankSort (logits.map (fun y => (y.1, y.2.getD (0, 0)))))
    let drafts := if x.drafts.length < n then x.drafts ++ [y] else x.drafts
    let s := s.setExt i { x with drafts }
    if n ≤ drafts.length ∨ isEnd x.sel y.1 then (s.setExt i { s.extn i with drafted1 := true, draftAt := none }).busyMark
    else s.draftAtPos p h (q + 1) vec

/-- The request drafts for its next step (R181, R219, R228): the pommel's, in DECODE, with DRAFT above 0, its last step committed. -/
def State.drafting (s : State) (p h : Nat) : Bool :=
  match s.entryOf h with
  | some e => s.isPommel p && e.part = p && (s.girth p).st = .running && s.runs p && e.st = .decode && e.draft ≠ 0 &&
      !(s.extn (handleIdx h)).inFlight && !(s.extn (handleIdx h)).drafted1
  | none => false

/-- DRAFT_ROUND (R203, R204, R219–R222, R228): the next step of a request's drafting round at the pommel. Full banks of the draft logit map are read:
the logits of the position awaited take the round on, and those of any other draft run, such as a prefill ride's, are of no use and dropped.
Where no round has begun, the first run is over position LD. `vec` is the embedded vector of the next run, if there is one (log 35). -/
def execDraftRound (p handle : Nat) (vec : List Block) (s : State) : Result :=
  onPart p (
    match (s.part p).table with
    | none => s
    | some ts =>
      if ¬ s.isPommel p ∨ ¬ s.runs p then s
      else
        let x := s.extn (handleIdx handle)
        match s.draftBanks ts with
        | some bs =>
          let hdrs := bs.flatMap (fun y => y.2.2.hdrs)
          let h := hdrs.headD default
          if hdrs.any (fun k => !hdrAgree k h) then s.partFault p 2 3 ((bs.head?.map (·.1.cluster)).getD 0 + 2 ^ 4 * 66)
          else
            let s := s.draftUsed bs
            if s.drafting p handle ∧ h.handle = handle ∧ x.draftAt = some h.pos then
              s.draftGot p handle h.pos (bs.flatMap (fun y => entryLogits ts.vocab y.1 y.2.2)) vec
            else s
        | none => if s.drafting p handle ∧ x.draftAt.isNone then s.draftAtPos p handle x.ld vec else s)

/-- DRAFT_RECORD (R232, R255, R258): a draft record arrives on a port that carries its girth. The cantle holds it for its verification, and
another member relays it unchanged; one of an old epoch is discarded and counted. -/
def execDraftRecord (port girth epoch : Nat) (dr : DraftRec) (s : State) : Result :=
  onPort port (
    let p := s.partOfLedger girth
    if p ≥ 16 ∨ ¬ bit (s.port port).girths girth then s
    else if epoch ≠ (s.girth p).epoch then s.staleOn port
    else if (s.girth p).st ≠ .running ∨ s.isPommel p then s
    else if s.isCantle p then
      match s.entryOf dr.handle with
      | some _ => s.setExt (handleIdx dr.handle) { s.extn (handleIdx dr.handle) with drafts := dr.toks }
      | none => s
    else s.sendDraft p dr)

/-! ### LOGIT_BIAS_SET (R213, R300) -/

/-- The format of a bias table: token IDs strictly ascending, reserved bits zero, every bias finite or −∞ (R213). -/
def biasOk : List TokVal → Bool
  | [] => true
  | [x] => x.1 < 2 ^ 18 && (bits x.2 30 23 ≠ 255 || x.2 = negInfBits)
  | x :: y :: r => x.1 < y.1 && x.1 < 2 ^ 18 && (bits x.2 30 23 ≠ 255 || x.2 = negInfBits) && biasOk (y :: r)

/-- LOGIT_BIAS_SET (R213, R229, R300). -/
def execLogitBiasSet (b : Nat) (h : HostMem) (s : State) : Result :=
  command b 0x87 (fun src w s =>
    let p := pktPart w
    let q := s.part p
    let n := nthW w 3
    let t := nthW w 2
    let a := dword w 4
    if ¬ q.defined ∨ 1024 < n ∨ (n ≠ 0 ∧ ¬ addrOk a (8 * n)) then s.reply src w 0x04
    else
      let bs := s.readMem h a (8 * n)
      let s := s.asks a (8 * n)
      let tab := (List.range n).map (fun i => (wordAt bs (2 * i), wordAt bs (2 * i + 1)))
      let named := (s.activeOf p).any (fun hd =>
        let x := s.extn (handleIdx hd)
        let sel := (x.carried.map (·.sel)).getD x.sel
        bit (nthW sel 3) 11 && bits (nthW sel 3) 19 12 = t)
      if ¬ biasOk tab then s.reply src w 0x04
      else if named then s.reply src w 0x05
      else (s.setPart p { q with bias := if n = 0 then del t q.bias else put t tab q.bias }).reply src w 0x00) s

end Sys2Proof.Machine
end

