-- ==== Sys2Proof/Machine/Girth.lean ====
section
/-!
DEFINITION. Girths: the girth record (R230–R235), the start round (R249, R250, R257), GIRTH_STOP, and the girth's restarts (R258).
-/

namespace Sys2Proof.Machine

open Sys2Proof

/-! ### The girth record (R230–R235) -/

/-- The member entry of a record's position. -/
def recMember (bs : List Byte) (g : Nat) : GMember :=
  { deviceId := wordAt bs (16 + 4 * g) + 2 ^ 32 * wordAt bs (17 + 4 * g), stage := wordAt bs (18 + 4 * g) % 256 }

/-- Link entry `k` of a record of `n` members. -/
def recLink (bs : List Byte) (n k : Nat) : GLink :=
  let w := wordAt bs (16 + 4 * n + 2 * k)
  { gposA := bits w 7 0, gposB := bits w 15 8, portA := bits w 18 16, portB := bits w 21 19, use := bits w 23 22, cable := bits w 29 24 }

/-- CONFIG_DIGEST: the first 8 bytes of the digest of the record with GPOS and PART zero (R235). -/
def configDigest (bs : List Byte) : List Byte :=
  let b0 := BitVec.ofNat 8 ((bs.getD 0 0).toNat % 16)
  (sha512 (b0 :: (bs.drop 1).take 2 ++ BitVec.ofNat 8 0 :: bs.drop 4)).take 8

/-- The record that bytes spell (R233). -/
def parseRecord (bs : List Byte) : Record :=
  let w0 := wordAt bs 0
  let n := bits w0 23 16 + 1
  let nl := bits (wordAt bs 1) 10 0
  { ledger := bits w0 3 0, gpos := bits w0 31 24, stages := bits w0 15 8 + 1, n
    halterMs := if wordAt bs 2 = 0 then 10000 else wordAt bs 2
    members := (List.range n).map (recMember bs), links := (List.range nl).map (recLink bs n), digest := configDigest bs }

/-- The bytes and reserved fields of a record are as R233 gives them. -/
def recordShape (bs : List Byte) : Bool :=
  let n := bits (wordAt bs 0) 23 16 + 1
  let nl := bits (wordAt bs 1) 10 0
  decide (bs.length = 64 + 16 * n + 8 * nl ∧ 1 ≤ nl ∧ nl ≤ 1024 ∧ bits (wordAt bs 1) 31 11 = 0) &&
    (List.range 13).all (fun i => wordAt bs (i + 3) = 0) &&
    (List.range n).all (fun g => bits (wordAt bs (18 + 4 * g)) 31 8 = 0 && wordAt bs (19 + 4 * g) = 0) &&
    (List.range nl).all (fun k => bits (wordAt bs (16 + 4 * n + 2 * k)) 31 30 = 0 && wordAt bs (17 + 4 * n + 2 * k) = 0)

/-- The devices of a stage. -/
def Record.inStage (r : Record) (k : Nat) : Nat := r.members.countP (fun m => m.stage = k)

/-- A link joins members as its use says (R231, R233). -/
def Record.linkOk (r : Record) (l : GLink) : Bool :=
  decide (l.gposA < r.n ∧ l.gposB < r.n ∧ l.gposA ≠ l.gposB ∧ l.cable ≤ 50) &&
    (match l.use with
      | 1 => r.stageOf l.gposB = r.stageOf l.gposA + 1
      | 2 => l.gposA + 1 = r.n && l.gposB = 0
      | 3 => r.stageOf l.gposA = r.stageOf l.gposB
      | _ => false)

/-- The ends of a record's links: position and port. -/
def Record.ends (r : Record) : List (Nat × Nat) := r.links.flatMap (fun l => [(l.gposA, l.portA), (l.gposB, l.portB)])

/-- R230, R231, R233 and R234 on the record alone. -/
def Record.ok (r : Record) : Bool :=
  decide (2 ≤ r.n ∧ 2 ≤ r.stages ∧ r.gpos < r.n) &&
    (List.range r.n).all (fun g => r.stageOf g < r.stages) &&
    (List.range (r.n - 1)).all (fun g => r.stageOf g ≤ r.stageOf (g + 1) && r.stageOf (g + 1) ≤ r.stageOf g + 1) &&
    r.stageOf 0 = 0 && r.inStage 0 = 1 && r.stageOf (r.n - 1) + 1 = r.stages && r.inStage (r.stages - 1) = 1 &&
    (List.range r.stages).all (fun k => decide (1 ≤ r.inStage k ∧ r.inStage k ≤ 8)) &&
    r.links.all r.linkOk && r.links.countP (fun l => l.use = 2) = 1 &&
    (List.range' 1 (r.n - 1)).all (fun g => r.links.any (fun l => l.use = 1 && l.gposB = g)) &&
    decide r.ends.Nodup

/-- Another girth of the device uses one of its ports with another peer (R234). -/
def State.portClash (s : State) (p : Nat) (r : Record) : Bool :=
  s.girths.any (fun x => x.1 ≠ p && (match x.2.record with
    | some r' => r'.mine.any (fun a => r.mine.any (fun b =>
        a.port = b.port && (r'.deviceAt a.peer ≠ r.deviceAt b.peer || a.peerPort ≠ b.peerPort)))
    | none => false))

/-- The table set uses a port that carries no link of the girth (R234). -/
def TableSet.strayPort (ts : TableSet) (r : Record) : Bool :=
  let mine := r.mine.map (·.port)
  ts.ingress.any (fun e => !mine.contains e.port || (e.fv && !mine.contains e.fport)) ||
    ts.progs.any (fun x => x.2.tab.any (fun st => match st.op with
      | .send _ _ _ 7 dest _ _ _ _ _ => !mine.contains (dest % 16)
      | _ => false))

/-- GIRTH_SET (R166, R232–R235, R248, R298): a record that passes R234 puts the girth into SET. -/
def execGirthSet (b : Nat) (h : HostMem) (s : State) : Result :=
  command b 0x21 (fun src w s =>
    let p := pktPart w
    let a := dword w 2
    let n := nthW w 4
    if ¬ addrOk a n ∨ n > 64 + 16 * 256 + 8 * 1024 then s.reply src w 0x04
    else
      let bs := s.readMem h a n
      let s := s.asks a n
      let r := parseRecord bs
      let g := s.girth p
      let used := s.girths.any (fun x => x.1 ≠ p && (x.2.record.map (·.ledger)) == some r.ledger)
      if ¬ recordShape bs ∨ ¬ r.ok ∨ bits (wordAt bs 0) 7 4 ≠ p ∨ r.deviceAt r.gpos ≠ s.host.devId ∨ used ∨
          ¬ (s.part p).defined ∨ (g.record.isSome ∧ g.st ≠ .stopped) ∨ s.portClash p r ∨
          ((s.part p).table.map (fun ts => ts.strayPort r)).getD false then s.reply src w 0x04
      else
        let s := r.mine.foldl (fun (s : State) l =>
          let q := s.port l.port
          s.setPort l.port { q with girths := q.girths &&& (0xFFFF - 2 ^ r.ledger) }) s
        (s.setGirth p { st := .set, record := some r, model := g.model }).reply src w 0x00
          [leNat (r.digest.take 4), leNat (r.digest.drop 4)]) s

/-! ### Hop bounds (R250, R257) -/

/-- Flits of a message of `n` bytes after its header (R257). -/
def flits (n : Nat) : Nat := ceilDiv (n + 16) 240

/-- link_fixed of a link (R257), in flit times. -/
def linkFixed (cable : Nat) : Nat := 5 * (128 + ceilDiv (4 * cable) 5) + 205

/-- The bytes of the PATH 7 SENDs that a table set sends on a port in one run (R130). -/
def TableSet.edgeSends (ts : TableSet) (port : Nat) : List Nat :=
  ts.progs.flatMap (fun x => x.2.tab.filterMap (fun st => match st.op with
    | .send _ skind count 7 dest _ _ _ _ _ => if dest % 16 = port then some (if skind = 1 then 1040 else 16 + 132 * count) else none
    | _ => none))

/-- The bytes of a message that an ingress entry relays: what the reservation of its group's first member holds (R130, R254). -/
def TableSet.relayBytes (ts : TableSet) (e : Ingress) : Nat :=
  match (getD [] e.group ts.groups).head? with
  | none => 16
  | some m =>
    if m.port < 64 then
      let tab := ((find? (m.cluster * 64 + m.port) ts.progs).map (·.tab)).getD []
      match tab.findSome? (fun st => match st.op with
        | .recv rbuf kind _ count _ _ _ => if rbuf = m.rbuf then some (kind, count) else none
        | _ => none) with
      | some (1, _) => 1040
      | some (_, count) => 16 + 132 * count
      | none => 16
    else 16 + 132 * ts.engBlocks m.port m.cluster m.rbuf

/-- Girths that use a port (R257). -/
def State.girthsOnPort (s : State) (port : Nat) : Nat :=
  s.girths.countP (fun x => match x.2.record with
    | some r => r.mine.any (fun l => l.port = port)
    | none => false)

/-- The RING link that relays draft records: from the lowest position of a stage to the lowest of the next, its first port (R255, log 121). -/
def Record.draftLink (r : Record) (l : MyLink) : Bool :=
  let first (k : Nat) : Nat := ((List.range r.n).find? (fun g => r.stageOf g = k)).getD 0
  let k := r.stageOf r.gpos
  let next := first (k + 1)
  l.use = 1 && l.up && r.gpos = first k && l.peer = next &&
    r.mine.all (fun m => m.use ≠ 1 || !m.up || m.peer ≠ next || l.port ≤ m.port)

/-- The hop bound of a RING or RETURN link of this device for a beat of `b` slots, in ticks (R257): its SENDs and relays, the draft
records it relays at one flit per slot, and on the RETURN link the verdicts. -/
def State.hopBound (s : State) (p : Nat) (l : MyLink) (b : Nat) : Nat :=
  let msgs := match (s.part p).table with
    | some ts => ts.edgeSends l.port ++ (ts.ingress.filter (fun (e : Ingress) => e.fv && e.fport == l.port)).map ts.relayBytes
    | none => []
  let drafts := if (((s.girth p).record.map (fun r => r.draftLink l)).getD false) ∧
    ((s.part p).table.map (fun ts => decide (ts.dmax > 0))).getD false then b else 0
  let verdicts := if l.use = 2 then b * flits Config.verdictBytes else 0
  let f := (b * (msgs.map flits).sum + drafts + verdicts) * s.girthsOnPort l.port
  ceilDiv (f + ceilDiv f 8 + linkFixed l.cable) 32

/-! ### The start round (R249) -/

/-- Every link of this device has passed hello for the girth (R248). -/
def State.helloPassed (s : State) (r : Record) : Bool := r.mine.all (fun l => bit (s.port l.port).girths r.ledger)

/-- This device can take part in a start round: LINKED, or STOPPED with every link still UP, with a table set (R248, R249). -/
def State.canStart (s : State) (p : Nat) : Bool :=
  let g := s.girth p
  match g.record, (s.part p).table with
  | some r, some _ => g.st = .linked || (g.st = .stopped && s.helloPassed r)
  | _, _ => false

/-- SEL1, the awl's time for one slot (R207). -/
def State.selCycles (s : State) (p : Nat) (l : List LogitEnt) (nbias : Nat) : Nat :=
  let cs := (l.map (·.cluster)).eraseDups
  let _ := s.part p
  if l.isEmpty then 0
  else (cs.map (fun c => 384 + 2 * ((l.filter (fun e => e.cluster = c)).map (·.nblk)).sum)).foldl max 0 + 64 + 1536 + 48 * cs.length +
    7 * nbias

/-- The figures that this device reports (R179, R207, R222, R249). -/
def State.ownFigures (s : State) (p : Nat) : Figures :=
  let g := s.girth p
  let q := s.part p
  let b := g.b
  match q.table, g.record with
  | some ts, some r =>
    let nbias := (q.bias.map (fun x => x.2.length)).foldl max 0
    let sel := if s.isCantle p then b * s.selCycles p ts.logit nbias else 0
    let dw := if s.isPommel p then ts.dw.getD (b - 1) 0 else 0
    { stage := r.stageOf r.gpos, w := ts.w.getD (b - 1) 0 + sel + dw, ar := ts.ar.getD (b - 1) 0, as := ts.as.getD (b - 1) 0
      hopIn := g.hopIn, hkPerm := q.hkPerm, hkChunk := q.hkChunk }
  | _, _ => default

/-- A stage's maxima with one more device's figures (R249). -/
def mergeFigures (f : Figures) : List Figures → List Figures
  | [] => [f]
  | x :: xs =>
    if x.stage = f.stage then
      { stage := x.stage, w := max x.w f.w, ar := max x.ar f.ar, as := max x.as f.as, hopIn := max x.hopIn f.hopIn
        hkPerm := max x.hkPerm f.hkPerm, hkChunk := max x.hkChunk f.hkChunk } :: xs
    else if f.stage < x.stage then f :: x :: xs
    else x :: mergeFigures f xs

/-- GIRTH_START (R249, R286): the pommel opens the start round with its own minima, and the reply waits for its end. -/
def execGirthStart (b : Nat) (s : State) : Result :=
  command b 0x22 (fun src w s =>
    let p := pktPart w
    let g := s.girth p
    if ¬ s.isPommel p then s.reply src w 0x04
    else if ¬ s.canStart p ∨ g.round.isSome then s.reply src w 0x04 [0]
    else
      let ts := ((s.part p).table).getD {}
      ((s.setGirth p { g with prev := g.st, round := some s.tick, roundSrc := some src, roundPkt := w, figs := [], kidsIn := 0, boots := []
                              hopRx := [], floors := [], b := ts.beatSlots, resPos := ts.resPos, resCount := ts.resCount }).figures p
        (.round p 1 [] 64 (2 ^ 20) 255 0 true 0 []) .down).startCmd src w) s

/-- A start round fails: GIRTH_START replies REJECT_PARAM with the failing position, and every device keeps its state (R249). -/
def State.failRound (s : State) (p gpos : Nat) : State :=
  let g := s.girth p
  let s := s.setGirth p { g with round := none, roundSrc := none, roundPkt := [], figs := [] }
  match g.roundSrc with
  | some src => s.reply src g.roundPkt 0x04 [gpos]
  | none => s

/-- The inbound hop bound of this device (R250): the largest bound that its RING links brought, and the fixed part of its inbound ABREAST
links that carry ready marks; 0 at the pommel. -/
def State.hopInOf (s : State) (p : Nat) : Nat :=
  match (s.girth p).record with
  | none => 0
  | some r =>
    if r.gpos = 0 then 0
    else
      let ring := (r.mine.filter (fun l => l.use = 1 && !l.up)).map (fun l => getD 0 l.port (s.girth p).hopRx)
      let marks := (((s.part p).table.map (·.ingress)).getD []).filter (fun e => e.kind = 1)
      let fixed := (r.mine.filter (fun l => l.use = 3 && marks.any (fun e => e.port = l.port))).map (fun l => linkFixed l.cable)
      ring.foldl max 0 + ceilDiv (fixed.foldl max 0) 32

/-- The hop bound of each RING and RETURN link that leaves this device goes to its far end, and to each ABREAST peer the arrival bound of
each SEND to it (R249, R257). -/
def State.sendBounds (s : State) (p b : Nat) : State :=
  match (s.girth p).record with
  | none => s
  | some r =>
    let s := (r.mine.filter (fun l => l.up && (l.use = 1 || l.use = 2))).foldl (fun (s : State) l =>
      let o : Out := .hopBound l.port (s.hopBound p l b)
      (s.emit o).girthMsg p l.port 5 6 0 l.peer (freeBody o 64)) s
    let xs := ((s.part p).table.map (·.xout)).getD []
    (r.mine.filter (fun l => l.use = 3)).foldl (fun (s : State) l =>
      (xs.filter (fun x => x.1 / 32 = l.port)).foldl (fun (s : State) x =>
        let o : Out := .xin l.port (x.1 % 32) x.2
        (s.emit o).girthMsg p l.port 5 6 0 l.peer (freeBody o 64)) s) s

/-- A member reports its subtree's figures once B has come, every child has reported, and every inbound RING link has brought its bound
(R249, R250). -/
def State.reportFigures (s : State) (p : Nat) (r : Record) : State :=
  let g := s.girth p
  if g.round.isNone ∨ g.kidsIn < r.childPorts.length ∨
      ¬ (r.mine.filter (fun l => l.use = 1 && !l.up)).all (fun l => (find? l.port g.hopRx).isSome) then s
  else
    let s := s.setGirth p { g with hopIn := s.hopInOf p, round := none }
    let hr := if s.isCantle p then ((r.mine.filter (fun l => l.use = 2)).map (fun l => s.hopBound p l g.b)).foldl max 0 else g.hRet
    s.figures p (.round p 3 (mergeFigures (s.ownFigures p) g.figs) g.b g.resPos g.resCount hr true 0 []) .up

/-- Figures of several stages join those held (R249). -/
def mergeAll (fs gs : List Figures) : List Figures := fs.foldl (fun acc f => mergeFigures f acc) gs

/-- Step 1 at a member (R249): the pommel's request (it names no member) goes on down the tree; a child's report joins the minima, and the
last one's goes up with this device's own. -/
def State.gather (s : State) (p : Nat) (r : Record) (slots resPos resCount : Nat) (ok : Bool) (gpos : Nat) (boots : List (Nat × Nat)) : State :=
  let g := s.girth p
  let ts := ((s.part p).table).getD {}
  if ¬ s.canStart p then s.figures p (.round p 1 [] slots resPos resCount 0 false r.gpos [(r.gpos, s.host.boot)]) .up
  else if ¬ ok then s.figures p (.round p 1 [] slots resPos resCount 0 false gpos boots) .up
  else
    let s := if boots.isEmpty then
        (s.setGirth p { g with b := ts.beatSlots, resPos := ts.resPos, resCount := ts.resCount, boots := [], kidsIn := 0, hopRx := [], figs := []
                               hRet := 0, round := none }).figures p
          (.round p 1 [] slots resPos resCount 0 true 0 []) .down
      else s.setGirth p { g with b := min g.b slots, resPos := min g.resPos resPos, resCount := min g.resCount resCount, boots := g.boots ++ boots
                                 kidsIn := g.kidsIn + 1 }
    let g := s.girth p
    if g.kidsIn < r.childPorts.length then s
    else s.figures p (.round p 1 [] g.b g.resPos g.resCount 0 true 0 ((r.gpos, s.host.boot) :: g.boots)) .up

/-- START_ROUND_FIGURES (R145, R179, R192, R249, R250, R257): a start-round message. Step 1 gathers states and minima, step 2 brings B and the
minima, step 3 brings figures up the tree with H_ret from the cantle, step 4 the housekeeping floor that member `gpos` has set since (R192),
step 5 the hop bound `hret` of the link on port `slots`, and step 6 the arrival bound `hret` of the peer's SEND to DBUF `resPos` of port
`slots` (log 39). -/
def execStartRoundFigures (p step : Nat) (stages : List Figures) (slots resPos resCount hret : Nat) (ok : Bool) (gpos : Nat)
    (boots : List (Nat × Nat)) (s : State) : Result :=
  onPart p (
    let g := s.girth p
    match g.record with
    | none => s
    | some r =>
      if s.isPommel p then
        if step = 4 then
          match stages.head? with
          | some f => (s.setGirth p { g with floors := put gpos (f.hkPerm, f.hkChunk) g.floors }).wheelRest p
          | none => s
        else if g.round.isNone then s
        else if ¬ ok then s.failRound p gpos
        else if step = 1 ∧ g.figs.isEmpty then
          let s := s.setGirth p { g with b := min g.b slots, resPos := min g.resPos resPos, resCount := min g.resCount resCount
                                         boots := g.boots ++ boots, kidsIn := g.kidsIn + 1 }
          let g := s.girth p
          if g.kidsIn < r.childPorts.length then s
          else
            let s := s.setGirth p { g with hopIn := 0, kidsIn := 0 }
            let s := (s.setGirth p { s.girth p with figs := [s.ownFigures p], hRet := 0 }).figures p
              (.round p 2 [] g.b g.resPos g.resCount 0 true 0 []) .down
            s.sendBounds p g.b
        else if step = 3 ∧ ¬ g.figs.isEmpty then
          s.setGirth p { g with figs := mergeAll stages g.figs, hRet := max g.hRet hret, kidsIn := g.kidsIn + 1 }
        else s
      else if step = 1 then s.gather p r slots resPos resCount ok gpos boots
      else if step = 2 then
        if ¬ s.canStart p then s
        else
          let s := (s.setGirth p { g with prev := g.st, b := slots, resPos, resCount, kidsIn := 0, figs := [], round := some s.tick }).figures p
            (.round p 2 [] slots resPos resCount 0 true 0 []) .down
          (s.sendBounds p slots).reportFigures p r
      else if step = 3 then
        if ¬ ok then s.figures p (.round p 3 [] slots resPos resCount hret false gpos boots) .up
        else (s.setGirth p { g with figs := mergeAll stages g.figs, hRet := max g.hRet hret, kidsIn := g.kidsIn + 1 }).reportFigures p r
      else if step = 5 then
        (s.setGirth p { g with hopRx := put slots hret g.hopRx }).reportFigures p r
      else if step = 6 then
        let late := (((s.part p).table.map (·.ingress)).getD []).any (fun e => e.kind = 1 && e.port = slots && e.dbuf = resPos && decide (e.xin < hret))
        if late then s.figures p (.round p 3 [] 0 0 0 0 false r.gpos []) .up else s
      else s.figures p (.round p step stages slots resPos resCount hret ok gpos boots) .up)

/-- START_ROUND_TIMEOUT (R249): a round of more than 100 ms fails; no position is to blame, and the reply names 0xFF (log 40). -/
def execStartRoundTimeout (p : Nat) (s : State) : Result :=
  onPart p (match (s.girth p).round with
    | some t => if s.isPommel p ∧ t + 2500000 < s.tick then s.failRound p 0xFF else s
    | none => s)

/-- GIRTH_GO (R180, R192, R249): at the pommel, once every stage has reported, the wheel is computed, GO goes out and GIRTH_START
replies; a member takes the GO, which brings T_gap (R244, log 131). The units of the partition start afresh (log 41). -/
def execGirthGo (p tGap : Nat) (s : State) : Result :=
  onPart p (
    let g := s.girth p
    match g.record with
    | none => s
    | some r =>
      if s.isPommel p then
        if g.round.isNone ∨ g.figs.length ≠ r.stages ∨ g.kidsIn < r.childPorts.length then s
        else
          let wh := s.newWheel p
          let s := s.resetUnits p
          let s := s.setGirth p { g with
            st := .running, epoch := 0, round := none, roundSrc := none, roundPkt := [], wheel := wh, t0 := none, lastIssue := none
            margin := none, issued := [], beatNo := 0, queue := [], pfRow := [], claims := [], down := [], voided := false
            restartPend := false, thermal := none, thermalStop := false, closed := false, grants := [], readmits := [] }
          let s := s.figures p (.go p wh.tGap) .down
          let s := (s.part p).tileList.foldl (fun s t => s.settle t) s
          match g.roundSrc with
          | some src => s.reply src g.roundPkt 0x00 [wh.k, wh.b, wh.tGap, wh.c, wh.tRing, wh.hRet]
          | none => s
      else if g.st = .linked ∨ g.st = .stopped then
        let g' : Girth := { g with st := .running, epoch := 0, closed := false, grants := [], wheel := { g.wheel with tGap } }
        let s := ((s.resetUnits p).setGirth p g').figures p (.go p tGap) .down
        (s.part p).tileList.foldl (fun s t => s.settle t) s
      else s)

/-! ### Stops (R200, R248, R256, R298, R305) -/

/-- Claims in flight end with a status (R186, R262). -/
def State.endClaims (s : State) (p status : Nat) : State :=
  (s.girth p).claims.foldl (fun s c => if c.src.isSome then s.claimFails p c status else s.closeClaim p c.handle) s

/-- A girth stops at the pommel (R171, R200): its active requests end, the members get STOP, and it enters STOPPED. -/
def State.stopGirth (s : State) (p void : Nat) (failed : Bool) (status : Nat) : State :=
  let s := (s.endAll p void failed status).endClaims p 0x04
  let s := ((s.stopWheel p).rein p (.stop .girthStop)).releaseHold p
  s.setGirth p { s.girth p with st := .stopped, stopIn := 0, readmits := [], thermal := none, thermalStop := false, restartPend := false, down := [] }

/-- A member's girth stops: its entries are freed (R171, R248). -/
def State.stopMember (s : State) (p : Nat) : State :=
  let s := ((s.activeOf p).foldl State.memberFree s).releaseHold p
  s.setGirth p { s.girth p with st := .stopped, stopIn := 0, closed := false }

/-- The GIRTH_STOP commands that have waited reply (R298). -/
def State.replyStops (s : State) (p : Nat) : State :=
  let g := s.girth p
  g.stops.foldl (fun s x => s.reply x.1 x.2.1 0x00 [x.2.2]) (s.setGirth p { g with stops := [], stopIn := 0 })

/-- This device and every device below it in the rein tree are STOPPED (R298): the commands that have waited reply, and a member says so up
the tree. -/
def State.stopDone (s : State) (p : Nat) : State :=
  let s := s.replyStops p
  if s.isPommel p then s else s.rein p (.stop .stopped)

/-- One more child's part of the tree is STOPPED (R298). -/
def State.stopSeen (s : State) (p : Nat) : State :=
  let g := s.girth p
  if g.stopIn + 1 < ((g.record.map (·.childPorts)).getD []).length then s.setGirth p { g with stopIn := g.stopIn + 1 }
  else s.stopDone p

/-- GIRTH_STOP (R200, R268, R298, R305): at the pommel every active request ends CANCELLED and the girth stops, and the reply waits until every
member is STOPPED; a member carries the stop to the pommel, and its reply waits for its own part of the tree. A held girth's reply waits for
none, since R268 lets members that it cannot reach end later (log 37). -/
def girthStopCmd (src : CmdSrc) (w : List Nat) (s : State) : State :=
  let p := pktPart w
  let g := s.girth p
  match g.record with
  | none => s.reply src w 0x04
  | some r =>
    let n := (s.activeOf p).length
    let s := if g.round.isSome then s.failRound p 0xFF else s
    let wait : Bool := if s.isPommel p then (g.st = .running && !r.childPorts.isEmpty) || !g.stops.isEmpty
      else g.st = .running || g.st = .held
    let s := if ¬ s.isPommel p then s.reinUp p (.stop .girthStop) else if g.st = .stopped then s else s.stopGirth p 5 false 0x09
    if wait then (s.startCmd src w).setGirth p { s.girth p with stops := (s.girth p).stops ++ [(src, w, n)] }
    else s.reply src w 0x00 [n]

/-- GIRTH_STOP from a ring (R284, R285, R298). -/
def execGirthStop (b : Nat) (s : State) : Result := command b 0x23 girthStopCmd s

/-- STOP (R199, R256, R298, R305): a stop on the rein tree, on its way up to the pommel or down from it. A CANCEL reaches the cantle, which
posts nothing more of the step; a GIRTH_STOP or TENANT_END ends the girth's requests; a member that has stopped with all below it says so. -/
def execStop (p : Nat) (up : Bool) (k : StopKind) (s : State) : Result :=
  onPart p (
    if (s.girth p).record.isNone then s
    else if up ∧ ¬ s.isPommel p ∧ k ≠ .stopped then s.reinUp p (.stop k)
    else match k, s.isPommel p with
      | .stopped, _ => if (s.girth p).st = .stopped then s.stopSeen p else s
      | .cancel h, true => match s.entryOf h with
        | some e => if e.part = p then s.cancelRequest h else s
        | none => s
      | .cancel h, false =>
        let s := match s.entryOf h with
          | some _ =>
            let i := handleIdx h
            let r : Ring := s.ring p
            if s.isCantle p then
              let verdicts := (r.tqWait.filter (fun (t : TokRec) => t.handle == h)).filterMap (fun (t : TokRec) => t.verdict)
              let s := (s.setExt i { s.extn i with noPost := true }).setRing p { r with tqWait := r.tqWait.filter (fun (t : TokRec) => t.handle != h) }
              verdicts.foldl (fun (s : State) v => s.sendVerdict p v) s
            else s
          | none => s
        s.rein p (.stop (.cancel h))
      | _, true => if (s.girth p).st = .stopped then s else s.stopGirth p 5 false 0x09
      | k, false =>
        let s := (s.stopMember p).rein p (.stop k)
        if ((s.girth p).record.map (·.childPorts)).getD [] = [] then s.stopDone p else s)

/-! ### Restarts of the girth (R258, R265, R366) -/

/-- A restart of the girth at this device (R96, R258, R366): a partition restart with cause 8; a member whose own restart began it
has restarted already, and drops what has reached it since. -/
def State.girthRestart (s : State) (p : Nat) : State :=
  let sent := (s.girth p).restartSent
  let s := s.setGirth p { s.girth p with restartSent := false, grants := [] }
  if ¬ sent then s.restartPart p 8 0 0 []
  else
    let s := (s.dropCopies p).resetUnits p
    (s.part p).tileList.foldl (fun s t => s.settle t) s

end Sys2Proof.Machine
end

