-- ==== Sys2Proof/Machine/Halter.lean ====
section
/-!
DEFINITION. Peer loss and the halter (R261–R268), restarts that arrive over the rein tree (R258), grants (R254), peer mailbox messages
(R256, R386, R387), and what arrives on a port for a beat (R251–R253).
-/

namespace Sys2Proof.Machine

open Sys2Proof

/-! ### The halter flush (R262, R263) -/

/-- The step of a request that is in flight is abandoned: L stays, and the step will be issued again (R149, R262, R266); a drafting round that is
not done begins again. -/
def State.abandonStep (s : State) (h : Nat) : State :=
  let x := s.extn (handleIdx h)
  s.setExt (handleIdx h) { x with inFlight := false, stepPos := 0, missed := false, late1 := false, noPost := false, decided := [],
                                  selDone := false, seen := 0, nextStep := none, rideTurn := none, draftAt := none
                                  drafts := if x.drafted1 then x.drafts else [] }

/-- The units of partition `p` after R96, with what CHECK may still commit kept: the positions of the state layers stored (R155,
R263, R266). -/
def State.haltUnits (s : State) (p : Nat) : State :=
  let kept := (s.part p).clusterList.map (fun c => (c, (s.cluster c).stored))
  let s := (s.dropCopies p).resetUnits p
  kept.foldl (fun s x => s.setCluster x.1 { s.cluster x.1 with stored := x.2 }) s

/-- A halter flush (R263): the girth is HELD here, its reservations stay closed, and steps in flight are abandoned. -/
def State.haltFlush (s : State) (p : Nat) : State :=
  let s := (s.activeOf p).foldl State.abandonStep (s.haltUnits p)
  s.setGirth p { s.girth p with st := .held, closed := true, grants := [], heldTick := s.tick, ended := [] }

/-- HALT of every active request of partition `p` (R262, R266). -/
def State.setHalt (s : State) (p : Nat) (v : Bool) : State :=
  (s.activeOf p).foldl (fun s h => s.setEntry (handleIdx h) { s.entry (handleIdx h) with halt := v }) s

/-- Claims in flight when the hold begins: a SUBMIT or RESUME replies PEER_LOST, and a re-admission waits again (R262). -/
def State.holdClaims (s : State) (p : Nat) : State :=
  (s.girth p).claims.foldl (fun s c =>
    if c.src.isSome then s.claimFails p c 0x0F
    else
      let s := s.closeClaim p c.handle
      s.setGirth p { s.girth p with readmits := (s.girth p).readmits ++ [c.handle] }) s

/-- CHECK goes down the tree once every link of the girth is UP (R266): it carries every active handle's last L and the handles that
ended during the hold. -/
def State.runCheck (s : State) (p : Nat) : State :=
  if (s.girth p).down.isEmpty then
    s.rein p (.check ((s.activeOf p).map (fun h => (h, (s.entry (handleIdx h)).l))) (s.girth p).ended)
  else s

/-- Peer loss at the pommel (R262): it enters HELD and sends FLUSH; a GIRTH_STOP that waits for members replies, since R268 lets those out of reach
end later (log 37); a second loss during the hold only delays CHECK (R268). `from?` is the member that lost a link; none for a beat that did not
come back (R261). -/
def State.enterHold (s : State) (p : Nat) (from? : Option Nat) : State :=
  let g := s.girth p
  if g.st ≠ .running ∧ g.st ≠ .held then s.replyStops p
  else
    let s := s.setGirth p { g with down := g.down ++ from?.toList, checked := false }
    if g.st = .held then s
    else
      let s := ((s.holdClaims p).setHalt p true).haltFlush p
      let s := s.setGirth p { s.girth p with t0 := none, lastIssue := none, margin := none, issued := [], beatNo := 0 }
      (s.rein p .flush).runCheck p

/-- The promise of every active request of partition `p` is voided with VOID = RESTART, and BE is set (R265, R266). -/
def State.voidAll (s : State) (p : Nat) : State :=
  let s := (s.activeOf p).foldl (fun s h => s.setEntry (handleIdx h) { s.entry (handleIdx h) with void := 2, be := true }) s
  s.setGirth p { s.girth p with voided := true, restartPend := true }

/-- A request of a held girth ends once its deadline has passed, or HALTER_MS since the peer loss where it holds no promise (R267); a
paused one stays. -/
def State.holdOver (s : State) (p h : Nat) : Bool :=
  let e := s.entry (handleIdx h)
  let g := s.girth p
  e.st.active && e.st ≠ .paused &&
    (if e.be then decide (g.heldTick + 25000 * ((g.record.map (·.halterMs)).getD 0) ≤ s.tick) else decide (e.deadline ≤ s.tick))

/-- The end of such a request: FAILED with PEER_LOST and VOID = PEER (R200, R267). -/
def State.holdEnd (s : State) (p h : Nat) : State :=
  if s.holdOver p h then (s.voidPromise h 3).endRequest h true 0x0F else s

/-- HOLD_DEADLINE (R267, R268). -/
def execHoldDeadline (p handle : Nat) (s : State) : Result :=
  onPart p (match s.entryOf handle with
    | some e => if e.part = p ∧ s.isPommel p ∧ (s.girth p).st = .held then s.holdEnd p handle else s
    | none => s)

/-- PEER_DOWN (R256, R261, R262): the pommel enters HELD; a member passes it up the tree. -/
def execPeerDown (p gpos : Nat) (s : State) : Result :=
  onPart p (
    if (s.girth p).record.isNone then s
    else if s.isPommel p then s.enterHold p (some gpos)
    else s.rein p (.peerDown gpos))

/-- A member's links are UP again at the pommel (R266, R268): deadlines of the same tick prevail, and the last one starts CHECK. -/
def State.linkBack (s : State) (p gpos : Nat) : State :=
  let g := s.girth p
  if g.st ≠ .held ∨ ¬ g.down.contains gpos then s
  else
    let s := s.setGirth p { g with down := g.down.erase gpos }
    let s := if (s.girth p).down.isEmpty then (s.activeOf p).foldl (fun s h => s.holdEnd p h) s else s
    s.runCheck p

/-- LINK_UP (R256, R266). -/
def execLinkUp (p gpos : Nat) (s : State) : Result :=
  onPart p (
    if (s.girth p).record.isNone then s
    else if s.isPommel p then s.linkBack p gpos
    else s.rein p (.linkUp gpos))

/-- FLUSH (R256, R263): a member flushes and enters HELD, and the message goes on down the tree. -/
def execFlush (p : Nat) (s : State) : Result :=
  onPart p (
    if (s.girth p).record.isNone ∨ s.isPommel p then s
    else (if (s.girth p).st = .running then s.haltFlush p else s).rein p .flush)

/-- A commit that CHECK brings to a member (R148, R210, R266): one that has been applied changes nothing. -/
def State.checkCommit (s : State) (p : Nat) (c : Nat × Nat × List Nat) : State :=
  match s.entryOf c.1 with
  | none => s
  | some e =>
    if e.part ≠ p ∨ c.2.1 ≤ e.l then s
    else
      let i := handleIdx c.1
      let x := s.extn i
      let s := if s.isCantle p then
          { s with wear := put i (x.commitWear (getD [] i s.wear) (e.st = .prefill) e.l (c.2.2.take (c.2.1 - e.l))) s.wear } else s
      let s := s.applyCommit p c.1 c.2.1
      let e := s.entry i
      let prompt := (x.carried.map (fun m => m.plen + m.tokens)).getD 0
      if e.st = .prefill ∧ prompt ≤ c.2.1 then s.setEntry i { e with st := .decode } else s

/-- CHECK (R264, R266): it comes back to the pommel with every member's report; a member takes the commits and the releases, and
reports. -/
def execCheck (p : Nat) (reports : List CheckReport) (commits : List (Nat × Nat × List Nat)) (ended : List Nat) (s : State) : Result :=
  onPart p (
    let g := s.girth p
    match g.record with
    | none => s
    | some r =>
      if s.isPommel p then
        if g.st ≠ .held ∨ ¬ g.down.isEmpty ∨ ¬ (List.range' 1 (r.n - 1)).all (fun k => reports.any (fun m => m.gpos = k)) then s
        else
          let lost := reports.any (fun m => !m.intact || !g.boots.contains (m.gpos, m.boot))
          let s := if lost then s.voidAll p else s
          s.setGirth p { s.girth p with checked := true }
      else
        let held := decide (g.st = .held)
        let s := if held then
            let s := ended.foldl State.memberFree (commits.foldl (fun s c => s.checkCommit p c) s)
            s.setGirth p { s.girth p with heldTick := s.tick }
          else s
        (s.rein p (.check (commits.map (fun c => (c.1, c.2.1))) ended)).rein p (.report r.gpos s.host.boot g.st.num held))

/-- The units of partition `p` take up their work after a hold; a restart that was put off is carried out now (R266, R268, R366). -/
def State.resume (s : State) (p : Nat) : State :=
  let s := (s.part p).clusterList.foldl (fun s c => s.setCluster c { s.cluster c with stored := [] }) s
  match (s.part p).restarting with
  | some (c, k, l) => s.restartPart p c k l []
  | none => (s.part p).tileList.foldl (fun s t => s.settle t) s

/-- RELEASE_HALT (R263, R266, R268): the pommel releases the girth once CHECK is back, with a new girth epoch; a member takes the epoch.
A girth restart put off by the hold follows. A member that
was restarted, and has been SET and LINKED again, joins the girth. -/
def execReleaseHalt (p epoch : Nat) (s : State) : Result :=
  onPart p (
    let g := s.girth p
    if g.record.isNone ∨ (g.st ≠ .held ∧ (g.st ≠ .linked ∨ s.isPommel p)) then s
    else if s.isPommel p then
      if ¬ g.down.isEmpty ∨ ¬ g.checked then s
      else
        let s := (s.activeOf p).foldl (fun s h => s.holdEnd p h) s
        let s := s.setHalt p false
        let e := (g.epoch + 1) % 16
        let s := s.setGirth p { s.girth p with st := .running, epoch := e, closed := false, checked := false, ended := [], voided := false }
        let s := s.rein p (.releaseHalt e)
        if (s.girth p).restartPend then
          let own := (s.part p).restarting.isSome
          let s := s.setGirth p { s.girth p with restartPend := false }
          let s : State := if own then s
            else (s.setGirth p { s.girth p with epoch := (e + 1) % 16 }).rein p (.restart ((e + 1) % 16) false)
          if own then s.resume p else s.girthRestart p
        else s.resume p
    else
      let s := s.setGirth p { g with st := .running, epoch, closed := false, restartPend := false, ended := [] }
      (s.rein p (.releaseHalt epoch)).resume p)

/-- RESTART (R258, R265, R268): a member's restart makes the pommel restart the girth with a new epoch, at release where the girth is
held; a member takes the epoch and restarts, and passes another member's RESTART on to the pommel. The RESTART of a chip reset voids the promises. -/
def execRestart (p gpos epoch : Nat) (chipReset : Bool) (s : State) : Result :=
  onPart p (
    let g := s.girth p
    if g.record.isNone ∨ gpos ≥ 256 then s
    else if s.isPommel p then
      if chipReset then (if g.st = .running ∨ g.st = .held then s.voidAll p else s)
      else if g.st = .running then
        let e := (g.epoch + 1) % 16
        ((s.setGirth p { g with epoch := e }).rein p (.restart e false)).girthRestart p
      else if g.st = .held then s.setGirth p { g with restartPend := true }
      else s
    else if gpos ≠ 0 then s.reinUp p (.restart epoch chipReset)
    else if chipReset then s.rein p (.restart epoch true)
    else if g.st = .running then ((s.setGirth p { g with epoch }).rein p (.restart epoch false)).girthRestart p
    else s.rein p (.restart epoch false))

/-- BEAT_RETURN_TIMEOUT (R261): a beat that is not back within 2 · C, and the announced bound of an open swap, is peer loss with GPOS
0xFF; not after the report of a thermal stop (R387). -/
def execBeatReturnTimeout (p : Nat) (s : State) : Result :=
  onPart p (
    let g := s.girth p
    if ¬ s.isPommel p ∨ g.st ≠ .running ∨ g.thermalStop then s
    else if g.issued.any (fun b => b.tick + 2 * g.wheel.c + g.swapBound < s.tick) then
      (s.raise 0x0040 2 (some p) 3 0xFF 0xFF).enterHold p none
    else s)

/-- HALTER_TIMEOUT (R264): a member HELD for HALTER_MS without a CHECK frees every entry, enters STOPPED and raises GIRTH_ORPHANED. -/
def execHalterTimeout (p : Nat) (s : State) : Result :=
  onPart p (
    let g := s.girth p
    match g.record with
    | none => s
    | some r =>
      if s.isPommel p ∨ g.st ≠ .held ∨ s.tick < g.heldTick + 25000 * r.halterMs then s
      else ((s.stopMember p).replyStops p).raise 0x0045 2 (some p) 3 r.ledger)

/-! ### Grants (R254, R260) -/

/-- GRANT (R254, R258, R260): a remote reservation's credit arrives for a SEND of PATH 7. -/
def execGrant (p port dbuf epoch : Nat) (s : State) : Result :=
  guardUnit (p < 16 && port < 8) (
    let g := s.girth p
    if g.record.isNone then s
    else if epoch ≠ g.epoch then s.staleOn port
    else if g.st ≠ .running then s
    else (s.setGirth p { g with grants := g.grants ++ [(port, dbuf)] }).edgeGrants p)

/-! ### Peer mailbox messages (R256, R386, R387) -/

/-- A peer mailbox message takes effect at its receiver: a WARN or THERMAL_STOP at the pommel (R187, R386, R387); other words are stored in
the peer mailbox (R256). -/
def State.peerMessage (s : State) (p gpos : Nat) (m : PeerMsg) : State :=
  let g := s.girth p
  match m with
  | .words ws => { s with host := { s.host with peerBox := some (gpos, ws) } }
  | .warn on =>
    let w := g.warn.filter (· ≠ gpos)
    s.setGirth p { g with warn := if on then gpos :: w else w }
  | .thermalStop d => s.thermalAt p d

/-- PEER_MBX (R256, R386): a message from position `gpos` for position `dst` is delivered there, and passed on by every other device, between
two members through the pommel; a receiver whose mailbox is full, or whose firmware does not serve, answers MBX_NAK and stores nothing
(log 42). -/
def execPeerMbx (gpos dst p : Nat) (m : PeerMsg) (s : State) : Result :=
  onPart p (
    match (s.girth p).record with
    | none => s
    | some r =>
      if dst ≠ r.gpos then s.rein p (.peerMbx gpos dst m)
      else if ¬ s.serves ∨ s.host.peerBox.isSome then s.rein p (.mbxNak gpos m)
      else s.peerMessage p gpos m)

/-- MBX_NAK (R256, R386): the message is sent again at the end of the next round. -/
def execMbxNak (p : Nat) (m : PeerMsg) (s : State) : Result :=
  onPart p { s with hk := { s.hk with resend := s.hk.resend ++ [(p, m)] } }

/-- THERMAL_STOP (R387): a thermal stop reaches the pommel; a member passes it on. -/
def execThermalStop (p gpos : Nat) (drain : Bool) (s : State) : Result :=
  onPart p (
    if (s.girth p).record.isNone then s
    else if s.isPommel p then s.thermalAt p drain
    else s.rein p (.peerMbx gpos 0 (.thermalStop drain)))

/-- THERMAL_DRAIN_TIMEOUT (R387): 2 · C after a draining stop the pommel ends every active request that is not PAUSED. -/
def execThermalDrainTimeout (p : Nat) (s : State) : Result :=
  onPart p (match (s.girth p).thermal with
    | some t => if s.isPommel p ∧ t + 2 * (s.girth p).wheel.c ≤ s.tick then s.thermalEnd p else s
    | none => s)

/-! ### What arrives for a beat (R251–R253) -/

/-- The slots of a beat with a vector that arrived over a RING link (R253): the smallest TICKS, MISSED and BRAKE as the OR. -/
def addSlot (x : Nat × Nat × Nat × Nat) : List (Nat × Nat × Nat × Nat) → List (Nat × Nat × Nat × Nat)
  | [] => [x]
  | y :: ys =>
    if y.1 = x.1 ∧ y.2.1 = x.2.1 ∧ y.2.2.1 = x.2.2.1 then
      (y.1, y.2.1, y.2.2.1, min (budTicks y.2.2.2) (budTicks x.2.2.2) + ((y.2.2.2 - budTicks y.2.2.2) ||| (x.2.2.2 - budTicks x.2.2.2))) :: ys
    else y :: addSlot x ys

/-- A beat that nothing has reached. -/
def Beat.new : Beat := { arrived := [], ready := [], started := none, slots := [], ended := [] }

/-- A BEAT message joins the beat that its slot belongs to: one that already holds the position, else the first that has not started
and still expects a message of the entry, else a new one (R252). -/
def joinBeat (n : Nat) (e : Ingress) (hdr : VecHdr) (ring : Bool) : List Beat → List Beat
  | [] => [{ Beat.new with arrived := if hdr.last then [e] else [],
                           slots := if ring then [(hdr.slot, hdr.handle, hdr.pos, hdr.budget)] else [] }]
  | b :: bs =>
    let holds := b.slots.any (fun x => x.1 = hdr.slot && x.2.1 = hdr.handle && x.2.2.1 = hdr.pos)
    if holds ∨ (b.started.isNone ∧ b.arrived.count e < n) then
      { b with arrived := if hdr.last then e :: b.arrived else b.arrived
               slots := if ring then addSlot (hdr.slot, hdr.handle, hdr.pos, hdr.budget) b.slots else b.slots } :: bs
    else b :: joinBeat n e hdr ring bs

/-- The ports of the ABREAST peers that this device feeds within the stage, one for each peer (R251, R252). -/
def State.fedPeers (s : State) (p : Nat) : List Nat :=
  match (s.girth p).record, (s.part p).table with
  | some r, some ts =>
    let fed := (r.mine.filter (fun l => l.use = 3)).filter (fun l =>
      !(ts.edgeSends l.port).isEmpty || ts.ingress.any (fun e => e.fv && e.fport = l.port))
    (fed.filter (fun l => fed.all (fun k => k.peer ≠ l.peer || l.port ≤ k.port))).map (·.port)
  | _, _ => []

/-- The use of the girth's link on a port: 1 RING, 2 RETURN, 3 ABREAST (R233). -/
def State.linkUse (s : State) (p port : Nat) : Nat :=
  match (s.girth p).record with
  | some r => ((r.mine.find? (fun l => l.port = port)).map (·.use)).getD 0
  | none => 0

/-- A BEAT message arrives: its beat takes it, a request's first vector starts its prefill here, and ready marks go out in the tick in
which the device's own messages are complete (R171, R252). -/
def State.beatMessage (s : State) (p n : Nat) (e : Ingress) (hdr : VecHdr) (port ledger : Nat) : State :=
  let q := s.part p
  let before := q.beats.countP (fun b => s.beatFilled p b)
  let s := s.setPart p { q with beats := joinBeat n e hdr (s.linkUse p port = 1) q.beats }
  let s : State := match s.entryOf hdr.handle with
    | some x => if x.st = .admitted then s.setEntry (handleIdx hdr.handle) { x with st := .prefill } else s
    | none => s
  if (s.part p).beats.countP (fun b => s.beatFilled p b) ≤ before then s
  else (s.fedPeers p).foldl (fun (s : State) q => s.sendFree p (.ready q ledger) 5 7 [q]) s

/-- A message is delivered to the group of ingress entry `i` (R124, R125, R251): each message is one producer of its own, and a member
that has no reservation open for it meets FAB_NOBUF. -/
def State.ingressDeliver (s : State) (p i port group dbuf : Nat) (hdr : VecHdr) (body : Payload) : State :=
  match (s.part p).table with
  | none => s
  | some ts =>
    let ms := getD [] group ts.groups
    let chan : Channel := if dbuf ≥ 28 then .kv else .bulk
    match (List.range 256).find? (fun k => ms.all (fun m => (s.credit (ingressSender p i k) m).isSome)) with
    | some k => s.launch p (ingressSender p i k) group chan (some ⟨edgeCluster port, true⟩) hdr body ms
    | none =>
      match (s.ungranted (ingressSender p i 0) ms).head? with
      | none => s
      | some m =>
        let s := s.launch p (ingressSender p i 0) group chan (some ⟨edgeCluster port, true⟩) hdr body ms
        s.fabNobuf (newCopy p (s.part p).epoch group 0 m chan none hdr body)

/-- A layer of partition `p` is held at the halter barrier (R334). -/
def Part.swapHeld (q : Part) : Bool := (q.swap.map (fun w => !w.held.isEmpty)).getD false

/-- A message of ingress entry `i` goes on: it is relayed before it is delivered (R251–R254). -/
def State.ingressTake (s : State) (p i port girth : Nat) (ts : TableSet) (e : Ingress) (hdr : VecHdr) (body : Payload) : State :=
  let q := s.part p
  let s := s.setPart p { q with edgeGranted := q.edgeGranted.erase i }
  let s : State := if e.fv then
      (s.setGirth p { s.girth p with grants := (s.girth p).grants.erase (e.fport, e.fdbuf) }).sendMsg e.fport girth e.fdbuf hdr body
    else s
  let s := if e.kind = 0 then s.beatMessage p (ts.entryMsgs e) e hdr port girth else s
  (s.ingressDeliver p i port e.group e.dbuf hdr body).edgeGrants p

/-- The halter barrier of a swap is released: messages that waited at ingress go on in order, and meet the new weights (R334, R337). While another
layer is held they wait on. -/
def State.releaseIngress (s : State) (p : Nat) : State :=
  let q := s.part p
  if q.swapHeld then s
  else
    let s := s.setPart p { q with atIngress := [] }
    match q.table, (s.girth p).record with
    | some ts, some r =>
      if (s.girth p).st ≠ .running then s
      else q.atIngress.foldl (fun s x => match ts.ingress.zipIdx.find? (fun y => y.1.port = x.1 && y.1.dbuf = x.2.1) with
        | some (e, i) => s.ingressTake p i x.1 r.ledger ts e x.2.2.1 x.2.2.2
        | none => s) s
    | _, _ => s

/-- INGRESS_MESSAGE (R84, R124, R251–R254, R258–R260, R334): a blocks or tally message arrives on a port. A beat message waits at ingress while a
layer is held at the halter barrier of a swap; one of an old epoch is discarded and counted. -/
def execIngressMessage (port girth dbuf epoch : Nat) (hdr : VecHdr) (body : Payload) (s : State) : Result :=
  onPort port (
    let p := s.partOfLedger girth
    let g := s.girth p
    if p ≥ 16 ∨ ¬ bit (s.port port).girths girth then s
    else if epoch ≠ g.epoch then s.staleOn port
    else if g.st ≠ .running ∨ ¬ s.runs p then s
    else match (s.part p).table with
      | none => s
      | some ts =>
        match ts.ingress.findIdx? (fun e => e.port = port && e.dbuf = dbuf) with
        | none => s
        | some i =>
          match ts.ingress[i]? with
          | none => s
          | some e =>
            let q := s.part p
            if e.kind = 0 ∧ q.swapHeld then s.setPart p { q with atIngress := q.atIngress ++ [(port, dbuf, hdr, body)] }
            else s.ingressTake p i port girth ts e hdr body)

/-- A ready mark joins the first beat that has not started and lacks it, else a new one (R252). -/
def joinReady (port : Nat) : List Beat → List Beat
  | [] => [{ Beat.new with ready := [port] }]
  | b :: bs => if b.started.isNone ∧ ¬ b.ready.contains port then { b with ready := b.ready ++ [port] } :: bs else b :: joinReady port bs

/-- READY_MARK (R252, R258): a ready mark from an ABREAST peer; one of an old epoch is discarded and counted. -/
def execReadyMark (port girth epoch : Nat) (s : State) : Result :=
  onPort port (
    let p := s.partOfLedger girth
    if p ≥ 16 ∨ ¬ bit (s.port port).girths girth then s
    else if epoch ≠ (s.girth p).epoch then s.staleOn port
    else if (s.girth p).st ≠ .running ∨ ¬ s.runs p then s
    else s.setPart p { s.part p with beats := joinReady port (s.part p).beats })

end Sys2Proof.Machine
end

