-- ==== Sys2Proof/Machine/Links.lean ====
section
/-!
DEFINITION. Luawin ports: training and keys (R236, R419), hellos (R245–R247), flits, credits and replay (R238–R244), links that go
DOWN (R244, R261), and the reference clocks (R432).
-/

namespace Sys2Proof.Machine

open Sys2Proof

/-! ### Down and up -/

/-- The reference clock of a port is good (R236, R432). -/
def State.portClock (s : State) (port : Nat) : Bool := if port < 4 then s.pwr.lref0 else s.pwr.lref1

/-- The flits of a port are counted afresh: sequence numbers, replay buffer, queue and credits start again with training. -/
def Port.fresh (q : Port) : Port :=
  { q with lock := 0, replaying := false, girths := 0, seqNext := 0, seqExp := 0, lastGood := none, nakSent := false, replayBuf := [], resend := []
           nakRow := 0, replayTicks := [], credRein := 32, credMgmt := 16, credits := [], hseq := 0, sentH := [], gotH := none
           txQ := [], txUsed := [], owed := [], nakDue := false, sent := [], helloTick := none, helloSent := [], gotTick := 0
           echoed := false, keyed := false, txCount := 0, rxCount := 0, txGen := 0, rxGen := 0 }

/-- The link of a port goes DOWN (R244, R419): its keys are discarded, and no girth has passed hello on it. -/
def State.portDown (s : State) (port : Nat) : State :=
  let q := s.port port
  if q.st = .disabled then s else s.setPort port { q.fresh with st := .down }

/-- The peer loss that a link's end declares for one girth, whatever its state (R261–R263). -/
def State.declareLoss (s : State) (port p : Nat) : State :=
  match (s.girth p).record with
  | none => s
  | some r =>
    match r.mine.find? (fun l => l.port = port) with
    | none => s
    | some l =>
      let q := s.port port
      let g := s.girth p
      if g.st = .unset ∨ bit q.lost r.ledger then s
      else
        let s := s.setPort port { q with lost := q.lost ||| 2 ^ r.ledger }
        let s := s.raise 0x0040 2 (some p) 3 port l.peer
        if s.isPommel p then s.enterHold p (some 0)
        else (if g.st = .running then s.haltFlush p else s).rein p (.peerDown r.gpos)

/-- LINK_DOWN (R261–R263): a link is DOWN; every girth that uses it declares peer loss and flushes. -/
def execLinkDown (p : Nat) (s : State) : Result :=
  onPort p (
    let s := s.portDown p
    (s.girths.map (·.1)).foldl (fun s k => s.declareLoss p k) s)

/-- LOSS_OF_SIGNAL (R244): loss of signal on a lane for 1 µs takes the link DOWN. -/
def execLossOfSignal (p lane : Nat) (s : State) : Result :=
  guardUnit (p < 8 && lane < 8) (
    if ¬ (s.port p).en then s
    else (((s.setPort p { s.port p with los := true }).portDown p)).lwErr p 0)

/-- ACK_TIMEOUT (R244): no advance of ACK for 20 µs while flits are unacknowledged takes the link DOWN. -/
def execAckTimeout (p : Nat) (s : State) : Result :=
  onPort p (
    let q := s.port p
    if q.replayBuf.isEmpty ∨ s.tick < q.ackTick + 500 then s else (s.portDown p).lwErr p 4)

/-! ### Training and keys (R236, R419, R420) -/

/-- A port may train (R244, R420, R432, R436, R449): enabled, its clock good, never before start-up step 5, with health tests that pass. -/
def State.mayTrain (s : State) (p : Nat) : Bool :=
  (s.port p).en && s.portClock p && s.sec.trngOk && decide (1 ≤ s.pwr.phase) && (s.pwr.st = .run || s.pwr.st = .idle) &&
    s.pwr.tclkOk && !s.ev.halted && s.ev.resetDue.isNone

/-- LW_TRAINING_DONE (R236, R244, R419): training ends in HELLO with both link keys set, or fails: `result` 0 on the lanes, 1 or 2 with a
peer signature or key that does not verify. A DOWN port trains on its own. -/
def execLwTrainingDone (p : Nat) (result : Option Nat) (peerKeyId : Nat) (s : State) : Result :=
  onPort p (
    let q := s.port p
    if ¬ s.mayTrain p ∨ (q.st ≠ .training ∧ q.st ≠ .down) then s
    else match result with
      | none => s.setPort p { q.fresh with st := .hello, los := false, lock := 0xFF, keyed := true, peerKey := peerKeyId, ackTick := s.tick }
      | some 0 => (s.setPort p { q.fresh with st := .down }).lwErr p 1
      | some k => ((s.setPort p { q.fresh with st := .down }).lwErr p 1).raise 0x0309 1 none 3 p k)

/-- LINK_KEY_UPDATE (R419): 2^32 flits after the last key of a direction, the direction's key is replaced. -/
def execLinkKeyUpdate (p : Nat) (tx : Bool) (s : State) : Result :=
  onPort p (
    let q := s.port p
    if ¬ q.keyed then s
    else if tx then (if 2 ^ 32 * (q.txGen + 1) ≤ q.txCount then s.setPort p { q with txGen := q.txGen + 1 } else s)
    else if 2 ^ 32 * (q.rxGen + 1) ≤ q.rxCount then s.setPort p { q with rxGen := q.rxGen + 1 } else s)

/-! ### Hello (R245–R247) -/

/-- The girth entries of a hello (R245). -/
def State.helloEntries (s : State) : List HelloEnt :=
  s.girths.filterMap (fun x => match x.2.record with
    | none => none
    | some r =>
      let ts := ((s.part x.1).table).getD {}
      some { ledger := r.ledger, gpos := r.gpos, state := x.2.st.num, beatSlots := ts.beatSlots, resPos := ts.resPos, resCount := ts.resCount
             digest := r.digest })

/-- A hello is due (R245): the first after training, one each 100 µs until the peer's hello has come and the port's own has been echoed, and
one whenever a girth entry has changed. -/
def State.helloDue (s : State) (p : Nat) : Bool :=
  let q := s.port p
  match q.helloTick with
  | none => true
  | some t => (!(q.gotH.isSome && q.echoed) && decide (t + 2500 ≤ s.tick)) || decide (q.helloSent ≠ s.helloEntries)

/-- HELLO_SEND (R245): a hello that is due. HOLD is the time since the echoed hello arrived: 32 flit times for each tick of it, and a part of
a tick that the model leaves free (log 3). -/
def execHelloSend (p : Nat) (s : State) : Result :=
  onPort p (
    let q := s.port p
    if ¬ q.carries ∨ ¬ s.helloDue p then s
    else
      let (n, s) := s.draw
      let es := s.helloEntries
      let h : Hello := { deviceId := s.host.devId, port := p, hseq := q.hseq, boot := s.host.boot, echoSeq := q.gotH.getD 0
                         echoV := q.gotH.isSome, hold := if q.gotH.isSome then (32 * (s.tick - q.gotTick) + n % 32) % 2 ^ 32 else 0, entries := es }
      let s := s.setPort p { q with hseq := (q.hseq + 1) % 2 ^ 16, sentH := q.sentH ++ [q.hseq], helloTick := some s.tick, helloSent := es }
      let (src, dst) : Nat × Nat := match es.head? with
        | some e => (e.gpos, 0xFF)
        | none => (0, 0xFF)
      s.sendHello p h src dst)

/-- Why a hello does not match a girth's record, as LW_HELLO_CAUSE counts it; 0 where it matches (R246, R419). -/
def helloCause (q : Port) (r : Record) (l : MyLink) (h : Hello) : Nat :=
  if h.deviceId ≠ r.deviceAt l.peer ∨ h.deviceId ≠ q.peerKey then 1
  else if h.port ≠ l.peerPort then 2
  else match h.entries.find? (fun e => e.ledger = r.ledger) with
    | none => 5
    | some e => if e.gpos ≠ l.peer then 4 else if e.digest ≠ r.digest then 3 else 0

/-- A round trip of `n` flit times in nanoseconds, as LW_RTT holds it (R247). -/
def rttNs (n : Nat) : Nat := (if 4 ∣ n ∨ ¬ Config.rttRoundUp n then n * 5 / 4 else n * 5 / 4 + 1) % 2 ^ 16

/-- Half the round trip of `n` flit times, less the port latency, exceeds CABLE_NS + 2 ns (R247). -/
def cableLong (n cable : Nat) : Bool := 8 * (cable + 2 + 160) < 5 * n

/-- A girth's hello passes on a port (R246, R248, R266). -/
def State.helloPass (s : State) (port p : Nat) (r : Record) : State :=
  let q := s.port port
  if bit q.girths r.ledger then s
  else
    let back := bit q.lost r.ledger
    let s := s.setPort port { q with girths := q.girths ||| 2 ^ r.ledger, lost := q.lost &&& (0xFFFF - 2 ^ r.ledger) }
    let g := s.girth p
    let s := if g.st = .set ∧ s.helloPassed r then s.setGirth p { g with st := .linked } else s
    if ¬ back then s
    else if s.isPommel p then s.linkBack p 0
    else s.rein p (.linkUp r.gpos)

/-- A girth's hello is judged on a port (R246, R247): `rt` the round trip that this hello's echo measures. -/
def State.helloJudge (s : State) (port p : Nat) (h : Hello) (rt : Option Nat) : State :=
  match (s.girth p).record with
  | none => s
  | some r =>
    match r.mine.find? (fun l => l.port = port) with
    | none => s
    | some l =>
      let q := s.port port
      let c0 := helloCause q r l h
      let long := (rt.map (fun n => cableLong n l.cable)).getD false
      let c := if c0 = 0 ∧ long then 6 else c0
      let s := if long then (s.lwErr port 3).raise 0x0042 1 (some p) 3 port q.rtt else s
      if c = 0 then s.helloPass port p r
      else
        let s := s.setPort port { s.port port with girths := (s.port port).girths &&& (0xFFFF - 2 ^ r.ledger), causeL := r.ledger, cause := c }
        (s.lwErr port 2).raise 0x0041 1 (some p) 3 port (r.ledger + 2 ^ 4 * c)

/-- HELLO_RECEIVE (R245–R248, R266): the hello's echo measures the round trip (`rtt` flit times from the start of the echoed hello to the
arrival of this one), and every girth on the port is judged. -/
def execHelloReceive (p : Nat) (hello : Hello) (rtt : Nat) (s : State) : Result :=
  onPort p (
    let q := s.port p
    if ¬ q.keyed ∨ (q.st ≠ .hello ∧ q.st ≠ .up) then s
    else
      let echo := hello.echoV ∧ q.sentH.contains hello.echoSeq
      let rt := if echo then some (rtt - hello.hold) else none
      let s := s.setPort p { q with
        peerId := hello.deviceId, peerPort := hello.port, peerBoot := hello.boot, gotH := some hello.hseq
        gotTick := s.tick, echoed := q.echoed || decide echo
        rtt := match rt with
          | some n => rttNs n
          | none => q.rtt
        st := if q.echoed ∨ echo then .up else q.st }
      (s.girths.map (·.1)).foldl (fun s k => s.helloJudge p k hello rt) s)

/-! ### Flits (R238–R244) -/

/-- The receiver asks for a resend once per gap (R243). -/
def State.askResend (s : State) (p : Nat) : State :=
  let q := s.port p
  if q.nakSent then s else (s.setPort p { q with nakSent := true, nakDue := true }).emit (.nak p q.lastGood)

/-- ACK advances: flits up to it leave the replay buffer (R238, R243, R244). -/
def State.ackTo (s : State) (p ack : Nat) : State :=
  let q := s.port p
  if q.replayBuf.contains ack then
    let left := (q.replayBuf.dropWhile (· ≠ ack)).drop 1
    s.setPort p { q with replayBuf := left, resend := q.resend.filter (fun x => left.contains x), nakRow := 0, ackTick := s.tick
                         sent := q.sent.filter (fun x => left.contains x.1) }
  else s

/-- T_gap of the girths that use a port, the largest (R244). -/
def State.gapOf (s : State) (p : Nat) : Nat :=
  (s.girths.map (fun x => match x.2.record with
    | some r => if r.mine.any (fun l => l.port = p) then x.2.wheel.tGap else 0
    | none => 0)).foldl max 0

/-- A NAK is acted on (R243, R244, R260): the flits after ACK are resent in the original order. -/
def State.nakOn (s : State) (p ack : Nat) : State :=
  let s := s.ackTo p ack
  let q := s.port p
  let gap := s.gapOf p
  let near := (q.replayTicks.filter (fun t => s.tick - t ≤ gap)) ++ [s.tick]
  let row := q.nakRow + 1
  let s := s.setPort p { q with replays := satAdd 32 q.replays 1, nakRow := row, resend := q.replayBuf
                                replaying := !q.replayBuf.isEmpty, replayTicks := near }
  let s := s.emit (.resend p q.replayBuf)
  let s := if 1 < near.length then (s.lwErr p 5).raise 0x0043 1 none 3 p near.length else s
  if 16 ≤ row then (s.portDown p).lwErr p 4 else s

/-- NAK_RECEIVE (R243, R244). -/
def execNakReceive (p ack : Nat) (s : State) : Result :=
  onPort p (
    let q := s.port p
    if ¬ q.keyed ∨ (q.st ≠ .hello ∧ q.st ≠ .up) then s else s.nakOn p ack)

/-- Credits of a pool that the peer's flits hold (R242). -/
def Port.used (q : Port) (girth cls : Nat) : Nat :=
  if cls = 0 then 32 - q.credRein else if cls = 5 then 16 - q.credMgmt else getD 0 (girth * 8 + cls) q.credits

/-- A port with a pool's use set. -/
def Port.setUsed (q : Port) (girth cls n : Nat) : Port :=
  if cls = 0 then { q with credRein := 32 - n }
  else if cls = 5 then { q with credMgmt := 16 - n }
  else { q with credits := if n = 0 then del (girth * 8 + cls) q.credits else put (girth * 8 + cls) n q.credits }

/-- Credits that a flit's header returns (R238, R242, R260): the pool of class CCLASS, of the flit's girth where the pool is a girth's
(log 131). -/
def Port.credited (q : Port) (f : Flit) : Port :=
  let k := poolKey f.girth f.cclass
  let n := getD 0 k q.txUsed - f.ccount
  if f.ccount = 0 then q else { q with txUsed := if n = 0 then del k q.txUsed else put k n q.txUsed }

/-- A flit of a girth's that carries an older epoch (R258): behind the girth's by 1 to 8, modulo 16. -/
def State.flitStale (s : State) (f : Flit) : Bool :=
  let d := ((s.girth (s.partOfLedger f.girth)).epoch + 16 - f.epoch % 16) % 16
  f.cls ≠ 5 && decide (s.partOfLedger f.girth < 16 ∧ 1 ≤ d ∧ d ≤ 8)

/-- A flit with the expected SEQ is taken (R242, R243): a TALLY, ACT or KV flit leaves its buffer as the edge router takes it (R254), another
with its message's last flit (log 131), and its credit is owed to the peer again; one beyond the pool is discarded and takes the link DOWN. -/
def State.takeFlit (s : State) (p : Nat) (f : Flit) : State :=
  let q := s.port p
  let q := { q with seqExp := (f.seq + 1) % 4096, lastGood := some f.seq, nakSent := false, rxCount := (q.rxCount + 1) % 2 ^ 64 }
  let k := poolKey f.girth f.cls
  let held := q.used f.girth f.cls
  if poolSize f.cls < held + getD 0 k q.owed + 1 then
    (((s.setPort p q).portDown p).lwErr p 8).raise 0x0044 2 none 3 p f.cls
  else
    let whole := decide (2 ≤ f.cls ∧ f.cls ≤ 4)
    let out := if whole then 1 else if f.eom then held + 1 else 0
    let q := q.setUsed f.girth f.cls (held + 1 - out)
    let s := s.setPort p { q with owed := if out = 0 then q.owed else put k (getD 0 k q.owed + out) q.owed }
    if s.flitStale f then s.staleOn p else s

/-- FLIT_RECEIVE (R232, R238, R242–R244, R258, R260): a flit that fails its TAG or is not the one expected is discarded and answered with one
NAK; its acknowledgement, NAK and credits apply, and the port answers. What a message carries when it is whole has a command of its own. -/
def execFlitReceive (p : Nat) (f : Flit) (s : State) : Result :=
  onPort p (
    let q := s.port p
    if ¬ q.carries then s
    else if ¬ f.tagOk then ((s.askResend p).lwErr p 7).answer p
    else
      let s := if ¬ f.av then s else if f.nak then s.nakOn p f.ack else s.ackTo p f.ack
      let s := s.setPort p ((s.port p).credited f)
      if ¬ (s.port p).keyed then s
      else if f.cls = 6 ∨ f.cls > 6 then s.pump p
      else if f.seq ≠ (s.port p).seqExp then (s.askResend p).answer p
      else (s.takeFlit p f).answer p)

/-! ### Reference clocks (R430, R432) -/

/-- The number of a reference clock in REFCLK_LOST (R453). -/
def refClkNo (k : RefClk) : Nat :=
  match k with
  | .tclk => 0 | .cxl => 1 | .link0 => 2 | .link1 => 3

/-- Four ports lose their clock and go DOWN (R244, R432). -/
def State.quadDown (s : State) (first : Nat) : State :=
  (List.range' first 4).foldl (fun s p => if (s.port p).en then s.portDown p else s) s

/-- REFCLK_LOST (R432): a loss of TCLK stops the fast clocks and holds a chip reset; a lost CXL_REFCLK takes the CXL link down, and a lost
LINK_REFCLK its four ports. DORMANT and OFF use TCLK alone (R433). -/
def execRefclkLost (k : RefClk) (s : State) : Result :=
  .next (
    if s.pwr.st = .off ∨ (s.pwr.st = .dormant ∧ k ≠ .tclk) then s
    else
      let seen : Bool := match k with
        | .tclk => s.pwr.tclkOk
        | .cxl => s.pwr.cxlRef
        | .link0 => s.pwr.lref0
        | .link1 => s.pwr.lref1
      if ¬ seen then s
      else
        let s := (s.pwrEv 4).raise 0x0406 2 none 0 0 (refClkNo k)
        match k with
        | .tclk => { s with pwr := { s.pwr with tclkOk := false, aclk := 0, want := 0, pllLock := false, chipHold := true } }
        | .cxl => { s with pwr := { s.pwr with cxlRef := false }, host := { s.host with linkW := 0, linkGts := 0 } }
        | .link0 => { s with pwr := { s.pwr with lref0 := false } }.quadDown 0
        | .link1 => { s with pwr := { s.pwr with lref1 := false } }.quadDown 4)

/-- REFCLK_RESTORED (R244, R432): the clock is good again, and what it serves can train. TCLK's return is TCLK_RECOVERED. -/
def execRefclkRestored (k : RefClk) (s : State) : Result :=
  .next (match k with
    | .tclk => s
    | .cxl => { s with pwr := { s.pwr with cxlRef := true } }
    | .link0 => { s with pwr := { s.pwr with lref0 := true } }
    | .link1 => { s with pwr := { s.pwr with lref1 := true } })

end Sys2Proof.Machine
end

