-- ==== Sys2Proof/Machine/Rings.lean ====
section
/-!
DEFINITION. The rings at work (R277–R282, R290–R292): fetching, completion and token entries, interrupts; and the commands that
read or set the device's own records: EVENT_READ, STATUS_READ, PARTITION_SET, POWER_CAP_SET (R293, R298–R300, R446).
-/

namespace Sys2Proof.Machine

open Sys2Proof

/-! ### Ring errors and indexes (R277–R281) -/

/-- The RING_ERR bits of a block. -/
def Ring.errBits (r : Ring) : Nat :=
  b2n r.dbRange + 2 * b2n r.badCfg + 4 * b2n r.fetchErr + 8 * b2n r.enBusy + 16 * b2n r.nopart

/-- A block with bit `i` of RING_ERR set: 0 DB_RANGE, 1 BAD_CFG, 2 FETCH, 3 EN_BUSY, 4 NOPART. -/
def Ring.withErr (r : Ring) (i : Nat) : Ring :=
  match i with
  | 0 => { r with dbRange := true }
  | 1 => { r with badCfg := true }
  | 2 => { r with fetchErr := true }
  | 3 => { r with enBusy := true }
  | _ => { r with nopart := true }

/-- The BAR0 offset of a ring block's register. -/
def ringOff (b o : Nat) : Nat := if b = 16 then 0x100 + o else 0x80000 + 0x1000 * b + o

/-- An event sets bit `i` of RING_ERR of block `b`: RING_ERR is raised ("RING_ERR", R294). -/
def State.ringErr (s : State) (b i : Nat) : State :=
  let r := (s.ring b).withErr i
  ((s.setRing b r).noteBit (ringOff b 0x24) i).raise 0x0051 1 none 3 b r.errBits

/-- The host interface moves entries: RUN or IDLE, TCLK good and no chip reset due (R368, R432, R433). -/
def State.hostRuns (s : State) : Bool :=
  (s.pwr.st = .run || s.pwr.st = .idle) && s.pwr.tclkOk && s.ev.resetDue.isNone && !s.pwr.trip

/-! ### Fetching (R280, R285, R304) -/

/-- COMMAND_FETCH (R271, R280, R283, R417): the next SQ entry is read in ring order, with at most 64 commands of the block in flight. `err`:
the read completes with an error, which sets FETCH and leaves the entry to be fetched again (log 43). -/
def execCommandFetch (b : Nat) (h : HostMem) (err : Bool) (s : State) : Result :=
  onBlock b (
    let r := s.ring b
    if ¬ s.serves ∨ ¬ r.en ∨ r.sqHead = r.sqTail ∨ 64 ≤ s.inflight b then s
    else if err then s.ringErr b 2
    else
      let bs := s.readMem h (r.sqBase + 64 * r.sqHead) 64
      let f : Fetched := { src := .ring b, words := (List.range 16).map (wordAt bs), running := false, lost := false }
      let s := (s.asks (r.sqBase + 64 * r.sqHead) 64).setRing b { r with sqHead := (r.sqHead + 1) % 2 ^ r.sqLog2 }
      ({ s with host := { s.host with fetched := s.host.fetched ++ [f] } }).busyMark)

/-- UNSUPPORTED_OPCODE (R13, R284, R295): the next command of the block names an opcode that the table does not list. -/
def execUnsupportedOpcode (b : Nat) (s : State) : Result :=
  onBlock b (
    if ¬ s.serves then s
    else match s.nextOf b [] s.host.fetched with
      | some c => if opListed (pktOp c.words) then s else s.reply c.src c.words 0x0E
      | none => s)

/-! ### Interrupts (R282) -/

/-- The holdoff of a ring's vector is over. -/
def State.vecReady (s : State) (hold : Nat) (last : Option Nat) : Bool :=
  match last with
  | none => true
  | some t => decide (t + 25 * hold ≤ s.tick)

/-- The vectors of a block's rings (R282). -/
def cqVector (b : Nat) : Nat := if b = 16 then 0 else 4 + 2 * b
def tqVector (p : Nat) : Nat := 5 + 2 * p

/-- An entry has been written to the CQ of block `b`: its vector is due, or waits for the end of its holdoff. -/
def State.cqWritten (s : State) (b : Nat) : State :=
  let r := s.ring b
  if s.vecReady r.holdUs r.cqRaised then (s.setRing b { r with cqRaised := some s.tick, cqNew := false }).dueVector (cqVector b)
  else s.setRing b { r with cqNew := true }

/-- An entry has been written to the TQ of partition `p`. -/
def State.tqWritten (s : State) (p : Nat) : State :=
  let r := s.ring p
  if s.vecReady r.holdUs r.tqRaised then (s.setRing p { r with tqRaised := some s.tick, tqNew := false }).dueVector (tqVector p)
  else s.setRing p { r with tqNew := true }

/-- The block of a CQ vector and whether it is a TQ vector. -/
def vectorRing (v : Nat) : Option (Nat × Bool) :=
  if v = 0 then some (16, false)
  else if 4 ≤ v ∧ v < 36 then some ((v - 4) / 2, v % 2 = 1)
  else none

/-- MSIX_RAISE (R282, R437): a vector that is due is raised; a ring vector is raised again when its holdoff ends with entries
written since the last raise. A raise brings the device out of REST. -/
def execMsixRaise (v : Nat) (s : State) : Result :=
  guardUnit (v < 36) (
    if s.host.vecRaised.contains v then
      let s := s.leaveRest
      ({ s with host := { s.host with vecRaised := s.host.vecRaised.filter (· ≠ v) } }).emit (.msix v)
    else match vectorRing v with
      | some (b, false) =>
        let r := s.ring b
        if r.cqNew ∧ s.vecReady r.holdUs r.cqRaised then
          ((s.setRing b { r with cqNew := false, cqRaised := some s.tick }).leaveRest).emit (.msix v)
        else s
      | some (b, true) =>
        let r := s.ring b
        if r.tqNew ∧ s.vecReady r.holdUs r.tqRaised then
          ((s.setRing b { r with tqNew := false, tqRaised := some s.tick }).leaveRest).emit (.msix v)
        else s
      | none => s)

/-! ### Completion entries (R280, R287, R290) -/

/-- A ring of 2^n entries has a free entry at tail `t` with the consumer at `h` (R277). -/
def ringFree (n h t : Nat) : Bool := (t + 1) % 2 ^ n ≠ h

/-- Word 0 of a list of words with bit 31 given. -/
def withPhase (ph : Bool) (k : Nat) (ws : List Nat) : List Nat := ws.set k (nthW ws k % 2 ^ 31 + 2 ^ 31 * b2n ph)

/-- CQ_WRITE (R271, R280, R287, R290): the oldest pending entry goes to the CQ once the ring has a free entry. -/
def execCqWrite (b : Nat) (s : State) : Result :=
  onBlock b (
    let r := s.ring b
    match r.cqWait with
    | [] => s
    | e :: rest =>
      if ¬ s.hostRuns ∨ ¬ r.en ∨ ¬ ringFree r.cqLog2 r.cqHead r.cqTail then s
      else
        let t := (r.cqTail + 1) % 2 ^ r.cqLog2
        let s := s.setRing b { r with cqWait := rest, cqTail := t, cqPhase := if t = 0 then !r.cqPhase else r.cqPhase }
        (s.writeMem (r.cqBase + 32 * r.cqTail) (wordBytes (withPhase r.cqPhase 0 e))).cqWritten b)

/-! ### Token records (R174, R177, R197, R291, R292) -/

/-- The records of a step from the queue's head: all up to the one with the verdict. -/
def dropStep : List TokRec → List TokRec
  | [] => []
  | r :: rs => if r.verdict.isSome then rs else dropStep rs

/-- The verdict of the step whose first record is at the queue's head. -/
def stepVerdict : List TokRec → Option VerdictMsg
  | [] => none
  | r :: rs => match r.verdict with
    | some v => some v
    | none => stepVerdict rs

/-- A step found late at the cantle with LATE_OK = 0: no record is posted, and the verdict says DEADLINE_MISSED (R197). -/
def State.missStep (s : State) (p : Nat) (r : TokRec) (q : List TokRec) : State :=
  let i := handleIdx r.handle
  let s := s.setRing p { s.ring p with tqWait := dropStep q }
  let s := s.setExt i { s.extn i with missed := true, late1 := true, got := [] }
  match stepVerdict q with
  | some v => s.sendVerdict p ({ v with a := 0, toks := [], late := true, status := 0x06, brake := v.brake || s.stepBraked r.handle })
  | none => s

/-- A token record is posted (R291, R292): the history entry or the vector first, then the TQ entry, and with the last record of its
step the verdict. -/
def State.postRecord (s : State) (p : Nat) (r : TokRec) (rest : List TokRec) (late : Bool) : State :=
  let k := s.ring p
  let i := handleIdx r.handle
  let braked := s.stepBraked r.handle
  let w1 := nthW r.words 1
  let w1 := w1 + 2 ^ 18 * b2n late + (if braked ∧ ¬ bit w1 20 then 2 ^ 20 else 0)
  let t := (k.tqTail + 1) % 2 ^ k.tqLog2
  let s := s.setRing p { k with tqWait := rest, tqTail := t, tqPhase := if t = 0 then !k.tqPhase else k.tqPhase }
  let s := s.setExt i { s.extn i with late1 := late, missed := (s.extn i).missed || late }
  let s := s.writeMem r.histAddr r.histData
  let s := (s.writeMem (k.tqBase + 16 * k.tqTail) (wordBytes (withPhase k.tqPhase 1 (r.words.set 1 w1)))).tqWritten p
  match r.verdict with
  | some v => s.sendVerdict p ({ v with late, brake := v.brake || braked })
  | none => s

/-- TOKEN_RECORD_POST (R174, R177, R197, R291, R292): the cantle posts the next record once the TQ has a free entry. The first record of
a step decides whether the step is late. -/
def execTokenRecordPost (p : Nat) (s : State) : Result :=
  onPart p (
    let k := s.ring p
    match k.tqWait with
    | [] => s
    | r :: rest =>
      if ¬ s.hostRuns ∨ ¬ s.runs p ∨ ¬ k.en ∨ ¬ ringFree k.tqLog2 k.tqHead k.tqTail then s
      else
        let x := s.extn (handleIdx r.handle)
        let late := if r.first then s.stepMissed p r.handle else x.late1
        if r.first ∧ late ∧ ¬ ((x.carried.map (·.lateOk)).getD false) then s.missStep p r (r :: rest)
        else s.postRecord p r rest late)

/-! ### EVENT_READ (R293, R298) -/

/-- The eight words of an event record (R293). -/
def Event.words (e : Event) : List Nat :=
  [e.code + 2 ^ 16 * e.sev + 2 ^ 18 * (e.part.getD 0) + 2 ^ 22 * b2n e.part.isSome + 2 ^ 23 * e.lkind, e.handle,
   e.tick % 2 ^ 32, e.tick / 2 ^ 32, e.loc % 2 ^ 32, e.loc / 2 ^ 32, e.detail % 2 ^ 32, e.detail / 2 ^ 32]

/-- EVENT_READ: the oldest records go to the host and leave the log. -/
def eventReadCmd (src : CmdSrc) (w : List Nat) (s : State) : State :=
  let a := dword w 2
  let m := nthW w 4
  if m = 0 ∨ 1024 < m ∨ ¬ addrOk a (32 * m) then s.reply src w 0x04
  else
    let es := s.ev.log.take m
    let left := s.ev.log.drop m
    let d := s.ev.dropped
    let s := s.writeMem a (es.flatMap (fun e => wordBytes e.words))
    ({ s with ev := { s.ev with log := left, dropped := 0 } }).reply src w 0x00 [es.length, d, left.length]

/-- EVENT_READ from the management ring (R284, R298). -/
def execEventRead (b : Nat) (s : State) : Result := command b 0x40 eventReadCmd s

/-! ### STATUS_READ (R299, R428) -/

/-- The words of the selected record (R299); none for another SEL. A partition without a table set has BEAT_SLOTS 0 (log 44). -/
def State.statusWords (s : State) (p sel : Nat) : Option (List Nat) :=
  let q := s.part p
  let g := s.girth p
  match sel with
  | 0 => some (match q.table with
    | some ts => ts.beatSlots :: (ts.w ++ ts.ar ++ ts.as)
    | none => [0])
  | 1 =>
    let shut (n : Nat) : Nat := if s.host.conf then 0 else n
    some [shut q.spanUnder, q.stale, shut q.n4Skives, shut q.fallbacks, shut q.fbEvents, (s.ring p).noticeLost]
  | 2 => some [((g.record.map (·.ledger)).getD 0) + 2 ^ 4 * g.st.num + 2 ^ 8 * ((g.record.map (·.gpos)).getD 0) + 2 ^ 16 * g.epoch,
      g.wheel.k, g.b, g.wheel.tGap, g.wheel.c, g.wheel.tRing, g.wheel.hRet]
  | 3 =>
    let n (f : Entry → Bool) : Nat := (s.handlesOf p f).length
    some [n (fun e => e.st.active && !e.be), n (fun e => e.st.active && e.be), n (fun e => e.st = .paused),
      n (fun e => e.st = .done || e.st = .failed)]
  | _ => none

/-- STATUS_READ: min(BYTES, size) bytes of the record go to the host. -/
def statusReadCmd (src : CmdSrc) (w : List Nat) (s : State) : State :=
  match s.statusWords (pktPart w) (nthW w 2) with
  | none => s.reply src w 0x04
  | some ws =>
    let a := dword w 3
    if ¬ addrOk a (nthW w 5) then s.reply src w 0x04
    else
      let bs := (wordBytes ws).take (nthW w 5)
      (s.writeMem a bs).reply src w 0x00 [bs.length]

/-- STATUS_READ from a ring (R284, R299). -/
def execStatusRead (b : Nat) (s : State) : Result := command b 0x41 statusReadCmd s

/-! ### PARTITION_SET (R3, R120, R298) -/

/-- A cluster mask is an axis-aligned rectangle of the 4 × 4 mesh (R120). -/
def isRect (m : Nat) : Bool :=
  let cs := (List.range 16).filter (bit m)
  let rows := (List.range 4).filter (fun r => cs.any (fun c => c / 4 = r))
  let cols := (List.range 4).filter (fun x => cs.any (fun c => c % 4 = x))
  let run (l : List Nat) : Bool := l = List.range' (l.headD 0) l.length
  cs = rows.flatMap (fun r => cols.map (fun x => 4 * r + x)) && run rows && run cols

/-- The pool ranges of a pool list (R298): none where a base or a size is not 4,096-byte aligned. -/
def poolList (bs : List Byte) (n : Nat) : Option (List (Nat × Nat)) :=
  let l := (List.range n).map (fun i => (dword ((List.range 4).map (fun k => wordAt bs (4 * i + k))) 0,
    dword ((List.range 4).map (fun k => wordAt bs (4 * i + k))) 2))
  if l.all (fun x => x.1 % 4096 = 0 && x.2 % 4096 = 0) then some l else none

/-- The tiles of partition `p` start at their entry stitches under the table set in force: powered while it holds one, gated outside
(R97, R435). -/
def State.startTiles (s : State) (p : Nat) : State :=
  let s := s.resetUnits p
  let off := (s.part p).table.isNone
  let s := (s.part p).tileList.foldl (fun s t => s.setTile t { s.tile t with gated := off }) s
  (s.part p).tileList.foldl (fun s t => s.settle t) s

/-- PARTITION_SET (R3, R120, R298): a partition is defined as a rectangle of clusters that no other partition holds, or deleted; not
while a girth is on it or a request is active. Its weights and table set stay as they are (R414, log 45). -/
def execPartitionSet (b : Nat) (h : HostMem) (s : State) : Result :=
  command b 0x20 (fun src w s =>
    let p := pktPart w
    let m := nthW w 2
    let n := nthW w 6
    let a := dword w 4
    let clash := (List.range 16).any (fun k => k ≠ p && (s.part k).clusters &&& m ≠ 0)
    if (s.girth p).st ≠ .unset ∨ ¬ (s.activeOf p).isEmpty ∨ 16 < n ∨ ¬ addrOk a (16 * n) ∨ (m ≠ 0 ∧ (¬ isRect m ∨ clash)) then
      s.reply src w 0x04
    else
    let s := s.asks a (16 * n)
    match poolList (s.readMem h a (16 * n)) n with
      | none => s.reply src w 0x04
      | some pools =>
        let old := (s.part p).tileList
        let s := old.foldl (fun s t => s.setTile t { (s.tile t).restart 0 with gated := true }) s
        let s := s.setPart p { s.part p with clusters := m, ttlMs := nthW w 3, pools }
        (s.startTiles p).reply src w 0x00) s

/-! ### POWER_CAP_SET (R300, R441, R446) -/

/-- The three figures take effect. -/
def State.setCap (s : State) (w : List Nat) : State :=
  ({ s with pwr := { s.pwr with capW := nthW w 2, brakeW := nthW w 3, allowUs := nthW w 4 } }).request

/-- A promised request admitted before tick `t` is active on a girth of the device (R446). -/
def State.promisedBefore (s : State) (t : Nat) : Bool :=
  s.ledger.any (fun x => x.2.st.active && !x.2.be && decide ((s.extn x.1).admTick < t))

/-- Commands of POWER_CAP_SET that waited take effect, in order, once no earlier promised request is active (R446). -/
def State.releaseCaps (s : State) : State :=
  s.pwr.capWait.foldl (fun s c =>
    if s.promisedBefore c.tick then s
    else
      let s := { s with pwr := { s.pwr with capWait := s.pwr.capWait.filter (· ≠ c) } }
      (s.setCap c.words).reply c.src c.words 0x00) s

/-- POWER_CAP_SET (R446): a change that lowers ALLOW_US or A_BRK waits for the promised requests admitted before it. -/
def execPowerCapSet (b : Nat) (s : State) : Result :=
  command b 0x88 (fun src w s =>
    let cap := nthW w 2
    let brake := nthW w 3
    let allow := nthW w 4
    if cap < 150 ∨ 550 < cap ∨ brake < 50 ∨ cap < brake ∨ 10000 < allow then s.reply src w 0x04
    else if (allow < s.pwr.allowUs ∨ aBrkOf brake < s.aBrk) ∧ s.promisedBefore s.tick then
      let c : CapWait := { src, words := w, tick := s.tick }
      State.startCmd { s with pwr := { s.pwr with capWait := s.pwr.capWait ++ [c] } } src w
    else (s.setCap w).reply src w 0x00) s

/-! ### Time -/

/-- The pommel's SWAP_BEGIN replies, with the announced bound, once no promised request admitted before it took effect is at work (R333). -/
def State.releaseSwap (s : State) (p : Nat) : State :=
  let g := s.girth p
  match g.swapSrc, (s.part p).swap with
  | some src, some sw =>
    if s.ledger.any (fun x => x.2.part = p && x.2.st.active && x.2.st ≠ .paused && !x.2.be && decide ((s.extn x.1).admTick < g.swapTick)) then s
    else (s.setGirth p { g with swapSrc := none, swapPkt := [], swapBound := 25 * sw.announced }).reply src g.swapPkt 0x00 [sw.announced]
  | _, _ => s

/-- TICK advances by one and wraps at 64 bits while TCLK runs (R167 "TICK", R432). Each port has 32 flit slots of 1.25 ns in a tick (R237), for what
it resends and what waits (R241, R243), and the receivers of the on-die and peer mailboxes have taken what they hold (log 53). A POWER_CAP_SET or a
SWAP_BEGIN that waited goes on when R446 or R333 allows. What an empty queue does (log 2). -/
def State.passTick (s : State) : State :=
  if s.pwr.tclkOk ∧ s.pwr.st ≠ .off then
    let s := State.releaseCaps { s with
      tick := (s.tick + 1) % 2 ^ 64
      host := { s.host with onDie := [], peerBox := none }
      ev := { s.ev with fresh := [] }
      ports := s.ports.map (fun x => (x.1, if x.2.slots = 0 ∧ x.2.sinceRein = 15 ∧ x.2.sinceMgmt = 255 then x.2
        else { x.2 with slots := 0, sinceRein := if x.2.slots < 32 then 15 else x.2.sinceRein
                        sinceMgmt := min 255 (x.2.sinceMgmt + (32 - x.2.slots)) })) }
    let s := s.ports.foldl (fun s x => s.pump x.1) s
    (List.range 16).foldl (fun s p => s.releaseSwap p) s
  else s

end Sys2Proof.Machine
end

