-- ==== Sys2Proof/Machine/Reset.lean ====
section
/-!
DEFINITION. Resets and start-up: boot verification (R402–R411), power-on, warm and chip resets (R368–R370, R447, R448), DORMANT (R438,
R439), brown-outs (R462), and the start-up order (R449).
-/

namespace Sys2Proof.Machine

open Sys2Proof

/-! ### What outlasts power -/

/-- What outlasts the volatile domains: the cells of the arrays, the record store and the flash (R434, R447), and the partition definitions,
since the table sets of the partitions are rebuilt (R447; log 52). The model's own queue, outputs and free values stay, and so does TICK, which
the caller sets. -/
def State.bare (s : State) : State :=
  { pending := s.pending, out := s.out, free := s.free, tick := s.tick, store := s.store
    parts := s.parts.filterMap (fun x => if x.2.defined then
      some (x.1, { clusters := x.2.clusters, ttlMs := x.2.ttlMs, pools := x.2.pools }) else none)
    arrays := s.arrays.filterMap (fun x => if x.2.rows.isEmpty ∧ x.2.judged.isEmpty then none
      else some (x.1, { rows := x.2.rows, judged := x.2.judged })) }

/-- A warm reset (R9, R447): the volatile domains are off, registers take their Reset values, and fields marked kept stay. The pins of the
clocks and rails are as they are, except that DORMANT has powered the main rails off (R434); a trip stays latched (R389); HALTED ends (R448). -/
def State.warmed (s : State) (last : Nat) : State :=
  let b := s.bare
  { b with
    host := { b.host with loaded := s.host.loaded }
    ev := { b.ev with errSum := s.ev.errSum &&& 16, cause := s.ev.cause, chips := s.ev.chips, loc := s.ev.loc, resetTicks := s.ev.resetTicks }
    hk := { b.hk with tripSeen := s.hk.tripSeen }
    pwr := { b.pwr with last, trip := s.pwr.trip, cxlRef := s.pwr.cxlRef, lref0 := s.pwr.lref0, lref1 := s.pwr.lref1, tclkOk := s.pwr.tclkOk
                        chipHold := s.pwr.chipHold, railsOk := s.pwr.railsOk && s.pwr.st ≠ .dormant } }

/-! ### Boot verification (R402–R410) -/

/-- DEVICE_ID: bytes 0–7 of SHA-512 over the public identity key, little-endian (R403). -/
def deviceId : Nat := leNat ((sha512 Config.publicKey).take 8)

/-- CONFIG_REFUSED's detail for the configuration block: none where it is accepted (R410, R429). -/
def State.configRefusal (s : State) (sigOk : Bool) : Option Nat :=
  let c := s.store
  if ¬ sigOk then some 1
  else if (c.cfgTarget ≠ 0 ∧ c.cfgTarget ≠ s.host.devId) ∨ (c.cfgUnlock ∧ c.cfgTarget = 0) then some 2
  else if ¬ c.cfgConf ∧ c.lock ∧ ¬ c.cfgUnlock then some 3
  else none

/-- Boot ROM steps 1–3: the identity, the record store and the boot serial; the boot stops where the key or pair 0 fails (R403, R405,
R409). -/
def State.bootId (s : State) (f : BootFound) : State :=
  if ¬ f.idOk then { s with sec := { s.sec with idFail := true } }
  else if ¬ f.pair0Ok then s
  else
    let n := min (s.store.bootSer + 1) (2 ^ 32 - 1)
    { s with sec := { s.sec with idOk := true }, store := { s.store with bootSer := n }
             host := { s.host with devId := deviceId, boot := n, step := Config.stepping.toNat } }

/-- Why a slot does not run: 0 it may, 1 signature, 2 SVN, 3 format (R408, R409, R429). -/
def State.slotFault (s : State) (f : BootFound) (b : Bool) : Nat :=
  let e := if b then f.slotB else f.slotA
  if e ≠ 0 then e else if (if b then s.store.slotB else s.store.slotA).svn < s.store.svnMin then 2 else 0

/-- The slot that runs: the valid one with the higher SVN, then the higher version, then the preferred one (R409). -/
def State.slotToRun (s : State) (f : BootFound) : Option Bool :=
  let a := s.store.slotA
  let b := s.store.slotB
  match s.slotFault f false, s.slotFault f true with
  | 0, 0 => some (if a.svn ≠ b.svn then decide (a.svn < b.svn) else if a.version ≠ b.version then decide (a.version < b.version)
      else s.store.prefB)
  | 0, _ => some false
  | _, 0 => some true
  | _, _ => none

/-- Boot ROM steps 4–6: firmware and configuration (R408–R410). Without a valid slot the boot stops with BOOT_FAIL. -/
def State.bootFirmware (s : State) (f : BootFound) : State :=
  match s.slotToRun f with
  | none => { s with sec := { s.sec with bootOk := false, bootFail := true } }
  | some b =>
    let slot := if b then s.store.slotB else s.store.slotA
    let s := { s with sec := { s.sec with bootOk := true, bootFail := false, runB := b, svnRun := slot.svn, certOk := f.certOk }
                      host := { s.host with fwVer := slot.version % 2 ^ 24 } }
    let s := if b = s.store.prefB then s else s.raise 0x0300 1 none 0 0 (s.slotFault f s.store.prefB)
    match s.configRefusal f.cfgSig with
    | some d => ({ s with host := { s.host with conf := true }, sec := { s.sec with jtag := false } }).raise 0x0303 1 none 0 0 d
    | none =>
      let c := s.store
      { s with host := { s.host with conf := c.cfgConf }, sec := { s.sec with jtag := c.cfgJtag && !c.cfgConf }
               store := { c with lock := (c.lock && !c.cfgUnlock) || c.cfgLock } }

/-- New device keys (R420, R421). -/
def State.newDevKeys (s : State) : State :=
  { s with sec := { s.sec with devKeys := some (s.sec.keyGen + 1), keyGen := s.sec.keyGen + 1 } }

/-- Start-up step 5: the PLL locks, the fill is done, the stacks are trained, and device keys are set (R421, R449). A latched trip holds
the fast clocks (R389). -/
def State.startClocks (s : State) : State :=
  let s := s.newDevKeys
  let clk := if s.pwr.trip then 0 else s.wantClk
  { s with pwr := { s.pwr with pllLock := !s.pwr.trip, aclk := clk, want := clk, phase := 1, idleSince := s.tick } }

/-- Start-up as far as it goes on its own with valid rails: boot ROM steps that have not run, and step 5 (R409, R449). -/
def State.startUp (s : State) (f : BootFound) : State :=
  let s := if s.sec.idOk then s else s.bootId f
  if ¬ s.sec.idOk ∨ ¬ s.pwr.railsOk ∨ ¬ s.pwr.tclkOk ∨ s.pwr.phase ≠ 0 then s
  else
    let s := s.bootFirmware f
    if s.sec.bootOk then s.startClocks else s

/-! ### Power-on, warm reset, brown-out, power removed (R434, R447, R449, R462) -/

/-- POWER_ON_RESET (R389, R409, R447, R449): VDD_AO rises; TICK starts at 0, every register takes its power-on value, and boot ROM steps
1–3 run. A trip flag in the record store is reported and cleared. -/
def execPowerOnReset (found : BootFound) (s : State) : Result :=
  .next (
    let s := { s.bare with tick := 0 }
    let s := s.bootId found
    if ¬ s.sec.idOk ∨ ¬ s.store.tripFlag then s
    else ({ s with hk := { s.hk with tripSeen := true }, store := { s.store with tripFlag := false } }).raise 0x0204 2)

/-- WARM_RESET (R9, R447, R448, R452): RESET_N or PERST_N low for 1 µs; start-up begins again. -/
def execWarmReset (perst : Bool) (found : BootFound) (s : State) : Result :=
  .next (if s.pwr.st = .off then s else (s.warmed (if perst then 2 else 1)).startUp found)

/-- RAIL_BROWNOUT (R462): the drives are disabled and a warm reset is held until MAIN_RAILS_VALID. -/
def execRailBrownout (s : State) : Result :=
  .next (
    if s.pwr.st = .off ∨ s.pwr.st = .dormant ∨ ¬ s.pwr.railsOk then s
    else
      let s := s.warmed 1
      { s with pwr := { s.pwr with railsOk := false } })

/-- MAIN_RAILS_VALID (R449, R461, R462): start-up step 3; firmware and step 5 follow. -/
def execMainRailsValid (found : BootFound) (s : State) : Result :=
  .next (
    if s.pwr.st = .off ∨ s.pwr.st = .dormant ∨ s.pwr.railsOk ∨ ¬ s.pwr.tclkOk then s
    else State.startUp { s with pwr := { s.pwr with railsOk := true } } found)

/-- POWER_REMOVED (R434): the device is in OFF; only the cells, the record store and the flash keep what they hold. -/
def execPowerRemoved (s : State) : Result :=
  .next { s.bare with pwr := { s.bare.pwr with st := .off } }

/-! ### Start-up steps 6 and 9 (R449) -/

/-- A width and rate that the CXL port trains at (R269); none: training has not reached L0. -/
def cxlModeOk (width gts : Nat) : Bool := (width = 8 || width = 4) && (gts = 64 || gts = 32)

/-- CXL_TRAIN (R269, R270, R432, R439, R449): start-up step 6 ends, and the link is up at the width and rate given; a width of 0 says that it
has not reached L0. After DORMANT, WAKE_N is asserted from then until it does. -/
def execCxlTrain (width gts : Nat) (s : State) : Result :=
  .next (
    let up := cxlModeOk width gts
    if s.pwr.phase = 0 ∨ ¬ s.sec.bootOk ∨ ¬ s.pwr.cxlRef ∨ s.ev.halted ∨ (s.pwr.st ≠ .run ∧ s.pwr.st ≠ .idle) ∨ (¬ up ∧ width ≠ 0) then s
    else
      let first := decide (s.pwr.phase = 1)
      { s with
        host := { s.host with linkW := width, linkGts := if up then gts else 0 }
        pwr := { s.pwr with phase := if first then 2 else s.pwr.phase
                            wakeN := if up then true else if first then s.pwr.last ≠ 5 else s.pwr.wakeN } })

/-- Commands that were in flight when a chip reset began reply FAULT_ABORT (R368). -/
def State.answerLost (s : State) : State :=
  s.host.fetched.foldl (fun s f => if f.lost then s.reply f.src f.words 0x0A else s) s

/-- STARTUP_READY (R368, R411, R449): once the rebuild has ended the device is READY: rings fetch. A firmware of a higher SVN raises
SVN_MIN. -/
def execStartupReady (s : State) : Result :=
  .next (
    if s.pwr.phase ≠ 3 ∨ ¬ s.pwr.rebuilt ∨ ¬ s.sec.bootOk then s
    else
      let s := { s with pwr := { s.pwr with phase := 4, idleSince := s.tick } }
      let s := if s.sec.svnRun ≤ s.store.svnMin then s
        else ({ s with store := { s.store with svnMin := s.sec.svnRun } }).raise 0x0301 0 none 0 0 s.sec.svnRun
      s.answerLost)

/-! ### DORMANT (R438, R439) -/

/-- DORMANT (R436, R438): entered when nothing is active and no tenant is; otherwise PWR_REFUSED. The CXL link goes down, and everything but
the always-on domain and the record store is powered off. -/
def State.askDormant (s : State) : State :=
  if ¬ s.pwr.restEn ∨ ¬ s.quiet ∨ s.sec.tenant.isSome ∨ s.sec.scrub ≠ .none then
    (s.pwrEv 3).raise 0x0405 0 none 0 0 (if s.sec.tenant.isSome ∨ s.sec.scrub ≠ .none then 2 else 1)
  else
    let b := s.bare
    { b with
      ev := { b.ev with errSum := s.ev.errSum &&& 16, cause := s.ev.cause, chips := s.ev.chips, loc := s.ev.loc, resetTicks := s.ev.resetTicks }
      host := { b.host with loaded := s.host.loaded, devId := s.host.devId, step := s.host.step, boot := s.host.boot }
      hk := { s.hk with startCal := false }
      sec := { b.sec with idOk := s.sec.idOk }
      pwr := { s.pwr with st := .dormant, phase := 0, rebuilt := false, aclk := 0, want := 0, pllLock := false } }

/-- DORMANT_WAKE (R439): the wake command ends DORMANT: every register takes its Reset value except fields marked kept, and start-up runs from
step 3, where the main rails are checked again. -/
def execDormantWake (s : State) : Result :=
  .next (
    if s.pwr.st ≠ .dormant then s
    else
      let w := s.warmed 5
      { w with host := { w.host with devId := s.host.devId, step := s.host.step, boot := s.host.boot }
               sec := { w.sec with idOk := s.sec.idOk }
               pwr := { w.pwr with railsOk := false, filter := s.pwr.filter, brakeOn := s.pwr.brakeOn, episodes := s.pwr.episodes } })

/-! ### Chip reset (R265, R368–R371, R448, R449) -/

/-- What is left of a request's extension after its stack is lost (R170, R368): nothing of R169's words. The pommel keeps, outside it, what the
claim of the re-admission carries, and the request's figures of its SUBMIT (log 46). -/
def Ext.afterReset (x : Ext) (pommel : Bool) : Ext :=
  if pommel then
    { hist := x.hist, out := x.out, outBytes := x.outBytes, ttlMs := x.ttlMs, subPart := x.subPart, admTick := x.admTick, carried := x.carried }
  else {}

/-- The girth of partition `p` at a chip reset of this device (R265, R268): RESTART leaves, its commands in flight are lost, and it is
held. -/
def State.chipGirth (s : State) (p : Nat) : State :=
  let g := s.girth p
  if g.record.isNone then s
  else
    let s := s.setGirth p { g with round := none, roundSrc := none, roundPkt := [], stops := [], stopIn := 0
                                   swapSrc := none, swapPkt := [], swapTerm := 0, swapBound := 0
                                   claims := g.claims.filter (fun c => c.src.isNone)
                                   st := if g.round.isSome then g.prev else g.st }
    if g.st ≠ .running ∧ g.st ≠ .held then s
    else
      let s := if s.isPommel p then s.rein p (.restart g.epoch true) else s.reinUp p (.restart g.epoch true)
      if s.isPommel p then (s.enterHold p none).voidAll p
      else if g.st = .running then s.haltFlush p else s

/-- What the stacks held is gone: KV, extensions, wear counts, step logs, bias tables, known sums, the stack copy and the shard store
(R273, R329, R368, R421). -/
def State.loseStacks (s : State) : State :=
  { s with
    kv := s.kv.filter (fun x => x.1 < 2 ^ 44)
    ext := s.ext.map (fun x => (x.1, x.2.afterReset (s.isPommel (s.entry x.1).part)))
    wear := [], staging := [], stackCopy := [], sums := [], shards := []
    parts := s.parts.map (fun x => (x.1, { x.2 with stepLog := [], logLost := some s.tick, bias := [], swap := none }))
    arrays := s.arrays.map (fun x => (x.1, { x.2 with sumsOk := false })) }

/-- Four chip resets within one second (R370). -/
def haltDue (ticks : List Nat) (now : Nat) : Bool := 4 ≤ ticks.length && now ≤ ticks.headD 0 + 25000000

/-- A chip reset (R368–R370, R447, R449): units stop, ports send RESTART and stop, the memory keys are dropped, and start-up goes on at
step 4. After the fourth within a second the device stays in reset. -/
def State.chipReset (s : State) (cause loc : Nat) (f : BootFound) : State :=
  let s := s.leaveRest
  let phase := s.pwr.phase
  let s := (s.raise 0x010D 3 none 0 0 cause).errSum 4
  let s := (List.range 16).foldl (fun s p => s.chipGirth p) s
  let s := (List.range 16).foldl (fun s p => (s.dropCopies p).resetUnits p) s
  let s := (List.range 8).foldl (fun s k => s.portDown k) s
  let s := s.loseStacks
  let ticks := s.ev.resetTicks ++ [s.tick]
  let ticks := ticks.drop (ticks.length - 4)
  let s := { s with
    host := { s.host with fetched := s.host.fetched.map (fun c => { c with lost := true }) }
    parts := s.parts.map (fun x => (x.1, { x.2 with restarting := none }))
    ev := { s.ev with cause, loc := if cause = 0 ∨ cause = 5 ∨ cause = 7 then s.ev.loc else loc
                      chips := satAdd 32 s.ev.chips 1, resetDue := none, errQ := [], resetTicks := ticks
                      halted := haltDue ticks s.tick }
    sec := { s.sec with devKeys := none, tenKeys := none, scrubSrc := none, scrubPkt := []
                        scrub := if s.sec.scrub = .filling then .scrubbing else s.sec.scrub }
    pwr := { s.pwr with last := 4, rebuilt := false, phase := 0, chipHold := false, capWait := [] } }
  if s.ev.halted then s
  else
    let n := min (s.store.bootSer + 1) (2 ^ 32 - 1)
    let s := { s with store := { s.store with bootSer := n }, host := { s.host with boot := n } }
    let s := s.bootFirmware f
    if ¬ s.sec.bootOk then s
    else
      let s := s.startClocks
      let s := if s.sec.tenant.isSome then
        { s with sec := { s.sec with tenKeys := some (s.sec.keyGen + 1), keyGen := s.sec.keyGen + 1, wrapCnt := 0 } } else s
      { s with pwr := { s.pwr with phase := if s.hk.startCal then 3 else if phase ≤ 1 then 1 else 2 } }

/-- CHIP_RESET (R367, R368, R371): the chip reset that is due runs. -/
def execChipReset (cause loc : Nat) (found : BootFound) (s : State) : Result :=
  .next (
    match s.ev.resetDue with
    | some (c, l) => if s.ev.halted ∨ ¬ s.pwr.tclkOk ∨ cause ≠ c ∨ loc ≠ l then s else s.chipReset c l found
    | none => s)

/-- WATCHDOG (R369): a processor that misses its watchdog for 1 ms causes a chip reset with cause 5. -/
def execWatchdog (found : BootFound) (s : State) : Result :=
  .next (
    if s.pwr.st = .off ∨ s.pwr.st = .dormant ∨ s.ev.halted ∨ ¬ s.pwr.tclkOk ∨ ¬ s.sec.bootOk then s
    else s.chipReset 5 s.ev.loc found)

/-- TCLK_RECOVERED (R432): TCLK good for 1 ms releases the chip reset held since its loss, with cause 0. -/
def execTclkRecovered (found : BootFound) (s : State) : Result :=
  .next (
    if s.pwr.tclkOk ∨ ¬ s.pwr.chipHold then s
    else
      let s := { s with pwr := { s.pwr with tclkOk := true, chipHold := false } }
      if s.ev.halted then s else if ¬ s.sec.bootOk then s.startUp found else s.chipReset 0 s.ev.loc found)

end Sys2Proof.Machine
end

