-- ==== Sys2Proof/Machine/Registers.lean ====
section
/-!
DEFINITION. What the registers of BAR0 read as (R6, R8, R275, and "Registers" of each chapter): those that State holds, and those that the
device computes from it, FP_SAFE (R445), BRK_WIN, CAL_STAT and the repair counts among them. Fields marked WO and reserved fields read zero.
-/

namespace Sys2Proof.Machine

open Sys2Proof

/-- ACC_LOG as a number. -/
def AccLog.num (a : AccLog) : Nat := a.offset + 2 ^ 25 * a.size + 2 ^ 28 * b2n a.wr + 2 ^ 29 * a.cause + 2 ^ 31 * b2n a.v

/-- A signed field of 16 bits. -/
def field16 (v : Int) : Nat := (v % 2 ^ 16).toNat

/-! ### Figures that the device computes -/

/-- FP_SAFE of partition `p`, in MHz (R445): min(F, ⌊W(1) / (W(1) / F + ALLOW_US · (1 − A_BRK / F))⌋) with F = CLK_FLOOR; 0 without a table
set. With A_BRK at or above F the second figure is at least F. -/
def State.fpSafe (s : State) (p : Nat) : Nat :=
  match (s.part p).table with
  | none => 0
  | some ts =>
    let f := s.pwr.clkFloor
    let w := ts.w.getD 0 0
    min f (w * f / (w + s.pwr.allowUs * (f - s.aBrk)))

/-- CAL_STAT.PENDING: arrays triggered and not yet calibrated. -/
def State.calPendings (s : State) : Nat := (List.range 65536).countP s.calPending

/-- REPAIR_PATCH.PATCHES: patch columns that carry data columns, from the repair map. -/
def State.patchCount (s : State) : Nat := (s.repairMap.map (fun x => (List.range 8).countP (bit x.2.patchV))).sum

/-- REPAIR_ARR: arrays of the repair map in STATE `st`. -/
def State.repairCount (s : State) (st : Nat) : Nat := s.repairMap.countP (fun x => x.2.st = st)

/-- T_cal of array `a` (R391): of its own last calibration, or of its cluster's at start-up. -/
def State.calTemp (s : State) (a : Nat) : Int := if (s.arr a).calOk then (s.arr a).tcal else (s.cluster (a / 4096)).startTcal

/-- The calibration age of array `a` in ms, saturating; its Reset value 0 until the array is calibrated (R9, R398). -/
def State.calAge (s : State) (a : Nat) : Nat := if s.calOk a then min ((s.tick - s.calTick a) / 25000) (2 ^ 32 - 1) else 0

/-! ### Regions -/

/-- A ring block's register at relative offset `o` (R278); the management block's TQ fields are reserved. -/
def State.readRing (s : State) (b o : Nat) : Nat :=
  let r := s.ring b
  match o with
  | 0x00 => r.sqBase
  | 0x08 => r.cqBase
  | 0x10 => if b = 16 then 0 else r.tqBase
  | 0x18 => r.sqLog2 + 2 ^ 8 * r.cqLog2 + (if b = 16 then 0 else 2 ^ 16 * r.tqLog2)
  | 0x1C => b2n r.en
  | 0x20 => r.sqHead + 2 ^ 16 * s.inflight b
  | 0x24 => b2n r.dbRange + 2 * b2n r.badCfg + 4 * b2n r.fetchErr + 8 * b2n r.enBusy + 16 * b2n r.nopart
  | 0x28 => r.holdUs
  | 0x2C => r.noticeLost
  | _ => 0

/-- MODE. -/
def State.modeReg (s : State) : Nat :=
  b2n s.host.conf + 2 * b2n s.sec.tenant.isSome + 4 * b2n s.trusted + 8 * b2n s.host.loaded + 2 ^ 4 * s.host.linkW + 2 ^ 8 * s.host.linkGts

/-- The identity region (R275). -/
def State.readIdentity (s : State) (o : Nat) : Nat :=
  match o with
  | 0x00 => s.host.devId
  | 0x08 => 0x01 + 2 ^ 8 * 0x10 + 2 ^ 16 * s.host.step
  | 0x0C => s.host.fwVer
  | 0x10 => 16 + 2 ^ 5 * 16 + 2 ^ 10 * 18 + 2 ^ 15 * 8 + 2 ^ 19 * 256
  | 0x14 => s.modeReg
  | 0x18 => s.tick % 2 ^ 64
  | 0x20 => s.host.boot
  | 0x28 => s.host.acc.num
  | 0x30 => s.host.accCnt
  | _ => if 0x100 ≤ o then s.readRing 16 (o - 0x100) else 0

/-- A mailbox register (R301, R302); none for the message words of a mirror that is empty again, which the manual leaves open. -/
def State.readMbx (s : State) (m o : Nat) : Option Nat :=
  let x := s.mbx m
  if o < 0x40 then (if m < 4 then some (nthW x.staging (o / 4)) else if x.held.isNone ∧ ¬ x.taken then some 0 else x.held.map (fun w => nthW w (o / 4)))
  else if o = 0x44 then some (b2n x.held.isSome + 2 * b2n x.reject + 4 * b2n x.timeout)
  else some 0

/-- The events and errors region. -/
def State.readEvents (s : State) (o : Nat) : Nat :=
  let e := s.ev
  match o with
  | 0x00 => e.errSum
  | 0x04 => e.log.length
  | 0x08 => e.cause + 2 ^ 4 * b2n e.halted
  | 0x0C => e.chips
  | 0x10 => e.loc
  | 0x18 => s.patchCount
  | 0x1C => s.repairCount 1 + 2 ^ 16 * s.repairCount 2
  | 0x20 => e.disputes
  | 0x24 => e.transient
  | 0x28 => e.settled
  | 0x2C => e.proofs
  | 0x30 => e.xchecks
  | 0x34 => e.ce
  | 0x40 => e.injArray + 2 ^ 16 * e.injColumn
  | _ => if 0x100 ≤ o then (s.part ((o - 0x100) / 4)).restarts else 0

/-- The housekeeping and thermal region. -/
def State.readHk (s : State) (o : Nat) : Nat :=
  let h := s.hk
  match o with
  | 0x00 => h.period + 2 ^ 8 * b2n h.lp + 2 ^ 16 * h.xtol
  | 0x04 => h.mask
  | 0x08 => h.rounds + 2 ^ 16 * h.xch + 2 ^ 21 * b2n h.degraded
  | 0x10 => h.warnRate + 2 ^ 8 * h.stopRate + 2 ^ 16 * h.hotLimit
  | 0x14 => b2n h.warn + 2 * b2n h.stop + 4 * b2n h.tripSeen
  | 0x18 => h.ev
  | 0x1C => field16 h.maxTemp + 2 ^ 16 * h.maxSens
  | _ =>
    if 0x200 ≤ o then field16 (getD 0 ((o - 0x200) / 4) h.temps) + 2 ^ 16 * field16 (getD 0 ((o - 0x200) / 4) h.rates)
    else if 0x100 ≤ o then
      let c : HkChan := getD {} ((o - 0x100) / 4) h.chans
      field16 c.value + 2 ^ 16 * c.code + 2 ^ 28 * b2n c.xc + 2 ^ 29 * b2n c.old
    else 0

/-- The calibration region: CAL_QRES and CAL_QAGE speak of the array that CAL_QSEL names. -/
def State.readCal (s : State) (o : Nat) : Nat :=
  let a := s.hk.qsel
  match o with
  | 0x00 => s.hk.dtcal + 2 ^ 8 * b2n s.hk.auto
  | 0x04 => s.calPendings
  | 0x08 => s.hk.calDone
  | 0x10 => a
  | 0x14 => field16 (s.calTemp a) + 2 ^ 16 * b2n (s.calOk a) + 2 ^ 17 * b2n (s.calPending a)
  | 0x18 => s.calAge a
  | _ => 0

/-- PWR_STAT.STATE; DORMANT and OFF answer no access. -/
def pstateCode : PState → Nat
  | .idle => 1
  | .rest => 2
  | _ => 0

/-- The power region. -/
def State.readPwr (s : State) (o : Nat) : Nat :=
  let w := s.pwr
  match o with
  | 0x00 => b2n w.restEn + 2 ^ 8 * w.restDelay
  | 0x04 => pstateCode w.st + 2 ^ 3 * b2n s.braking + 2 ^ 4 * b2n w.beyond + 2 ^ 5 * b2n (w.capClk < 800) + 2 ^ 6 * b2n (w.filter = .toggle)
  | 0x08 => w.clkFloor
  | 0x0C => w.aclk + 2 ^ 10 * (2 * w.aclk) + 2 ^ 21 * b2n w.pllLock + 2 ^ 22 * b2n w.cxlRef + 2 ^ 23 * b2n w.lref0 + 2 ^ 24 * b2n w.lref1
  | 0x10 => w.capW + 2 ^ 16 * w.brakeW
  | 0x14 => w.allowUs + 2 ^ 16 * s.aBrk
  | 0x18 => s.brakedTicks / 25
  | 0x1C => w.brkCnt
  | 0x20 => w.meas
  | 0x24 => w.ev
  | 0x28 => w.phase + 2 ^ 4 * w.last
  | _ => if 0x100 ≤ o then s.fpSafe ((o - 0x100) / 4) else 0

/-- LW_STAT.STATE. -/
def portCode : PortState → Nat
  | .disabled => 0
  | .training => 1
  | .hello => 2
  | .up => 3
  | .down => 4

/-- A Luawin port's register. -/
def State.readPort (s : State) (p o : Nat) : Nat :=
  let q := s.port p
  match o with
  | 0x00 => b2n q.en + 2 ^ 2 * q.chan + 2 ^ 8 * q.txeq
  | 0x04 => portCode q.st + 2 ^ 3 * b2n q.los + 2 ^ 4 * q.lock + 2 ^ 12 * b2n q.replaying + 2 ^ 16 * q.girths
  | 0x08 => q.err
  | 0x0C => q.causeL + 2 ^ 4 * q.cause
  | 0x10 => q.peerId
  | 0x18 => q.peerPort
  | 0x1C => q.peerBoot
  | 0x20 => q.rtt
  | 0x24 => q.replays
  | 0x28 => q.fecCorr
  | 0x2C => q.fecUnc
  | 0x30 => q.stale
  | _ => 0

/-- What the register that begins at a BAR0 offset reads as (R8, R275); doorbells are write-only. None where the manual leaves it open. -/
def State.readReg (s : State) (off : Nat) : Option Nat :=
  let o := off % 0x10000
  match off / 0x10000 with
  | 0 => some (s.readIdentity o)
  | 2 => if o = 0x800 then some s.host.tmoMs else s.readMbx (o / 0x100) (o % 0x100)
  | 3 => some (s.readEvents o)
  | 4 => some (s.readHk o)
  | 5 => some (s.readCal o)
  | 6 => some (s.readPwr o)
  | 7 => some (s.readPort (o / 0x800) (o % 0x800))
  | 8 => some (s.readRing (o / 0x1000) (o % 0x1000))
  | _ => some 0

end Sys2Proof.Machine
end

