-- ==== Sys2Proof/Machine/Bar.lean ====
section
/-!
DEFINITION. BAR0 (R6–R10, R275–R281, R301–R303, R418): which registers it holds, writes, reads that clear, doorbells, mailboxes, ring enables,
fault injection; on-die mailboxes (R102), the staging window (R273) and JTAG (R470).
-/

namespace Sys2Proof.Machine

open Sys2Proof

/-! ### The map (R275, R278, R281, R301, "Registers" of each chapter) -/

/-- A register of a ring block at a relative offset: log2 of its bytes (R278). `mgmt`: the management block has no TQ_BASE. -/
def ringReg (mgmt : Bool) (o : Nat) : Option Nat :=
  if o = 0x00 ∨ o = 0x08 then some 3
  else if o = 0x10 then (if mgmt then none else some 3)
  else if o = 0x18 ∨ o = 0x1C ∨ o = 0x20 ∨ o = 0x24 ∨ o = 0x28 ∨ o = 0x2C then some 2
  else none

/-- A word at a step of 4 from a base, in a run of `n`. -/
def wordRun (o base n : Nat) : Bool := base ≤ o && o < base + 4 * n && (o - base) % 4 = 0

/-- A register of the identity region. -/
def identityReg (o : Nat) : Option Nat :=
  if o = 0x00 ∨ o = 0x18 ∨ o = 0x28 then some 3
  else if o = 0x08 ∨ o = 0x0C ∨ o = 0x10 ∨ o = 0x14 ∨ o = 0x20 ∨ o = 0x30 then some 2
  else if 0x100 ≤ o then ringReg true (o - 0x100)
  else none

/-- A doorbell (R281). -/
def doorbellReg (o : Nat) : Option Nat :=
  if o < 0x200 then (if o % 0x20 = 0x00 ∨ o % 0x20 = 0x08 ∨ o % 0x20 = 0x10 then some 3 else none)
  else if o = 0x200 ∨ o = 0x208 then some 3
  else none

/-- A mailbox register (R301). -/
def mailboxReg (o : Nat) : Option Nat :=
  if o = 0x800 then some 2
  else if o < 0x800 then
    (if wordRun (o % 0x100) 0 16 || o % 0x100 = 0x44 || (o % 0x100 = 0x40 && decide (o < 0x400)) then some 2 else none)
  else none

/-- A Luawin port register. -/
def portReg (o : Nat) : Option Nat :=
  if o = 0x10 then some 3
  else if wordRun o 0x00 4 || o = 0x18 || o = 0x1C || wordRun o 0x20 5 then some 2
  else none

/-- The register that begins at a BAR0 offset: log2 of its bytes (R7, R275). -/
def regWidth (off : Nat) : Option Nat :=
  let o := off % 0x10000
  match off / 0x10000 with
  | 0 => identityReg o
  | 1 => doorbellReg o
  | 2 => mailboxReg o
  | 3 => if o = 0x10 then some 3
         else if wordRun o 0x00 4 || o = 0x18 || o = 0x1C || wordRun o 0x20 6 || o = 0x40 || wordRun o 0x100 16 then some 2 else none
  | 4 => if wordRun o 0x00 3 || wordRun o 0x10 4 || wordRun o 0x100 32 || wordRun o 0x200 82 then some 2 else none
  | 5 => if wordRun o 0x00 3 || wordRun o 0x10 3 then some 2 else none
  | 6 => if wordRun o 0x00 11 || wordRun o 0x100 16 then some 2 else none
  | 7 => if o < 0x4000 then portReg (o % 0x800) else none
  | 8 => ringReg false (o % 0x1000)
  | _ => none

/-- A register holds the byte at an offset. -/
def inRegister (off : Nat) : Bool := (regWidth (off / 4 * 4)).isSome || regWidth (off / 8 * 8) = some 3

/-- The debug and trace region (R275). -/
def inDebug (off : Nat) : Bool := 0x100000 ≤ off && off < 0x2000000

/-- A secure mailbox or its mirror (R301, R303). -/
def inSecureMbx (off : Nat) : Bool := 0x20000 ≤ off && off < 0x20800 && off % 0x400 < 0x200

/-- The regions that the always-on domain serves in REST (R437). -/
def inAlwaysOn (off : Nat) : Bool := off / 0x10000 = 0 || off / 0x10000 = 2 || off / 0x10000 = 6

/-- What R418 lets through from outside the trusted stream: MBX_N0 and MBX_N1, and the mirrors' status registers. -/
def teeOpen (off : Nat) : Bool :=
  (0x20200 ≤ off && off < 0x20400) || (0x20400 ≤ off && off < 0x20800 && off % 0x100 = 0x44)

/-! ### Accesses that do not reach a register (R7, R275, R276, R303, R418) -/

/-- BAR0 answers: the device is neither off nor in DORMANT (R434, R438), and its CXL port has trained, which it does once start-up has set
every field that firmware sets (R9, R449). -/
def State.barOn (s : State) : Bool := s.pwr.st ≠ .off && s.pwr.st ≠ .dormant && s.host.linkW ≠ 0

/-- An access is logged (R276): in ACC_LOG unless it is valid already, in ACC_CNT, and as ACCESS_ERR. -/
def State.logAccess (s : State) (offset size cause : Nat) (wr : Bool) : State :=
  let a : AccLog := if s.host.acc.v then s.host.acc else { offset := offset % 2 ^ 25, size := size % 8, wr, cause, v := true }
  (({ s with host := { s.host with acc := a, accCnt := satAdd 32 s.host.accCnt 1 } }).noteBit 0x28 31).raise 0x0050 1 none 0 0 a.num

/-- A write outside the trusted stream is discarded: TEE_REFUSED, at most once a millisecond (R418). -/
def State.teeRefuse (s : State) (off : Nat) : State :=
  let quiet : Bool := match s.host.teeTick with
    | some t => decide (s.tick < t + 25000)
    | none => false
  if quiet then s else ({ s with host := { s.host with teeTick := some s.tick } }).raise 0x0307 1 none 0 0 off

/-- Why an access of 2^size bytes does not reach a register (R7, R276, R303): 0 width or alignment, 1 no register, 2 secure mailbox. -/
def State.accessCause (s : State) (off size : Nat) (trusted : Bool) : Option Nat :=
  if inDebug off then none
  else if ¬ inRegister off then some 1
  else if inSecureMbx off ∧ ¬ (s.trusted ∧ trusted) then some 2
  else if regWidth off ≠ some size then some 0
  else none

/-- An access outside the three regions of the always-on domain takes the device out of REST (R437). -/
def State.touch (s : State) (off : Nat) : State := if inAlwaysOn off then s else s.leaveRest

/-- A write that reaches its register: past R7, R276, R303 and R418. -/
def State.onWrite (s : State) (off size : Nat) (trusted : Bool) (f : State → State) : State :=
  if ¬ s.barOn then s
  else
    let s := s.touch off
    match s.accessCause off size trusted with
    | some c => s.logAccess off size c true
    | none => if s.trusted ∧ ¬ trusted ∧ ¬ teeOpen off then s.teeRefuse off else f s

/-- ACCESS_ERR (R7, R275, R276, R303): a discarded, unmapped or refused access is logged; a read of that kind returns zero. -/
def execAccessErr (offset size : Nat) (write trusted : Bool) (s : State) : Result :=
  .next (
    if ¬ s.barOn then s
    else
      let s := s.touch offset
      match s.accessCause offset size trusted with
      | none => s
      | some c => (if write then s else s.emit (.readData offset 0)).logAccess offset size c write)

/-! ### Rings (R277–R281) -/

/-- A ring base that lies in host memory (R272, R279). -/
def baseOk (a : Nat) : Bool := a < 2 ^ 63

/-- EN goes from 0 to 1 (R279): indexes 0, write phases 1; or BAD_CFG or NOPART. -/
def State.enableRing (s : State) (b : Nat) : State :=
  let r := s.ring b
  if r.en then s
  else if b < 16 ∧ ¬ (s.part b).defined then s.ringErr b 4
  else if ¬ (baseOk r.sqBase ∧ baseOk r.cqBase ∧ baseOk r.tqBase) then s.ringErr b 1
  else s.setRing b { r with en := true, sqHead := 0, sqTail := 0, cqHead := 0, cqTail := 0
                            tqHead := 0, tqTail := 0, cqPhase := true, tqPhase := true }

/-- A request whose notices or token records go to partition `p`'s rings is active (R279, R288, R291). -/
def State.ringUsed (s : State) (p : Nat) : Bool := (s.isPommel p || s.isCantle p || (s.girth p).record.isNone) && !(s.activeOf p).isEmpty

/-- EN goes from 1 to 0 (R279), or EN_BUSY. -/
def State.disableRing (s : State) (b : Nat) : State :=
  let r := s.ring b
  if ¬ r.en then s
  else if s.inflight b ≠ 0 ∨ (b < 16 ∧ s.ringUsed b) then s.ringErr b 3
  else s.setRing b { r with en := false }

/-- RING_ENABLE (R279). -/
def execRingEnable (b : Nat) (trusted : Bool) (s : State) : Result :=
  onBlock b (s.onWrite (ringOff b 0x1C) 2 trusted (fun s => s.enableRing b))

/-- RING_DISABLE (R279). -/
def execRingDisable (b : Nat) (trusted : Bool) (s : State) : Result :=
  onBlock b (s.onWrite (ringOff b 0x1C) 2 trusted (fun s => s.disableRing b))

/-- Steps from index `a` forward to index `b` in a ring of 2^n entries. -/
def ringDist (n a b : Nat) : Nat := (b + 2 ^ n - a) % 2 ^ n

/-- A new SQ tail (R277, R281): refused with EN = 0, beyond the ring, or where it would equal or pass the device's head. -/
def State.sqDoorbell (s : State) (b v : Nat) : State :=
  let r := s.ring b
  let i := v % 2 ^ 16
  if ¬ r.en ∨ 2 ^ r.sqLog2 ≤ i ∨ 2 ^ r.sqLog2 - 1 - ringDist r.sqLog2 r.sqHead r.sqTail < ringDist r.sqLog2 r.sqTail i then
    s.ringErr b 0
  else s.setRing b { r with sqTail := i }

/-- A new CQ head (R277, R281): refused with EN = 0, beyond the ring, or where it would pass the device's tail. -/
def State.cqDoorbell (s : State) (b v : Nat) : State :=
  let r := s.ring b
  let i := v % 2 ^ 16
  if ¬ r.en ∨ 2 ^ r.cqLog2 ≤ i ∨ ringDist r.cqLog2 r.cqHead r.cqTail < ringDist r.cqLog2 r.cqHead i then s.ringErr b 0
  else s.setRing b { r with cqHead := i }

/-- A new TQ head (R277, R281). -/
def State.tqDoorbell (s : State) (b v : Nat) : State :=
  let r := s.ring b
  let i := v % 2 ^ 16
  if ¬ r.en ∨ 2 ^ r.tqLog2 ≤ i ∨ ringDist r.tqLog2 r.tqHead r.tqTail < ringDist r.tqLog2 r.tqHead i then s.ringErr b 0
  else s.setRing b { r with tqHead := i }

/-- The BAR0 offset of a doorbell: 0 SQ, 1 CQ, 2 TQ (R281). -/
def dbOff (b k : Nat) : Nat := if b = 16 then 0x10200 + 8 * k else 0x10000 + 0x20 * b + 8 * k

/-- SQ_DB (R277, R281, R437). -/
def execSqDb (b value : Nat) (trusted : Bool) (s : State) : Result :=
  onBlock b (s.onWrite (dbOff b 0) 3 trusted (fun s => s.sqDoorbell b value))

/-- CQ_DB (R277, R281, R437). -/
def execCqDb (b value : Nat) (trusted : Bool) (s : State) : Result :=
  onBlock b (s.onWrite (dbOff b 1) 3 trusted (fun s => s.cqDoorbell b value))

/-- TQ_DB (R277, R281, R437); the management block has none, so that access is logged. -/
def execTqDb (b value : Nat) (trusted : Bool) (s : State) : Result :=
  onBlock b (s.onWrite (dbOff b 2) 3 trusted (fun s => s.tqDoorbell b value))

/-! ### Mailboxes (R301–R303) -/

/-- SEND (R302): the staging words become the held message; with FULL set it is discarded, and an AER error follows. -/
def State.mbxSend (s : State) (m : Nat) : State :=
  let s := s.leaveRest
  let x := s.mbx m
  if x.held.isSome then (s.mbxReject m).emit (.aer (mbxOff m 0x40))
  else s.setMbx m { x with held := some (padW 16 x.staging), since := s.tick, tmoDone := false }

/-- WITHDRAW (R302). -/
def State.mbxWithdraw (s : State) (m : Nat) : State := s.setMbx m { s.mbx m with held := none }

/-- MBX_SEND (R302, R303, R437). -/
def execMbxSend (m : Nat) (trusted : Bool) (s : State) : Result :=
  guardUnit (m < 4) (s.onWrite (mbxOff m 0x40) 2 trusted (fun s => s.mbxSend m))

/-- MBX_WITHDRAW (R302, R303). -/
def execMbxWithdraw (m : Nat) (trusted : Bool) (s : State) : Result :=
  guardUnit (m < 4) (s.onWrite (mbxOff m 0x40) 2 trusted (fun s => s.mbxWithdraw m))

/-- MBX_TAKE (R301, R303): a read of DATA15 of a mirror returns its last word and takes the message. A mirror that no message has
been taken from reads its Reset value, 0; what one that is empty again reads as is open (log 3). -/
def execMbxTake (m : Nat) (trusted : Bool) (s : State) : Result :=
  guardUnit (4 ≤ m && m < 8) (
    if ¬ s.barOn then s
    else if m < 6 ∧ ¬ (s.trusted ∧ trusted) then (s.emit (.readData (mbxOff m 0x3C) 0)).logAccess (mbxOff m 0x3C) 2 2 false
    else match (s.mbx m).held with
      | some ws => (s.emit (.readData (mbxOff m 0x3C) (nthW ws 15))).setMbx m { s.mbx m with held := none, taken := true }
      | none =>
        if ¬ (s.mbx m).taken then s.emit (.readData (mbxOff m 0x3C) 0)
        else
        let (n, s) := s.draw
        s.emit (.readData (mbxOff m 0x3C) (n % 2 ^ 32)))

/-- MBX_TIMEOUT (R302): a message held for TMO_MS sets TIMEOUT, once, and vector 2 is due. -/
def execMbxTimeout (m : Nat) (s : State) : Result :=
  guardUnit (m < 8) (
    let x := s.mbx m
    if x.held.isNone ∨ x.tmoDone ∨ s.tick < x.since + 25000 * max 1 s.host.tmoMs then s
    else (((s.setMbx m { x with timeout := true, tmoDone := true }).noteBit (mbxOff m 0x44) 2).raise 0x0053 1 none 3 m).dueVector 2)

/-- ON_DIE_MBX_WRITE (R101, R102): a message between a supervisor and the saddler core; a full mailbox returns a bus error and stores nothing. -/
def execOnDieMbxWrite (c : Nat) (toSaddler : Bool) (words : List Nat) (s : State) : Result :=
  onCluster c (
    let k := 2 * c + (if toSaddler then 0 else 1)
    if (find? k s.host.onDie).isSome then s.emit .busError
    else { s with host := { s.host with onDie := put k words s.host.onDie } })

/-! ### Luawin port control (LW_CTRL, R244) -/

/-- EN of a port: 1 trains and runs it, 0 stops it. -/
def State.portEnable (s : State) (p : Nat) (on : Bool) : State :=
  let q := s.port p
  if q.en = on then s
  else if on then s.setPort p { q with en := true, st := .training }
  else s.setPort p { q.fresh with en := false, st := .disabled, los := false }

/-- RETRAIN: the link goes DOWN, and an enabled port trains again (R244). -/
def State.portRetrain (s : State) (p : Nat) : State := if (s.port p).en then s.portDown p else s

/-- The BAR0 offset of a port's register. -/
def portOff (p o : Nat) : Nat := 0x70000 + 0x800 * p + o

/-- LW_RETRAIN (R244). -/
def execLwRetrain (p : Nat) (trusted : Bool) (s : State) : Result :=
  onPort p (s.onWrite (portOff p 0) 2 trusted (fun s => s.portRetrain p))

/-- LW_ENABLE ("LW_CTRL", R449). -/
def execLwEnable (p : Nat) (on trusted : Bool) (s : State) : Result :=
  onPort p (s.onWrite (portOff p 0) 2 trusted (fun s => s.portEnable p on))

/-! ### Housekeeping, power and injection registers -/

/-- HK_CTRL is written: PERIOD takes effect at the next round and restarts every rate window (R385). -/
def State.writeHkCtrl (s : State) (v : Nat) : State :=
  { s with hk := { s.hk with period := bits v 5 0, lp := bit v 8, xtol := bits v 23 16, perWr := true } }

/-- PERIOD_WRITE (R385): a write of HK_CTRL. -/
def execPeriodWrite (value : Nat) (trusted : Bool) (s : State) : Result :=
  .next (s.onWrite 0x40000 2 trusted (fun s => s.writeHkCtrl value))

/-- CHK_INJECT is written: nothing in confidential mode ("CHK_INJECT", R428). -/
def State.inject (s : State) (array column : Nat) (keep proof ce : Bool) : State :=
  if s.host.conf then s
  else
    let a := array % 2 ^ 16
    let c := column % 2 ^ 8
    { s with ev := { s.ev with
      injArray := a, injColumn := c
      injKeep := if keep then some (a, c) else s.ev.injKeep
      injProof := if proof then some (a, c) else s.ev.injProof
      injCe := if ce then some a else s.ev.injCe } }

/-- INJECT_KEEP ("CHK_INJECT"). -/
def execInjectKeep (array column : Nat) (trusted : Bool) (s : State) : Result :=
  .next (s.onWrite 0x30040 2 trusted (fun s => s.inject array column true false false))

/-- INJECT_PROOF ("CHK_INJECT"). -/
def execInjectProof (array column : Nat) (trusted : Bool) (s : State) : Result :=
  .next (s.onWrite 0x30040 2 trusted (fun s => s.inject array column false true false))

/-- INJECT_CE ("CHK_INJECT"). -/
def execInjectCe (array column : Nat) (trusted : Bool) (s : State) : Result :=
  .next (s.onWrite 0x30040 2 trusted (fun s => s.inject array column false false true))

/-- DORMANT_REQUEST (R438): a write of 1 to DORMANT. -/
def execDormantRequest (trusted : Bool) (s : State) : Result :=
  .next (s.onWrite 0x60000 2 trusted (fun s => s.askDormant))

/-! ### REGISTER_WRITE (R6–R10) -/

/-- A ring block's register at relative offset `o` is written (R278, R279). -/
def State.writeRing (s : State) (b o v : Nat) : State :=
  let r := s.ring b
  let base := v / 2 ^ 12 * 2 ^ 12
  match o with
  | 0x00 => if r.en then s.ringErr b 1 else s.setRing b { r with sqBase := base }
  | 0x08 => if r.en then s.ringErr b 1 else s.setRing b { r with cqBase := base }
  | 0x10 => if r.en then s.ringErr b 1 else s.setRing b { r with tqBase := base }
  | 0x18 =>
    let sz (n : Nat) : Bool := 4 ≤ n && n ≤ 16
    let (a, c, t) := (bits v 4 0, bits v 12 8, if b = 16 then r.tqLog2 else bits v 20 16)
    if r.en ∨ ¬ (sz a && sz c && sz t) then s.ringErr b 1 else s.setRing b { r with sqLog2 := a, cqLog2 := c, tqLog2 := t }
  | 0x1C => if bit v 0 then s.enableRing b else s.disableRing b
  | 0x24 => s.setRing b { r with
      dbRange := r.dbRange && !s.clears (ringOff b 0x24) v 0, badCfg := r.badCfg && !s.clears (ringOff b 0x24) v 1
      fetchErr := r.fetchErr && !s.clears (ringOff b 0x24) v 2, enBusy := r.enBusy && !s.clears (ringOff b 0x24) v 3
      nopart := r.nopart && !s.clears (ringOff b 0x24) v 4 }
  | 0x28 => s.setRing b { r with holdUs := bits v 9 0 }
  | _ => s

/-- A mailbox register at relative offset `o` is written (R301, R302). SEND acts before WITHDRAW where both are written. -/
def State.writeMbx (s : State) (m o v : Nat) : State :=
  let x := s.mbx m
  if o < 0x40 then (if m < 4 then s.setMbx m { x with staging := (padW 16 x.staging).set (o / 4) v } else s)
  else if o = 0x40 then
    let s := if bit v 0 then s.mbxSend m else s
    if bit v 1 then s.mbxWithdraw m else s
  else s.setMbx m { x with reject := x.reject && !s.clears (mbxOff m 0x44) v 1, timeout := x.timeout && !s.clears (mbxOff m 0x44) v 2 }

/-- THERM_CTRL is written outside confidential mode: a write that leaves STOP_RATE not above WARN_RATE is ignored. -/
def State.writeTherm (s : State) (v : Nat) : State :=
  let w := bits v 7 0
  let t := bits v 15 8
  let hot := bits v 23 16
  if s.host.conf ∨ w = 0 ∨ t ≤ w then s
  else { s with hk := { s.hk with warnRate := w, stopRate := t, hotLimit := if 60 ≤ hot ∧ hot ≤ 120 then hot else s.hk.hotLimit } }

/-- CAL_CTRL is written: DTCAL 4–64, AUTO outside confidential mode. -/
def State.writeCal (s : State) (v : Nat) : State :=
  { s with hk := { s.hk with dtcal := if 4 ≤ bits v 5 0 then bits v 5 0 else s.hk.dtcal, auto := if s.host.conf then s.hk.auto else bit v 8 } }

/-- A register of the power region is written (R436–R438). A write of 0 to REST_EN takes the device out of REST. -/
def State.writePwr (s : State) (o v : Nat) : State :=
  match o with
  | 0x00 =>
    let s := if bit v 0 then s else s.leaveRest
    let s : State := { s with pwr := { s.pwr with restEn := bit v 0, restDelay := bits v 15 8 } }
    if bit v 1 then s.askDormant else s
  | 0x08 =>
    let f := bits v 9 0
    if f % 25 = 0 ∧ 100 ≤ f ∧ f ≤ 800 then { s with pwr := { s.pwr with clkFloor := f } } else s
  | 0x24 => { s with pwr := { s.pwr with ev := s.rw1c 0x60024 s.pwr.ev v } }
  | _ => s

/-- LW_CTRL and LW_ERR of a port are written (R244). Reserved values of CHAN are ignored. -/
def State.writePort (s : State) (p o v : Nat) : State :=
  match o with
  | 0x00 =>
    let q := s.port p
    let s := s.setPort p { q with chan := if bits v 3 2 < 2 then bits v 3 2 else q.chan, txeq := if s.host.conf then q.txeq else bits v 15 8 }
    let s := s.portEnable p (bit v 0)
    if bit v 1 then s.portRetrain p else s
  | 0x08 => s.setPort p { s.port p with err := s.rw1c (0x70008 + 0x800 * p) (s.port p).err v }
  | _ => s

/-- A write reaches its register (R8): the fields act by their access codes, read-only fields and reserved bits ignore it. -/
def State.writeReg (s : State) (off v : Nat) : State :=
  let o := off % 0x10000
  match off / 0x10000 with
  | 0 =>
    if o = 0x28 then (if s.clears 0x28 v 31 then { s with host := { s.host with acc := { s.host.acc with v := false } } } else s)
    else if 0x100 ≤ o then s.writeRing 16 (o - 0x100) v
    else s
  | 1 =>
    let b := if o < 0x200 then o / 0x20 else 16
    match o % 0x20 with
    | 0x00 => s.sqDoorbell b v
    | 0x08 => s.cqDoorbell b v
    | _ => s.tqDoorbell b v
  | 2 => if o = 0x800 then { s with host := { s.host with tmoMs := bits v 15 0 } } else s.writeMbx (o / 0x100) (o % 0x100) v
  | 3 =>
    if o = 0x00 then { s with ev := { s.ev with errSum := s.rw1c 0x30000 s.ev.errSum v } }
    else if o = 0x40 then s.inject (bits v 15 0) (bits v 23 16) (bit v 24) (bit v 25) (bit v 26)
    else s
  | 4 =>
    if o = 0x00 then s.writeHkCtrl v
    else if o = 0x04 then { s with hk := { s.hk with mask := v ||| 0x00FC0000 } }
    else if o = 0x10 then s.writeTherm v
    else if o = 0x18 then { s with hk := { s.hk with ev := s.rw1c 0x40018 s.hk.ev v } }
    else s
  | 5 =>
    if o = 0x00 then s.writeCal v
    else if o = 0x10 then { s with hk := { s.hk with qsel := bits v 15 0 } }
    else s
  | 6 => s.writePwr o v
  | 7 => s.writePort (o / 0x800) (o % 0x800) v
  | 8 => s.writeRing (o / 0x1000) (o % 0x1000) v
  | _ => s

/-- REGISTER_WRITE (R6–R10, R276, R418): a write of 2^size bytes. One that does not reach a register is logged; the debug and trace region
ignores writes in confidential mode. -/
def execRegisterWrite (offset size value : Nat) (trusted : Bool) (s : State) : Result :=
  if inDebug offset ∧ ¬ s.host.conf ∧ s.barOn then .refused .debugUnit
  else .next (s.onWrite offset size trusted (fun s => s.writeReg offset (value % 2 ^ (8 * 2 ^ size))))

/-! ### RC_READ (R8) -/

/-- A plain read of the register that begins at an offset (R8). DATA15 of a mirror has its own command. -/
def State.plainRead (s : State) (offset : Nat) : State :=
  if (regWidth offset).isNone ∨ (0x20400 ≤ offset ∧ offset < 0x20800 ∧ offset % 0x100 = 0x3C) then s
  else match s.readReg offset with
    | some v => s.emit (.readData offset v)
    | none =>
      let (n, s) := s.draw
      s.emit (.readData offset (n % 2 ^ 32))

/-- RC_READ (R8, R275, R303): a read of ACC_CNT, NOTICE_LOST or BRK_CNT returns the value and clears the field; of any other register it returns
the value (log 125), of a secure mailbox in the trusted stream alone. The debug and trace region reads zero in confidential mode. -/
def execRcRead (offset : Nat) (trusted : Bool) (s : State) : Result :=
  if inDebug offset ∧ ¬ s.host.conf ∧ s.barOn then .refused .debugUnit
  else .next (
    if ¬ s.barOn then s
    else
      let s := s.touch offset
      if inDebug offset then s.emit (.readData offset 0)
      else if inSecureMbx offset ∧ (regWidth offset).isSome ∧ ¬ (s.trusted ∧ trusted) then (s.emit (.readData offset 0)).logAccess offset 2 2 false
      else if offset = 0x30 then
        (s.emit (.readData offset s.host.accCnt) |> fun s => { s with host := { s.host with accCnt := 0 } })
      else if offset = 0x6001C then
        (s.emit (.readData offset s.pwr.brkCnt) |> fun s => { s with pwr := { s.pwr with brkCnt := 0 } })
      else if offset = 0x12C then (s.emit (.readData offset (s.ring 16).noticeLost)).setRing 16 { s.ring 16 with noticeLost := 0 }
      else if offset / 0x10000 = 8 ∧ offset % 0x1000 = 0x2C then
        let p := offset % 0x10000 / 0x1000
        (s.emit (.readData offset (s.ring p).noticeLost)).setRing p { s.ring p with noticeLost := 0 }
      else s.plainRead offset)

/-! ### The staging window and JTAG -/

/-- STAGING_WINDOW_ACCESS (R269, R273): the host reads or writes one line of the HDM-DB range. -/
def execStagingWindowAccess (line : Nat) (write : Option (List Byte)) (s : State) : Result :=
  guardUnit (line < 2 ^ 28) (
    if ¬ s.barOn ∨ s.pwr.phase = 0 then s
    else
      let s := s.leaveRest
      match write with
      | some bs => { s with staging := Memory.writeAll s.staging (64 * line) ((List.range 64).map (fun i => bs.getD i 0)) }
      | none => s.emit (.stagingLine line ((List.range 64).map (fun i => Memory.readFree s.staging (64 * line + i)))))

/-- JTAG_INSTRUCTION (R428, R470): 0 IDCODE, 1 BYPASS, 2 SAMPLE; the pins that SAMPLE captures are open (log 3). Any other instruction is
closed in confidential mode, and the manual describes none. -/
def execJtagInstruction (ir : Nat) (s : State) : Result :=
  match ir with
  | 0 => .next (s.emit (.jtag 0x1C160A4B))
  | 1 => .next s
  | 2 => let (n, s) := s.draw; .next (s.emit (.jtag n))
  | _ => if s.host.conf ∨ ¬ s.sec.jtag then .next s else .refused .debugUnit

end Sys2Proof.Machine
end

