-- ==== Sys2Proof/Machine/Encode.lean ====
section
/-!
DEFINITION. The stored forms of the parts of a table set: stitches (R75–R77), burnisher and attention descriptors (R131, R139), group
members (R122), ingress and logit map entries (R251, R311), partition values (R312) and matrix entries (R313). Each is a number of 128
bits or less, with word 0 lowest; a reader accepts exactly the numbers that the writer forms from legal fields, so a nonzero reserved
bit is refused.
-/

namespace Sys2Proof.Machine

open Sys2Proof

/-! ### Stitches (R75–R77) -/

/-- The operand bits [127:16] of an operation, in place (R77). -/
def encodeOp : StitchOp → Nat
  | .nop => 0x0
  | .pass wkind widx h plane iblk wr arrays =>
    0x1 + wkind * 2 ^ 16 + widx * 2 ^ 18 + h * 2 ^ 20 + plane * 2 ^ 21 + iblk * 2 ^ 24 + wr * 2 ^ 30 + arrays * 2 ^ 32
  | .alt altNext cond join wkind widx plane iblk =>
    0x2 + altNext * 2 ^ 16 + cond * 2 ^ 28 + join * 2 ^ 32 + wkind * 2 ^ 44 + widx * 2 ^ 46 + plane * 2 ^ 48 + iblk * 2 ^ 51
  | .tally tslot wr vreg arrays => 0x3 + tslot * 2 ^ 16 + wr * 2 ^ 21 + vreg * 2 ^ 22 + arrays * 2 ^ 32
  | .skive tslot mode fmt eSt satMax zeroMax oblk steprow =>
    0x4 + tslot * 2 ^ 16 + mode * 2 ^ 21 + fmt * 2 ^ 22 + eSt * 2 ^ 23 + satMax * 2 ^ 31 + zeroMax * 2 ^ 39 + oblk * 2 ^ 47 +
      steprow * 2 ^ 52
  | .send src skind count path dest dbuf mcast part vreg first =>
    0x5 + src * 2 ^ 16 + skind * 2 ^ 21 + count * 2 ^ 23 + path * 2 ^ 29 + dest * 2 ^ 32 + dbuf * 2 ^ 42 + mcast * 2 ^ 47 +
      part * 2 ^ 48 + vreg * 2 ^ 49 + first * 2 ^ 51
  | .recv rbuf kind base count nprod vreg ifmt =>
    0x6 + rbuf * 2 ^ 16 + kind * 2 ^ 21 + base * 2 ^ 23 + count * 2 ^ 28 + nprod * 2 ^ 34 + vreg * 2 ^ 37 + ifmt * 2 ^ 39
  | .wait rbuf => 0x7 + rbuf * 2 ^ 16
  | .proof pvec widx arrays => 0x8 + pvec * 2 ^ 16 + widx * 2 ^ 24 + arrays * 2 ^ 32
  | .kcmp wr arrays => 0x9 + wr * 2 ^ 16 + arrays * 2 ^ 32
  | .inlay tslot seg iblk vreg maxnz => 0xA + tslot * 2 ^ 16 + seg * 2 ^ 21 + iblk * 2 ^ 28 + vreg * 2 ^ 33 + maxnz * 2 ^ 35
  | .beatEnd => 0xB

/-- A stitch as its 128 bits (R75). -/
def encodeStitch (s : Stitch) : Nat := encodeOp s.op + s.next * 2 ^ 4

/-- Every field of an operation fits its bits and holds a value that the manual gives it (R76, R77, R97 "codes"). -/
def opLegal : StitchOp → Bool
  | .nop => true
  | .pass wkind widx h plane iblk wr arrays =>
    wkind < 4 && widx < 4 && h < 2 && plane < 7 && iblk < 32 && wr < 2 && decide (arrays < 2 ^ 64) && (wkind = 1 || h = 0)
  | .alt altNext cond join wkind widx plane iblk =>
    altNext < 4096 && cond < 4 && join < 4096 && wkind < 4 && widx < 4 && plane < 8 && iblk < 32 &&
      (cond ≠ 0 || (plane < 7 && (wkind = 0 || (wkind = 2 && widx < 2))))
  | .tally tslot wr vreg arrays => tslot < 32 && wr < 2 && vreg < 4 && decide (arrays < 2 ^ 64)
  | .skive tslot mode fmt eSt satMax zeroMax oblk steprow =>
    tslot < 32 && mode < 2 && fmt < 2 && eSt < 256 && satMax < 256 && zeroMax < 256 && oblk < 32 && steprow < 64
  | .send src skind count path dest dbuf mcast part vreg first =>
    src < 32 && skind < 3 && count < 64 && path < 8 && dest < 1024 && dbuf < 32 && mcast < 2 && part < 2 && vreg < 4 && first < 512
  | .recv rbuf kind base count nprod vreg ifmt =>
    rbuf < 32 && kind < 2 && base < 32 && count < 64 && nprod < 8 && vreg < 4 && ifmt < 2
  | .wait rbuf => rbuf < 32
  | .proof pvec widx arrays => pvec < 64 && widx < 4 && decide (arrays < 2 ^ 64)
  | .kcmp wr arrays => wr < 2 && decide (arrays < 2 ^ 62)
  | .inlay tslot seg iblk vreg maxnz => tslot < 32 && seg < 128 && iblk < 32 && vreg < 4 && maxnz < 65536
  | .beatEnd => true

/-- Every field of a stitch is legal. -/
def stitchLegal (s : Stitch) : Bool := s.next < 4096 && opLegal s.op

/-- The operation whose fields stand in 128 bits; none for a reserved OP (R76). -/
def readOp (n : Nat) : Option StitchOp :=
  match bits n 3 0 with
  | 0x0 => some .nop
  | 0x1 => some (.pass (bits n 17 16) (bits n 19 18) (bits n 20 20) (bits n 23 21) (bits n 28 24) (bits n 30 30) (bits n 95 32))
  | 0x2 => some (.alt (bits n 27 16) (bits n 31 28) (bits n 43 32) (bits n 45 44) (bits n 47 46) (bits n 50 48) (bits n 55 51))
  | 0x3 => some (.tally (bits n 20 16) (bits n 21 21) (bits n 23 22) (bits n 95 32))
  | 0x4 => some (.skive (bits n 20 16) (bits n 21 21) (bits n 22 22) (bits n 30 23) (bits n 38 31) (bits n 46 39) (bits n 51 47) (bits n 57 52))
  | 0x5 => some (.send (bits n 20 16) (bits n 22 21) (bits n 28 23) (bits n 31 29) (bits n 41 32) (bits n 46 42) (bits n 47 47)
      (bits n 48 48) (bits n 50 49) (bits n 59 51))
  | 0x6 => some (.recv (bits n 20 16) (bits n 22 21) (bits n 27 23) (bits n 33 28) (bits n 36 34) (bits n 38 37) (bits n 39 39))
  | 0x7 => some (.wait (bits n 20 16))
  | 0x8 => some (.proof (bits n 21 16) (bits n 25 24) (bits n 95 32))
  | 0x9 => some (.kcmp (bits n 16 16) (bits n 95 32))
  | 0xA => some (.inlay (bits n 20 16) (bits n 27 21) (bits n 32 28) (bits n 34 33) (bits n 50 35))
  | 0xB => some .beatEnd
  | _ => none

/-- The stitch that 128 bits spell; none for a reserved value or a nonzero reserved bit (R75–R77, R97). -/
def decodeStitch (n : Nat) : Option Stitch :=
  (readOp n).bind (fun op =>
    let s : Stitch := { next := bits n 15 4, op }
    if stitchLegal s ∧ encodeStitch s = n then some s else none)

/-! ### Engine descriptors (R131, R139) -/

/-- A burnisher descriptor as its 128 bits (R131). -/
def encodeBurn (d : BurnDesc) : Nat :=
  d.op + d.rbufA * 2 ^ 4 + d.rbufB * 2 ^ 9 + b2n d.ofmt * 2 ^ 14 + b2n d.wb * 2 ^ 15 + d.group * 2 ^ 16 + d.addr * 2 ^ 32 + d.nblk * 2 ^ 64 +
    d.nprod * 2 ^ 73 + d.tbl * 2 ^ 79 + d.x8 * 2 ^ 82 + d.k * 2 ^ 90 + d.param * 2 ^ 96

/-- A burnisher descriptor has a defined operation, and every field fits (R131, R134). A ROUTE whose K lies outside 1 to 8 and a ROPE whose X8
lies above 128 are accepted, since R97 and R131 refuse neither (DESIGN CHOICE, log 141). -/
def burnLegal (d : BurnDesc) : Bool :=
  1 ≤ d.op && d.op ≤ 9 && d.rbufA < 32 && d.rbufB < 32 && (d.op = 5 || d.rbufB = 0) && d.group < 1024 && decide (d.addr < 2 ^ 32) &&
    d.addr % 64 = 0 && d.nblk < 512 && 1 ≤ d.nprod && d.nprod < 64 && d.tbl < 8 && d.x8 < 256 && d.k < 16 && decide (d.param < 2 ^ 32)

/-- The burnisher descriptor that 128 bits spell; none for a reserved operation or a nonzero reserved bit (R121, R131). -/
def decodeBurn (n : Nat) : Option BurnDesc :=
  let d : BurnDesc :=
    { op := bits n 3 0, rbufA := bits n 8 4, rbufB := bits n 13 9, ofmt := bit n 14, wb := bit n 15, group := bits n 25 16,
      addr := bits n 63 32, nblk := bits n 72 64, nprod := bits n 78 73, tbl := bits n 81 79, x8 := bits n 89 82, k := bits n 93 90,
      param := bits n 127 96 }
  if burnLegal d ∧ encodeBurn d = n then some d else none

/-- An attention descriptor as its 128 bits (R139). -/
def encodeAttn (d : AttnDesc) : Nat :=
  d.op + d.rbufQ * 2 ^ 4 + d.rbufX * 2 ^ 9 + d.group * 2 ^ 14 + d.layer * 2 ^ 24 + d.nbl * 2 ^ 32 + d.dh * 2 ^ 35 + b2n d.ofmt * 2 ^ 37 +
    d.g * 2 ^ 38 + d.nx * 2 ^ 48 + d.nexp * 2 ^ 64 + d.win * 2 ^ 72 + d.param * 2 ^ 96

/-- An attention descriptor has a defined operation and head dimension, and every field fits (R139, R141). -/
def attnLegal (d : AttnDesc) : Bool :=
  1 ≤ d.op && d.op ≤ 5 && d.rbufQ < 32 && d.rbufX < 32 && (d.op ≠ 2 || d.rbufX = 0) && d.group < 1024 && (d.op ≠ 3 || d.group = 0) &&
    d.layer < 256 && d.nbl < 6 && d.dh < 3 && d.g ≤ 64 && (d.op ≠ 1 || 1 ≤ d.g) && d.nx < 1024 && d.nexp < 256 && decide (d.win < 2 ^ 24) &&
    decide (d.param < 2 ^ 32) && ((d.op ≠ 2 && d.op ≠ 3) || d.nx < 1008)

/-- The attention descriptor that 128 bits spell (R139, R141). -/
def decodeAttn (n : Nat) : Option AttnDesc :=
  let d : AttnDesc :=
    { op := bits n 3 0, rbufQ := bits n 8 4, rbufX := bits n 13 9, group := bits n 23 14, layer := bits n 31 24, nbl := bits n 34 32,
      dh := bits n 36 35, ofmt := bit n 37, g := bits n 44 38, nx := bits n 57 48, nexp := bits n 71 64, win := bits n 95 72,
      param := bits n 127 96 }
  if attnLegal d ∧ encodeAttn d = n then some d else none

/-! ### Groups, ingress, logit maps (R122, R251, R311) -/

/-- A group member as its 32 bits (R122). -/
def encodeMember (m : Member) : Nat := m.cluster + m.port * 2 ^ 4 + m.rbuf * 2 ^ 11

/-- The member that 32 bits spell; none for a nonzero reserved bit (R122). -/
def decodeMember (n : Nat) : Option Member :=
  let m : Member := { cluster := bits n 3 0, port := bits n 10 4, rbuf := bits n 15 11 }
  if encodeMember m = n then some m else none

/-- An ingress entry as its 64 bits (R251). -/
def encodeIngress (e : Ingress) : Nat :=
  e.port + e.dbuf * 2 ^ 3 + e.group * 2 ^ 8 + b2n e.fv * 2 ^ 18 + e.fport * 2 ^ 19 + e.fdbuf * 2 ^ 22 + e.kind * 2 ^ 27 + e.xin * 2 ^ 32

/-- The ingress entry that 64 bits spell; none for a reserved KIND or a nonzero reserved bit (R251). -/
def decodeIngress (n : Nat) : Option Ingress :=
  let e : Ingress :=
    { port := bits n 2 0, dbuf := bits n 7 3, group := bits n 17 8, fv := bit n 18, fport := bits n 21 19, fdbuf := bits n 26 22,
      kind := bits n 28 27, xin := bits n 63 32 }
  if e.kind < 2 ∧ encodeIngress e = n then some e else none

/-- A logit map entry as its 128 bits (R311). -/
def encodeLogit (e : LogitEnt) : Nat := e.cluster + e.rbuf * 2 ^ 4 + e.nblk * 2 ^ 9 + e.first * 2 ^ 32

/-- The logit map entry that 128 bits spell (R311). -/
def decodeLogit (n : Nat) : Option LogitEnt :=
  let e : LogitEnt := { cluster := bits n 3 0, rbuf := bits n 8 4, nblk := bits n 20 9, first := bits n 49 32 }
  if encodeLogit e = n then some e else none

/-! ### Partition values (R312) -/

/-- The partition values of a manifest, defaults not yet applied. -/
structure PVal where
  beatSlots  : Nat
  gate       : Bool
  dmax       : Nat
  fbLevel    : Nat
  stallLimit : Nat
  resPos     : Nat
  resCount   : Nat
  vocab      : Nat
  head       : Nat
  dhead      : Nat
  deriving DecidableEq, Repr

/-- A PVAL entry as its 256 bits (R312). -/
def encodePVal (v : PVal) : Nat :=
  v.beatSlots + b2n v.gate * 2 ^ 7 + v.dmax * 2 ^ 8 + v.fbLevel * 2 ^ 32 + v.stallLimit * 2 ^ 64 + v.resPos * 2 ^ 96 + v.resCount * 2 ^ 128 +
    v.vocab * 2 ^ 160 + v.head * 2 ^ 192 + v.dhead * 2 ^ 208

/-- The PVAL entry that 256 bits spell; none where a value is outside its range or a reserved bit is set (R97, R312). -/
def decodePVal (n : Nat) : Option PVal :=
  let v : PVal :=
    { beatSlots := bits n 6 0, gate := bit n 7, dmax := bits n 11 8, fbLevel := bits n 44 32, stallLimit := bits n 95 64,
      resPos := bits n 119 96, resCount := bits n 143 128, vocab := bits n 178 160, head := bits n 207 192, dhead := bits n 223 208 }
  if 1 ≤ v.beatSlots ∧ v.beatSlots ≤ 64 ∧ v.dmax ≤ 8 ∧ (v.resCount ≤ 255 ∨ v.resCount = 0xFFFF) ∧
      (v.vocab = 0 ∨ (2 ≤ v.vocab ∧ v.vocab ≤ 262144)) ∧ encodePVal v = n then some v
  else none

/-! ### Matrix entries (R313) -/

/-- The matrix entry of 16 words; none where a reserved bit is set or a field is outside its range (R313). -/
def decodeMatrix (w : List Nat) : Option MatrixEnt :=
  let w0 := nthW w 0
  let w6 := nthW w 6
  let w7 := nthW w 7
  let t := bits w6 3 0
  let m : MatrixEnt :=
    { layer := bits w0 15 0, cmask := bits w0 31 16, shard := nthW w 1, offset := nthW w 2, stride := nthW w 3, inDim := nthW w 4,
      outDim := nthW w 5, targetW := if t = 0 then 4 else t, scaleV := bit w6 4, trace := bit w6 5, outKind := bits w6 7 6,
      outPort := bits w6 10 8, outDbuf := bits w6 15 11, inGroup := bits w7 9 0, outGroup := bits w7 25 16, scaleOff := nthW w 8 }
  if 1 ≤ m.inDim ∧ m.inDim ≤ 65536 ∧ 1 ≤ m.outDim ∧ m.outDim ≤ 1048576 ∧ m.inDim ≤ m.stride ∧ t ≤ 8 ∧ m.outKind ≠ 3 ∧ w6 < 2 ^ 16 ∧
      bits w7 15 10 = 0 ∧ w7 < 2 ^ 26 ∧ (List.range' 9 7).all (fun i => nthW w i = 0) then some m
  else none

end Sys2Proof.Machine
end

