-- ==== Sys2Proof/Machine/Manifest.lean ====
section
/-!
DEFINITION. Manifests and images (R310, R311, R474): the 64-byte header, the sections, and what they spell.
-/

namespace Sys2Proof.Machine

open Sys2Proof

/-- A section of a manifest (R310). -/
structure Section where
  type    : Nat
  cluster : Nat
  tile    : Nat
  count   : Nat
  extra   : Nat
  body    : List Byte
  deriving DecidableEq, Repr

/-- The body size that R474 gives a section of a type and a count; none for an unknown type or a count out of range. -/
def sectionBytes (type count : Nat) : Option Nat :=
  match type with
  | 0x01 => if count = 1 then some 32 else none
  | 0x02 => some (64 * count)
  | 0x03 => some (4 * count)
  | 0x04 => if count ≤ 4096 then some (4096 + 4 * count) else none
  | 0x05 => if count ≤ 128 then some (16 * count) else none
  | 0x06 => if count ≤ 64 then some (16 * count) else none
  | 0x07 => if count ≤ 256 then some (8 * count) else none
  | 0x08 => if 1 ≤ count ∧ count ≤ 5 then some (2048 * count) else none
  | 0x09 => if count ≤ 64 then some (16 * count) else none
  | 0x0A => if count ≤ 64 then some (16 * count) else none
  | 0x0B => if count ≤ 3968 then some (16 * count) else none
  | _ => none

/-- The section types that a KIND allows (R311, R331). -/
def kindAllows (kind type : Nat) : Bool :=
  match kind with
  | 0 => 1 ≤ type && type ≤ 7
  | 1 => type = 2 || type = 3
  | 2 => type = 1 || (4 ≤ type && type ≤ 0x0B)
  | _ => false

/-- The CLUSTER and TILE fields and word 3 of a section header are zero where the type does not use them (R310, R474). -/
def sectionHead (w0 w3 : Nat) : Bool :=
  let type := bits w0 7 0
  w0 < 2 ^ 18 && (type = 5 || type = 6 || type = 0x0B || bits w0 11 8 = 0) && (type = 0x0B || bits w0 17 12 = 0) &&
    (if type = 0x0B then w3 < 2 ^ 24 else w3 = 0)

/-- The next `n` sections of a manifest's bytes and nothing after them; none where one breaks R310 or R474. -/
def readSections (kind : Nat) : Nat → List Byte → Option (List Section)
  | 0, bs => if bs.isEmpty then some [] else none
  | n + 1, bs =>
    let w0 := wordAt bs 0
    let count := wordAt bs 1
    let bytes := wordAt bs 2
    let room := (bytes + 15) / 16 * 16
    let body := (bs.drop 16).take room
    if bs.length < 16 + room ∨ ¬ kindAllows kind (bits w0 7 0) ∨ ¬ sectionHead w0 (wordAt bs 3) ∨
        sectionBytes (bits w0 7 0) count ≠ some bytes ∨ (body.drop bytes).any (· ≠ 0) then none
    else (readSections kind n (bs.drop (16 + room))).map (fun l =>
      { type := bits w0 7 0, cluster := bits w0 11 8, tile := bits w0 17 12, count, extra := wordAt bs 3, body := body.take bytes } :: l)

/-- TYPEs ascend, and only BURN and ATTN of several clusters, STITCH of several tiles and MATRIX come more than once (R310, R474). -/
def sectionOrder : List Section → Bool
  | [] => true
  | [_] => true
  | a :: b :: l => a.type ≤ b.type && (a.type ≠ b.type || a.type = 2 || (4 < a.type && a.type < 7) || a.type = 0x0B) && sectionOrder (b :: l)

/-- No two sections stand for the same cluster or tile (R474). -/
def sectionUnique (l : List Section) : Bool :=
  decide (((l.filter (fun s => s.type ≠ 2)).map (fun s => (s.type, s.cluster, s.tile))).Nodup)

/-- The number of `k` bytes at entry `i` of a body. -/
def entryAt (k : Nat) (b : List Byte) (i : Nat) : Nat := leNat ((b.drop (k * i)).take k)

/-- Every entry of a list can be read. -/
def readAll {α : Type} (f : Nat → Option α) : List Nat → Option (List α)
  | [] => some []
  | n :: ns => match f n, readAll f ns with
    | some x, some xs => some (x :: xs)
    | _, _ => none

/-- What a manifest or an image holds. -/
structure Manifest where
  kind     : Nat := 0
  swapUs   : Nat := 0
  nhold    : Nat := 0
  pval     : Option PVal := none
  matrices : List MatrixEnt := []
  scale    : List Nat := []
  groups   : Tbl (List Member) := []
  members  : Nat := 0
  burn     : Tbl (List BurnDesc) := []
  attn     : Tbl (List AttnDesc) := []
  ingress  : List Ingress := []
  actTbl   : Tbl (List (Nat × Nat)) := []
  logit    : List LogitEnt := []
  dlogit   : List LogitEnt := []
  progs    : Tbl TileProg := []
  deriving DecidableEq, Repr

/-- The groups of a GROUP body (R122): none where a directory word names members that the section does not hold. -/
def readGroups (count : Nat) (b : List Byte) : Option (Tbl (List Member)) :=
  (readAll (fun i => decodeMember (entryAt 4 (b.drop 4096) i)) (List.range count)).bind (fun ms =>
    (List.range 1024).foldr (fun g (acc : Option (Tbl (List Member))) => acc.bind (fun l =>
      let w := entryAt 4 b g
      let first := bits w 11 0
      let n := bits w 18 12
      if w ≥ 2 ^ 19 ∨ n > 64 ∨ (n ≠ 0 ∧ first + n > count) then none
      else if n = 0 then some l
      else some ((g, (ms.drop first).take n) :: l))) (some []))

/-- A section's contents enter the manifest; none where an entry cannot be read. -/
def addSection (m : Manifest) (s : Section) : Option Manifest :=
  let is := List.range s.count
  match s.type with
  | 0x01 => (decodePVal (leNat s.body)).map (fun v => { m with pval := some v })
  | 0x02 => (readAll (fun i => decodeMatrix ((List.range 16).map (fun k => wordAt s.body (16 * i + k)))) is).map
      (fun l => { m with matrices := m.matrices ++ l })
  | 0x03 => some { m with scale := is.map (wordAt s.body) }
  | 0x04 => (readGroups s.count s.body).map (fun g => { m with groups := g, members := s.count })
  | 0x05 => (readAll (fun i => decodeBurn (entryAt 16 s.body i)) is).map (fun l => { m with burn := put s.cluster l m.burn })
  | 0x06 => (readAll (fun i => decodeAttn (entryAt 16 s.body i)) is).map (fun l => { m with attn := put s.cluster l m.attn })
  | 0x07 => (readAll (fun i => decodeIngress (entryAt 8 s.body i)) is).map (fun l => { m with ingress := l })
  | 0x08 => some { m with actTbl := is.map (fun j => (3 + j, (List.range 256).map (fun k =>
      (wordAt s.body (512 * j + 2 * k), wordAt s.body (512 * j + 2 * k + 1))))) }
  | 0x09 => (readAll (fun i => decodeLogit (entryAt 16 s.body i)) is).map (fun l => { m with logit := l })
  | 0x0A => (readAll (fun i => decodeLogit (entryAt 16 s.body i)) is).map (fun l => { m with dlogit := l })
  | 0x0B => (readAll (fun i => decodeStitch (entryAt 16 s.body i)) is).map (fun l =>
      { m with progs := put (s.cluster * 64 + s.tile) ⟨bits s.extra 11 0, bits s.extra 23 12, l⟩ m.progs })
  | _ => none

/-- Every section's contents enter the manifest. -/
def addSections : Manifest → List Section → Option Manifest
  | m, [] => some m
  | m, s :: ss => (addSection m s).bind (fun m => addSections m ss)

/-- The manifest of KIND `kind` that bytes spell; none where they break R310, R311 or R474. SWAP_US and NHOLD stand in a swap manifest for
the pommel only. -/
def readManifest (kind : Nat) (pommel : Bool) (bs : List Byte) : Option Manifest :=
  let w := wordAt bs
  if bs.length < 64 ∨ w 0 ≠ 1 + 2 ^ 8 * kind ∨ (¬ (kind = 1 ∧ pommel) ∧ (w 2 ≠ 0 ∨ w 3 ≠ 0)) ∨ (List.range' 4 12).any (fun i => w i ≠ 0) ∨
      bs.length < 16 * w 1 then none
  else match readSections kind (w 1) (bs.drop 64) with
    | none => none
    | some l =>
      let has (t : Nat) : Bool := l.any (fun s => s.type = t)
      if ¬ sectionOrder l ∨ ¬ sectionUnique l ∨ (kind ≠ 1 ∧ ¬ has 1) ∨ (kind ≠ 2 ∧ ¬ has 2) then none
      else addSections { kind, swapUs := w 2, nhold := w 3 } l

end Sys2Proof.Machine
end

