-- ==== Sys2Proof/Machine/Tables.lean ====
section
/-!
DEFINITION. What TABLE_LOAD and LOAD_COMMIT accept as a table set: R97 over one walk of each stitch table, with R95, R121, R135, R141, R203,
R251, R475 and R476.
-/

namespace Sys2Proof.Machine

open Sys2Proof

/-! ### The walk of a stitch table (R87, R88, R90, R97 "order" and "choice") -/

/-- A walk of every path of a table from a stitch, both arms of an ALT from the same start and joined at its JOIN. `x` belongs to a path, `g` is
shared by all. None where a path leaves the table, revisits a stitch (the fuel is the table's length and one more), breaks R90, or ends in
a BEAT_END with another NEXT than the entry index, or where `step` refuses a stitch. -/
def walkTab {σ γ : Type} (step : σ → γ → Nat → StitchOp → Option (σ × γ)) (join : σ → σ → σ) (tab : List Stitch) (entry : Nat) :
    Nat → Nat → Option Nat → Nat → σ → γ → Option (σ × γ)
  | 0, _, _, _, _, _ => none
  | n + 1, depth, stop, i, x, g =>
    if stop = some i then some (x, g)
    else match tab[i]? with
      | none => none
      | some s => match step x g i s.op with
        | none => none
        | some (x, g) => match s.op with
          | .alt altNext _ j _ _ _ _ =>
            if 8 ≤ depth then none
            else match walkTab step join tab entry n (depth + 1) (some j) s.next x g with
              | none => none
              | some (a, g) => match walkTab step join tab entry n (depth + 1) (some j) altNext x g with
                | none => none
                | some (c, g) => walkTab step join tab entry n depth stop j (join a c) g
          | .beatEnd => if stop.isNone ∧ s.next = entry then some (x, g) else none
          | _ => walkTab step join tab entry n depth stop s.next x g

/-- The walk of a whole program from its entry index. -/
def walkProg {σ γ : Type} (step : σ → γ → Nat → StitchOp → Option (σ × γ)) (join : σ → σ → σ) (tab : List Stitch) (entry : Nat) (x : σ)
    (g : γ) : Option (σ × γ) :=
  walkTab step join tab entry (tab.length + 2) 0 none entry x g

/-! ### Stitches on their own (R97 "arrays", "windows", "counts", "numbers", "entries") -/

/-- The main arrays and the tracing arrays of an ARRAYS field. -/
def mainPart (m : Nat) : Nat := m % 2 ^ 62
def tracePart (m : Nat) : Nat := m / 2 ^ 62

/-- R97 "arrays": some array, no reserve array, main and tracing arrays not mixed. -/
def arraysOk (t m : Nat) : Bool :=
  m ≠ 0 && !(t % 2 = 0 && bit m 61) && (mainPart m = 0 || tracePart m = 0)

/-- The checks of R97 that a stitch passes or fails alone; a generated table keeps R19 and R70. -/
def stitchOk (generated : Bool) (t : Nat) (maps : Nat → List ColChan) (op : StitchOp) : Bool :=
  match op with
  | .pass wkind widx _ _ iblk _ arrays =>
    arraysOk t arrays && decide (tracePart arrays ≠ 0) == decide (wkind = 3) &&
      (wkind ≠ 2 || (widx < 2 && iblk < 31 && !generated))
  | .kcmp _ arrays => arraysOk t arrays && tracePart arrays = 0
  | .proof _ _ arrays => arraysOk t arrays && tracePart arrays = 0
  | .alt _ cond _ _ _ _ iblk => cond ≠ 1 || iblk < 31
  | .tally tslot _ _ arrays =>
    (maskList arrays).all (fun a => (maps (arrayAddr t a)).all (fun c => tslot + c.off < 32))
  | .skive _ mode fmt eSt satMax zeroMax _ _ =>
    (mode = 0 || (eSt ≠ 0 && eSt ≠ 0xFF)) && (!generated || (mode = 0 && fmt = 0 && satMax = 0 && zeroMax = 12))
  | .send src skind count path dest _ _ _ _ _ =>
    1 ≤ count && (skind ≠ 1 || count = 1) && src + count ≤ 32 && (path ≠ 7 || dest < 8)
  | .recv _ _ base count nprod _ _ => 1 ≤ count && 1 ≤ nprod && base + count ≤ 32
  | .inlay _ _ iblk _ _ => iblk + 4 ≤ 32
  | _ => true

/-! ### Data flow along the paths (R92, R95, R97, R476) -/

/-- What holds at a stitch: window-result registers with passes that no KCMP has covered, input entries that a RECV has filled on every path,
whether every path has passed a WAIT, reservations some path has waited on, the planes and halves that passes have covered per block entry and
basic window (one mask per kind of path), entries of reservations with IFMT = 1, the basic windows in each WR, the windows that each tally slot
counts, the windows that tally messages take to a slot of another tile (`tallies`), and the messages to reservations of port 65, as FIRST and
block count (`blks`). -/
structure Flow where
  dirty  : List Nat
  filled : List Nat
  waited : Bool
  waits  : List Nat
  cov    : List (Nat × List Nat)
  wide   : List Nat
  wins   : Tbl Nat
  cnt    : Tbl Nat
  tallies : List ((Nat × Nat × Nat) × Nat)
  blks   : List (Member × List (Nat × Nat))
  deriving DecidableEq, Repr

/-- The start of a run. -/
def Flow.start : Flow :=
  { dirty := [], filled := [], waited := false, waits := [], cov := [], wide := [], wins := [], cnt := [], tallies := [], blks := [] }

/-- The entry of a key in a list of pairs. -/
def assocD {α β : Type} [DecidableEq α] (d : β) (k : α) (l : List (α × β)) : β := ((l.find? (fun x => x.1 = k)).map (·.2)).getD d

/-- Two lists of pairs joined key by key. -/
def joinAssoc {α β : Type} [DecidableEq α] (d : β) (f : β → β → β) (a b : List (α × β)) : List (α × β) :=
  ((a.map (·.1) ++ b.map (·.1)).eraseDups).map (fun k => (k, f (assocD d k a) (assocD d k b)))

/-- The messages of two arms to one reservation: the same whichever arm is taken, or counted twice so that no count meets R475. -/
def joinBlks (a b : List (Nat × Nat)) : List (Nat × Nat) := if a.isPerm b then a else a ++ b ++ a ++ b

/-- The coverage masks of a key, nothing covered where none is kept. -/
def covOf (cov : List (Nat × List Nat)) (k : Nat) : List Nat := ((cov.find? (fun x => x.1 = k)).map (·.2)).getD [0]

/-- Two tables of numbers joined by the larger value of each key. -/
def maxTbl (a b : Tbl Nat) : Tbl Nat := b.foldl (fun t x => put x.1 (max x.2 (getD 0 x.1 t)) t) a

/-- Two tables of masks joined. -/
def orTbl (a b : Tbl Nat) : Tbl Nat := b.foldl (fun t x => put x.1 (x.2 ||| getD 0 x.1 t) t) a

/-- What holds where two paths meet. -/
def Flow.join (a b : Flow) : Flow :=
  { dirty := (a.dirty ++ b.dirty).eraseDups
    filled := a.filled.filter b.filled.contains
    waited := a.waited && b.waited
    waits := (a.waits ++ b.waits).eraseDups
    cov := ((a.cov.map (·.1) ++ b.cov.map (·.1)).eraseDups).map (fun k => (k, (covOf a.cov k ++ covOf b.cov k).eraseDups))
    wide := (a.wide ++ b.wide).eraseDups
    wins := orTbl a.wins b.wins
    cnt := maxTbl a.cnt b.cnt
    tallies := joinAssoc 0 max a.tallies b.tallies
    blks := joinAssoc [] joinBlks a.blks b.blks }

/-- The block entries and basic windows that a PASS drives, with the mask of planes and halves it covers (R18, R97 "formats"). -/
def passCover (wkind widx h plane iblk : Nat) : List (Nat × Nat × Nat) :=
  match wkind with
  | 1 => [(iblk, widx, 2 ^ (2 * plane + h))]
  | 2 => [(iblk, 2 * widx, 3 * 2 ^ (2 * plane)), (iblk + 1, 2 * widx + 1, 3 * 2 ^ (2 * plane))]
  | _ => [(iblk, widx, 3 * 2 ^ (2 * plane))]

/-- The basic windows of a pass as a mask (R476). -/
def passWindows (wkind widx : Nat) : Nat := if wkind = 2 then 3 * 2 ^ (2 * widx) else 2 ^ widx

/-- The number of windows in a mask. -/
def winCount (m : Nat) : Nat := (List.range 4).countP (bit m)

/-- The input entries that an ALT looks at (R89). -/
def altReads (cond wkind iblk : Nat) : List Nat :=
  if cond = 3 then [] else if cond = 1 ∨ (cond = 0 ∧ wkind = 2) then [iblk, iblk + 1] else [iblk]

/-- Windows that tally messages take to a slot of a tile's reservation (R476): the tile, the reservation, FIRST, and the count. -/
abbrev CntMsgs := List ((Nat × Nat × Nat) × Nat)

/-- Counts added to slots; none above 512 (R57, R476). -/
def Flow.addCnt (x : Flow) (adds : List (Nat × Nat)) : Option Flow :=
  let cnt := adds.foldl (fun t a => put a.1 (getD 0 a.1 t + a.2) t) x.cnt
  if adds.all (fun a => getD 0 a.1 cnt ≤ 512) then some { x with cnt } else none

/-- A slot is released (R74). -/
def Flow.freeSlot (x : Flow) (slot : Nat) : Flow := { x with cnt := del slot x.cnt }

/-- A tally message leaves with the count of its slot. -/
def Flow.sendCnt (x : Flow) (n first : Nat) (ms : List Member) : Flow :=
  { x with tallies := joinAssoc 0 (· + ·) x.tallies ((ms.filter (fun m => m.port < 64)).map (fun m =>
      ((m.cluster * 64 + m.port, m.rbuf, first), n))) }

/-- A message of blocks leaves; what reaches port 65 is kept. -/
def Flow.sendBlks (x : Flow) (first count : Nat) (ms : List Member) : Flow :=
  { x with blks := joinAssoc [] (· ++ ·) x.blks ((ms.filter (fun m => m.port = 65)).map (fun m => (m, [(first, count)]))) }

/-- One stitch of the walk of tile `t` (R92, R95, R97, R476); `g` are the stitches reached, `inc` the tally messages that tiles send. A TALLY
counts the windows of the WR it drains once for each slot that its column maps name. -/
def flowStep (t : Nat) (groups : Tbl (List Member)) (maps : Nat → List ColChan) (inc : CntMsgs) (x : Flow) (g : List Nat) (i : Nat)
    (op : StitchOp) : Option (Flow × List Nat) :=
  let g := i :: g
  match op with
  | .pass wkind widx h plane iblk wr arrays =>
    let cs := passCover wkind widx h plane iblk
    if ¬ cs.all (fun c => x.filled.contains c.1) then none
    else
      let keys := (maskList arrays).map (fun a => wrKey a wr)
      let cov := cs.foldl (fun cov c =>
        let k := c.1 * 4 + c.2.1
        (k, ((covOf cov k).map (fun m => m ||| c.2.2)).eraseDups) :: cov.filter (fun y => y.1 ≠ k)) x.cov
      let wins := keys.foldl (fun w k => put k (getD 0 k w ||| passWindows wkind widx) w) x.wins
      some ({ x with cov, wins, dirty := if wkind = 3 then x.dirty else (keys ++ x.dirty).eraseDups }, g)
  | .alt _ cond _ wkind _ _ iblk => if (altReads cond wkind iblk).all x.filled.contains then some (x, g) else none
  | .kcmp wr arrays =>
    let keys := (maskList arrays).map (fun a => wrKey a wr)
    some ({ x with dirty := x.dirty.filter (fun k => !keys.contains k) }, g)
  | .tally tslot wr _ arrays =>
    let as := maskList arrays
    if as.any (fun a => x.dirty.contains (wrKey a wr)) then none
    else
      let slots := (as.flatMap (fun a => (maps (arrayAddr t a)).map (fun c => tslot + c.off))).eraseDups
      let adds := slots.map (fun sl => (sl, ((as.filter (fun a => (maps (arrayAddr t a)).any (fun c => tslot + c.off = sl))).map
        (fun a => winCount (getD 0 (wrKey a wr) x.wins))).foldl max 0))
      (x.addCnt adds).map (fun x => ({ x with wins := as.foldl (fun w a => del (wrKey a wr) w) x.wins }, g))
  | .skive tslot _ _ _ _ _ _ _ => some (x.freeSlot tslot, g)
  | .send src skind count path dest dbuf mcast _ _ first =>
    let ms := sendMembers groups t path dest dbuf mcast
    if ¬ x.waited ∨ (skind = 2 ∧ ¬ (List.range' src count).all x.filled.contains) ∨
        ms.any (fun m => m.cluster * 64 + m.port = t && m.port < 64 && x.waits.contains m.rbuf) then none
    else if skind = 1 then some ((x.sendCnt (getD 0 src x.cnt) first ms).freeSlot src, g)
    else some (x.sendBlks first count ms, g)
  | .recv rbuf kind base count _ _ ifmt =>
    if kind = 1 then
      (x.addCnt ((inc.filter (fun m => m.1.1 = t && m.1.2.1 = rbuf && m.1.2.2 < count)).map (fun m =>
        (base + m.1.2.2, m.2)))).map (fun x => (x, g))
    else
      let es := List.range' base count
      some ({ x with filled := (es ++ x.filled).eraseDups, wide := if ifmt = 1 then (es ++ x.wide).eraseDups else x.wide }, g)
  | .wait rbuf => some ({ x with waited := true, waits := rbuf :: x.waits }, g)
  | .inlay _ _ iblk _ _ => if (List.range' iblk 4).all x.filled.contains then some (x, g) else none
  | _ => some (x, g)

/-- R97 "formats": every block of a reservation with IFMT = 1 that passes drive is covered on planes 0–6 over every row of its window. -/
def Flow.covered (x : Flow) : Bool :=
  x.cov.all (fun c => !x.wide.contains (c.1 / 4) || c.2.all (fun m => m = 0 || m = 2 ^ 14 - 1))

/-! ### Programs of a table set: main and draft (R91, R219) -/

/-- The entry index of a tile's main or draft program; none where the tile has no draft program. -/
def progStart (p : TileProg) (draft : Bool) : Option Nat :=
  if draft then (if p.dentry = 4095 then none else some p.dentry) else some p.entry

/-- What the walks of a table set's programs leave: the stitches reached by tile, the tally messages that tiles send, and the messages to
reservations of port 65. -/
structure Walked where
  seen : Tbl (List Nat)
  msgs : CntMsgs
  blks : List (Member × List (Nat × Nat))
  deriving DecidableEq, Repr

/-- One walk of every tile's program with the tally messages known so far; none where a program is refused. -/
def flowAll (draft : Bool) (groups : Tbl (List Member)) (maps : Nat → List ColChan) (inc : CntMsgs) : Tbl TileProg → Option Walked
  | [] => some ⟨[], [], []⟩
  | (t, p) :: ps => match progStart p draft with
    | none => flowAll draft groups maps inc ps
    | some e =>
      match walkProg (flowStep t groups maps inc) Flow.join p.tab e Flow.start [] with
      | none => none
      | some (x, g) =>
        if ¬ x.covered then none
        else (flowAll draft groups maps inc ps).map (fun w =>
          ⟨(t, g.eraseDups) :: w.seen, joinAssoc 0 (· + ·) x.tallies w.msgs, joinAssoc [] (· ++ ·) x.blks w.blks⟩)

/-- The walks repeated until the tally messages between tiles no longer change (R476): none where a program is refused. The tallies of a run
pass along its SENDs, so as many walks as the tables hold stitches settle them, or a count has passed 512. -/
def flowSettled (draft : Bool) (groups : Tbl (List Member)) (maps : Nat → List ColChan) (progs : Tbl TileProg) : Nat → CntMsgs → Option Walked
  | 0, _ => none
  | n + 1, inc => match flowAll draft groups maps inc progs with
    | none => none
    | some w => if w.msgs = inc then some w else flowSettled draft groups maps progs n w.msgs

/-! ### Traffic (R97, R121, R141, R475) -/

/-- A SEND of a program, or the output of an engine's descriptor, and where it goes. -/
structure Sent where
  tile    : Nat
  idx     : Nat
  skind   : Nat
  count   : Nat
  path    : Nat
  dest    : Nat
  dbuf    : Nat
  vreg    : Nat
  first   : Nat
  members : List Member
  deriving DecidableEq, Repr

/-- The stitches of the program that the walk reached, with their indexes. -/
def reachedOps (progs : Tbl TileProg) (seen : Tbl (List Nat)) : List (Nat × Nat × StitchOp) :=
  seen.flatMap (fun x => let tab := ((find? x.1 progs).map (·.tab)).getD []
    x.2.filterMap (fun i => (tab[i]?).map (fun s => (x.1, i, s.op))))

/-- The SENDs among them. -/
def sentOf (groups : Tbl (List Member)) (ops : List (Nat × Nat × StitchOp)) : List Sent :=
  ops.filterMap (fun o => match o.2.2 with
    | .send _ skind count path dest dbuf mcast _ vreg first =>
      some { tile := o.1, idx := o.2.1, skind, count, path, dest, dbuf, vreg, first, members := sendMembers groups o.1 path dest dbuf mcast }
    | _ => none)

/-- A tile's reservation in a program: kind, base, count, IFMT. -/
structure RecvOp where
  tile  : Nat
  rbuf  : Nat
  kind  : Nat
  base  : Nat
  count : Nat
  ifmt  : Nat
  deriving DecidableEq, Repr

/-- The reservations that a program opens. -/
def recvsOf (ops : List (Nat × Nat × StitchOp)) : List RecvOp :=
  ops.filterMap (fun o => match o.2.2 with
    | .recv rbuf kind base count _ _ ifmt => some { tile := o.1, rbuf, kind, base, count, ifmt }
    | _ => none)

/-- The reservations that a program waits on: tile and RBUF. -/
def waitsOf (ops : List (Nat × Nat × StitchOp)) : List (Nat × Nat) :=
  ops.filterMap (fun o => match o.2.2 with
    | .wait rbuf => some (o.1, rbuf)
    | _ => none)

/-- The messages that an engine's descriptor sends: its members and block count (R136, R139, R151, R156, R157). -/
def TableSet.engOut (ts : TableSet) (port c d : Nat) : List Member × Nat :=
  if port = 64 then
    match (getD [] c ts.burn)[d]? with
    | some b => if b.op = 9 then ([], 0) else (getD [] b.group ts.groups, if b.op = 8 then 2 else b.nblk + 1)
    | none => ([], 0)
  else
    match (getD [] c ts.attn)[d]? with
    | some a => (attnMembers ts a, if a.op = 1 then a.g * 2 ^ a.nbl else a.nx + 1)
    | none => ([], 0)

/-- The descriptors of an engine that name reservation `rbuf`. -/
def TableSet.naming (ts : TableSet) (port c rbuf : Nat) : List Nat :=
  let ds := ts.engDescs port c
  (List.range ds.length).filter (fun d => (ds.getD d []).any (fun x => x.1 = rbuf))

/-- The descriptors of the table set. -/
def TableSet.descCount (ts : TableSet) : Nat := (ts.burn.map (fun x => x.2.length)).sum + (ts.attn.map (fun x => x.2.length)).sum

/-- The members that a delivery reaches in the end: the members themselves, and those of every descriptor that it can fire (R130). -/
def TableSet.spread (ts : TableSet) : Nat → List Member → List Member
  | 0, ms => ms
  | n + 1, ms =>
    let out := ms.flatMap (fun m => if m.port = 64 ∨ m.port = 65 then
      (ts.naming m.port m.cluster m.rbuf).flatMap (fun d => (ts.engOut m.port m.cluster d).1) else [])
    let ms' := (ms ++ out).eraseDups
    if ms'.length = ms.length then ms else ts.spread n ms'

/-- The members that messages from outside the program reach: ingress entries (R251). -/
def TableSet.ingressMembers (ts : TableSet) : List Member := ts.ingress.flatMap (fun e => getD [] e.group ts.groups)

/-- A member names an open reservation (R97 "traffic", R203). -/
def TableSet.memberMatches (ts : TableSet) (recvs : List RecvOp) (m : Member) : Bool :=
  if m.port < 64 then recvs.any (fun r => r.tile = m.cluster * 64 + m.port && r.rbuf = m.rbuf)
  else if m.port = 66 then (ts.logit ++ ts.dlogit).any (fun e => e.cluster = m.cluster && e.rbuf = m.rbuf)
  else !(ts.naming m.port m.cluster m.rbuf).isEmpty

/-- The entries that a SEND reaches lie within the reservation (R97 "entries"). -/
def entriesFit (recvs : List RecvOp) (s : Sent) : Bool :=
  s.members.all (fun m => m.port ≥ 64 || recvs.all (fun r => r.tile ≠ m.cluster * 64 + m.port || r.rbuf ≠ m.rbuf ||
    (if s.skind = 1 then s.first < r.count else s.first + s.count ≤ r.count)))

/-- The order of R99: at each point the lowest tile whose WAITs are satisfied by SENDs of tiles already taken, or of its own. None where no
tile qualifies (R97 "traffic"). -/
def tileOrder (feeds : Nat → List (Nat × Nat)) (waits : List (Nat × Nat)) : Nat → List Nat → List Nat → Option (List Nat)
  | 0, taken, left => if left.isEmpty then some taken else none
  | n + 1, taken, left =>
    if left.isEmpty then some taken
    else match left.find? (fun t => (waits.filter (fun w => w.1 = t)).all (fun w =>
        left.all (fun u => u = t || !(feeds u).contains w))) with
      | none => none
      | some t => tileOrder feeds waits n (taken ++ [t]) (left.filter (· ≠ t))

/-- The tile reservations that the SENDs of tile `u` satisfy, directly and through engines. -/
def TableSet.feedsOf (ts : TableSet) (sent : List Sent) (u : Nat) : List (Nat × Nat) :=
  (ts.spread (ts.descCount + 1) ((sent.filter (fun s => s.tile = u)).flatMap (·.members))).filterMap (fun m =>
    if m.port < 64 then some (m.cluster * 64 + m.port, m.rbuf) else none)

/-- A program of the table set after its checks: its SENDs, reservations, and the order of R99. -/
structure Prog where
  seen  : Tbl (List Nat)
  sent  : List Sent
  recvs : List RecvOp
  order : List Nat
  blks  : List (Member × List (Nat × Nat))
  deriving DecidableEq, Repr

/-- Messages bring a reservation of n blocks each block 0 to n − 1 once, and nothing beyond (R141, R475). A reservation that an ingress entry
feeds has the rest from there (`fed`): its messages bring no block twice. -/
def blocksMeet (fed : Bool) (n : Nat) (msgs : List (Nat × Nat)) : Bool :=
  let bs := msgs.flatMap (fun m => List.range' m.1 m.2)
  bs.all (· < n) && decide bs.Nodup && (fed || bs.length = n)

/-- The descriptor outputs of a program that reach a reservation of port 65, as FIRST and block count: those of every descriptor with an input
that the program's messages reach. -/
def TableSet.engTraffic (ts : TableSet) (reached : List Member) (m : Member) : List (Nat × Nat) :=
  [64, 65].flatMap (fun port => (if port = 64 then ts.burn.map (fun x => (x.1, x.2.length)) else ts.attn.map (fun x => (x.1, x.2.length))).flatMap
    (fun x => (List.range x.2).filterMap (fun d =>
      let o := ts.engOut port x.1 d
      let fires := ((ts.engDescs port x.1).getD d []).any (fun i => reached.contains ⟨x.1, port, i.1⟩)
      if o.1.contains m && fires then some (0, o.2) else none)))

/-- R141: in a program, each reservation of an attention descriptor that its messages reach takes the blocks R475 gives. -/
def TableSet.attnMeets (ts : TableSet) (sent : List Sent) (blks : List (Member × List (Nat × Nat))) : Bool :=
  let reached := ts.spread (ts.descCount + 1) (sent.flatMap (·.members))
  ts.attn.all (fun x => x.2.all (fun d => (attnInputs d).all (fun r =>
    let m : Member := ⟨x.1, 65, r.1⟩
    !reached.contains m || blocksMeet (ts.ingressMembers.contains m) r.2 (assocD [] m blks ++ ts.engTraffic reached m))))

/-- Every reservation of an attention descriptor has traffic: of a program, or of an ingress entry (R141). -/
def TableSet.attnReached (ts : TableSet) (sent : List Sent) : Bool :=
  let reached := ts.spread (ts.descCount + 1) (sent.flatMap (·.members) ++ ts.ingressMembers)
  ts.attn.all (fun x => x.2.all (fun d => (attnInputs d).all (fun r => reached.contains ⟨x.1, 65, r.1⟩)))

/-- The checks of one program of a table set over the walk of its tiles (R92, R95, R97, R121, R476). -/
def TableSet.progOk (ts : TableSet) (draft : Bool) (maps : Nat → List ColChan) : Option Prog :=
  match flowSettled draft ts.groups maps ts.progs ((ts.progs.map (fun x => x.2.tab.length)).sum + 2) [] with
  | none => none
  | some w =>
    let seen := w.seen
    let ops := reachedOps ts.progs seen
    let sent := sentOf ts.groups ops
    let recvs := recvsOf ops
    let reached := ts.spread (ts.descCount + 1) (sent.flatMap (·.members) ++ ts.ingressMembers)
    let ok := sent.all (fun s => s.path = 7 ||
        (!s.members.isEmpty && s.members.all (ts.memberMatches recvs) && entriesFit recvs s)) && ts.attnMeets sent w.blks &&
      recvs.all (fun r => reached.contains ⟨r.tile / 64, r.tile % 64, r.rbuf⟩)
    if ¬ ok then none
    else (tileOrder (ts.feedsOf sent) (waitsOf ops) (seen.length + 1) [] (seen.map (·.1))).map (fun order => { seen, sent, recvs, order, blks := w.blks })

/-! ### Engines, maps and the set as a whole (R97, R121, R134, R135, R141, R203, R251) -/

/-- R121, R134, R135: burnisher reservations fit, activation tables exist, and a ROPE vector is whole heads (DEDUCED, log 141). -/
def TableSet.burnOk (ts : TableSet) : Bool :=
  ts.burn.all (fun x =>
    let need (r : Nat) : Nat := (x.2.flatMap burnInputs).foldl (fun n i => if i.1 = r then max n i.2 else n) 0
    decide (((List.range 32).map need).sum ≤ 1024) &&
      x.2.all (fun d => ((d.op ≠ 4 && d.op ≠ 5) || d.tbl < 3 || (find? d.tbl ts.actTbl).isSome) &&
        (d.op ≠ 6 || (d.nblk + 1) * 128 % (2 * d.x8) = 0 && d.x8 ≠ 0)))

/-- The slots of a cluster's resident region at RES_POS (R145), each span rounded up to the 64 KiB at which spans are placed
(DEDUCED, log 142); 255 where the cluster holds no KV layer. -/
def TableSet.residentSlots (ts : TableSet) (c : Nat) : Nat :=
  let n := ts.spanBytes c (spanLen ts.resPos)
  if n = 0 then 255 else min 255 (2 ^ 26 / (ceilDiv n (2 ^ 16) * 2 ^ 16))

/-- R141 on the attention descriptors themselves. `given`: RES_COUNT stands in PVAL. -/
def TableSet.attnOk (ts : TableSet) (given : Bool) : Bool :=
  ts.attn.all (fun x =>
    x.2.all (fun d =>
      let dim := 64 * 2 ^ d.dh
      (d.op ≠ 1 || (decide (dim ≤ 2 ^ d.nbl * 128) && decide (d.g * (2 ^ d.nbl * 128) ≤ 64 * dim))) &&
        (d.op ≠ 5 || decide ((d.nexp + 1) * (d.nx + 1) ≤ 4096)))) &&
  (!given || ts.attn.all (fun x => ts.resCount ≤ ts.residentSlots x.1)) &&
  (ts.dmax = 0 || ts.attn.all (fun x => x.2.all (fun d => d.op ≠ 3)))

/-- The entries of a logit map cover token IDs 0 to VOCAB − 1, each once (R203). -/
def mapCovers (vocab : Nat) : Nat → Nat → List LogitEnt → Bool
  | 0, _, es => es.isEmpty
  | n + 1, at_, es =>
    if at_ ≥ vocab then es.isEmpty
    else match es.find? (fun e => e.first = at_) with
      | none => false
      | some e => 1 ≤ e.nblk && at_ + 128 * (e.nblk - 1) < vocab && mapCovers vocab n (at_ + 128 * e.nblk) (es.erase e)

/-- R203 and R219 on the two logit maps; a pommel that drafts and is not the cantle holds the draft map alone (R202, R219). -/
def TableSet.mapsOk (ts : TableSet) (clusters : List Nat) : Bool :=
  let all := ts.logit ++ ts.dlogit
  all.all (fun e => clusters.contains e.cluster) && decide ((all.map (fun e => (e.cluster, e.rbuf))).Nodup) &&
    (if ts.vocab = 0 then ts.logit.isEmpty && ts.dlogit.isEmpty
      else ((ts.logit.isEmpty && !ts.dlogit.isEmpty) || mapCovers ts.vocab 65 0 ts.logit) && (ts.dlogit.isEmpty || mapCovers ts.vocab 65 0 ts.dlogit)) &&
    (ts.dmax = 0 || (!ts.dlogit.isEmpty && ts.progs.any (fun x => x.2.dentry ≠ 4095)))

/-- R97, R121 and R251 on the parts that no walk reads. `members`: the member entries of the group table. -/
def TableSet.partsOk (ts : TableSet) (clusters : List Nat) (members : Nat) : Bool :=
  1 ≤ ts.beatSlots && ts.beatSlots ≤ 64 && decide (members ≤ 4096) && decide ((ts.groups.map (fun x => x.2.length)).sum ≤ 4096) &&
    ts.progs.all (fun x => clusters.contains (x.1 / 64) && decide (x.2.tab.length ≤ 3968) && x.2.tab.all (fun st => match st.op with
      | .send _ _ _ path dest _ _ _ _ _ => path ≠ 7 || clusters.contains (edgeCluster dest)
      | _ => true)) &&
    ts.burn.all (fun x => clusters.contains x.1) && ts.attn.all (fun x => clusters.contains x.1) &&
    ts.groups.all (fun x => x.2.length ≤ 64 && x.2.all (fun m => clusters.contains m.cluster && m.port ≤ 66)) &&
    decide ((ts.ingress.map (fun e => (e.port, e.dbuf))).Nodup)

/-- Every check of a table set over the clusters of its partition and the column maps of the layout: its main program and its draft program, if
it holds one. -/
def TableSet.check (ts : TableSet) (clusters : List Nat) (maps : Nat → List ColChan) (members : Nat) (given : Bool) : Option (Prog × Prog) :=
  if ¬ ts.partsOk clusters members ∨ ¬ ts.burnOk ∨ ¬ ts.attnOk given ∨ ¬ ts.mapsOk clusters ∨
      ¬ ts.progs.all (fun x => x.2.tab.all (fun s => stitchLegal s && stitchOk ts.generated x.1 maps s.op)) then none
  else match ts.progOk false maps, ts.progOk true maps with
    | some m, some d => if ts.attnReached (m.sent ++ d.sent) then some (m, d) else none
    | _, _ => none

end Sys2Proof.Machine
end

