-- ==== Sys2Proof/Machine/Wcet.lean ====
section
/-!
DEFINITION. The worst-case beat computation: W(b) (R99, R130, R137, R152, R257), AR(b) and AS(b) (R153) and the draft figures (R222), all in
ACLK cycles.
-/

namespace Sys2Proof.Machine

open Sys2Proof

/-! ### Messages on the fabric (R114, R130) -/

/-- What a message occupies, as R130 needs it: bytes, hops, and the destination ports, mesh links and edge port that it uses. -/
structure Haul where
  path  : Nat
  bytes : Nat
  hops  : Nat
  uses  : List (Nat × Nat × Nat)
  deriving DecidableEq, Repr

/-- msg_bytes (R130): N8 outside the sender's stitch tables, else the widest IFMT among the members. -/
def msgBytes (recvs : List RecvOp) (skind count path : Nat) (ms : List Member) : Nat :=
  if skind = 1 then 1040
  else
    let n8 := path = 7 || ms.any (fun m => m.port ≥ 64 ||
      recvs.any (fun r => r.tile = m.cluster * 64 + m.port && r.rbuf = m.rbuf && r.ifmt = 1))
    16 + count * (if n8 then 132 else 68)

/-- A message from cluster `c` (R112–R114, R130). -/
def haulOf (recvs : List RecvOp) (c skind count path dest : Nat) (ms : List Member) : Haul :=
  let bytes := msgBytes recvs skind count path ms
  let links (d : Nat) : List (Nat × Nat × Nat) := (meshRoute c d).map (fun l => (1, l.1, l.2))
  if path ≤ 3 then { path, bytes, hops := 0, uses := [] }
  else if path = 7 then
    { path, bytes, hops := (meshRoute c (edgeCluster dest)).length, uses := (2, dest, 0) :: links (edgeCluster dest) }
  else
    { path, bytes, hops := (ms.map (fun m => (meshRoute c m.cluster).length)).foldl max 0
      uses := ms.map (fun m => (0, m.cluster, m.port)) ++ ms.flatMap (fun m => links m.cluster) }

/-- send_time (R130). -/
def sendTime (bytes : Nat) : Nat := ceilDiv bytes 32

/-! ### Engines (R137, R152) -/

/-- The bound of a burnisher descriptor (R137). -/
def burnBound (d : BurnDesc) : Nat :=
  let n := d.nblk + 1
  match d.op with
  | 2 => 48 + 4 * n
  | 3 => 48 + 6 * n
  | 6 => 32 + 2 * n
  | 8 => 64 + 4 * n
  | _ => 24 + 2 * n

/-- The bound of an attention descriptor whose firing reads `n` positions (R152). -/
def attnBound (d : AttnDesc) (n : Nat) (streamed : Bool) : Nat :=
  let nb := 2 ^ d.nbl
  let lines := 4 * nb * n + ceilDiv (nb * n) 32
  match d.op with
  | 1 => 64 + 8 * nb + 2 * d.g * nb + max (ceilDiv ((if streamed then 16 else 4) * lines) 125) (ceilDiv (256 * d.g * nb * n) 16000)
  | 4 => 48 + 8 * (d.nx + 1) + (d.nexp + 1) * ceilDiv (d.nx + 5) 64
  | 5 => 48 + 16 * (d.nx + 1) + d.nexp + 1
  | _ => 32 + d.nx + 1

/-- What the procedure counts: W, or only the ATTN position terms at n = 64, resident or streamed (R153). -/
inductive Count where
  | w | ar | as_
  deriving DecidableEq, Repr

/-- A term that only W counts. -/
def Count.only (m : Count) (n : Int) : Int := if m = .w then n else 0

/-- Everything the procedure needs of a table set and a program. -/
structure Bounds where
  ts     : TableSet
  prog   : Prog
  maps   : Nat → List ColChan
  hauls  : List (Sent × Haul)
  live   : List Member
  cable  : Nat → Nat
  shared : Nat → Nat

/-- The procedure's view of a program. `cable` and `shared` give a port's CABLE_NS and the girths on it (R257). -/
def boundsOf (ts : TableSet) (prog : Prog) (maps : Nat → List ColChan) (cable shared : Nat → Nat) : Bounds :=
  { ts, prog, maps, cable, shared
    hauls := prog.sent.map (fun s => (s, haulOf prog.recvs (s.tile / 64) s.skind s.count s.path s.dest s.members))
    live := ts.spread (ts.descCount + 1) (prog.sent.flatMap (·.members)) }

/-- The descriptors of an engine that can fire in a run of the program (R130). -/
def Bounds.firing (b : Bounds) (port c : Nat) : List Nat :=
  let ds := b.ts.engDescs port c
  (List.range ds.length).filter (fun d => (ds.getD d []).any (fun x => b.live.contains ⟨c, port, x.1⟩))

/-- A descriptor's own bound under a count (R137, R152, R153). -/
def Bounds.descBound (b : Bounds) (m : Count) (port c d : Nat) : Nat :=
  if port = 64 then (if m = .w then ((((getD [] c b.ts.burn)[d]?).map burnBound).getD 0) else 0)
  else match (getD [] c b.ts.attn)[d]? with
    | none => 0
    | some a => match m with
      | .w => attnBound a 0 false
      | .ar => if a.op = 1 then attnBound a 64 false - attnBound a 0 false else 0
      | .as_ => if a.op = 1 then attnBound a 64 true - attnBound a 0 true else 0

/-- The transfer part of path_bound (R130, R257) in run `run`; `self`: the SEND's own place among the hauls, none for an engine's output. -/
def Bounds.transfer (b : Bounds) (m : Count) (run : Nat) (self : Option Sent) (h : Haul) : Nat :=
  if m ≠ .w then 0
  else if h.path ≤ 3 then ceilDiv h.bytes 64 + 4
  else
    let others := (b.hauls.filter (fun o => o.2.uses.any h.uses.contains)).map (fun o =>
      sendTime o.2.bytes * (b2n (some o.1 ≠ self) + b2n (decide (run > 0))))
    let t := sendTime h.bytes + 12 + 3 * h.hops + others.sum
    t + ceilDiv t 8

/-- link_bound of a PATH 7 SEND (R239, R257). -/
def Bounds.linkBound (b : Bounds) (m : Count) (run : Nat) (s : Sent) : Nat :=
  if m ≠ .w ∨ s.path ≠ 7 then 0
  else
    let rank (x : Sent) : Nat := if x.skind = 1 then 1 else if x.dbuf < 28 then 2 else 3
    let f := ((b.hauls.filter (fun o => o.1.path = 7 && o.1.dest = s.dest && rank o.1 ≤ rank s)).map (fun o => flits o.2.bytes)).sum
    let f := f * (if run > 0 then 2 else 1) * b.shared s.dest
    f + ceilDiv f 8 + linkFixed (b.cable s.dest)

/-- engine_bound of a delivery to `ms` (R130, R153): the bounds of every descriptor of the engine that can fire in the run, and path_bound of the
outputs of those that the delivery fires. -/
def Bounds.engineBound (b : Bounds) (m : Count) (run : Nat) : Nat → List Member → Nat
  | 0, _ => 0
  | n + 1, ms =>
    (ms.filter (fun x => x.port = 64 || x.port = 65)).foldl (fun best x =>
      let own := ((b.firing x.port x.cluster).map (b.descBound m x.port x.cluster)).sum
      let outs := (b.ts.naming x.port x.cluster x.rbuf).map (fun d =>
        let o := b.ts.engOut x.port x.cluster d
        if o.1.isEmpty then 0
        else b.transfer m run none (haulOf b.prog.recvs x.cluster 0 o.2 5 0 o.1) + b.engineBound m run n o.1)
      max best (own + outs.foldl max 0)) 0

/-- path_bound of a SEND (R130). -/
def Bounds.pathBound (b : Bounds) (m : Count) (run : Nat) (s : Sent) (h : Haul) : Nat :=
  b.transfer m run (some s) h + b.linkBound m run s + b.engineBound m run (b.ts.descCount + 1) s.members

/-! ### The walk (R99) -/

/-- Free times and ready times of a tile's units (R99). -/
structure Units where
  stit    : Int
  arr     : Int
  trc     : Int
  chk     : Int
  tal     : Int
  skv     : Int
  snd     : Int
  wrReady : Tbl Int
  checked : Tbl Int
  eref    : Tbl Int
  slot    : Tbl Int
  inb     : Tbl Int
  out     : Tbl Int
  deriving DecidableEq, Repr

/-- The later of two times for every key. -/
def laterTbl (a b : Tbl Int) : Tbl Int := b.foldl (fun t x => put x.1 (max x.2 (getD x.2 x.1 t)) t) a

/-- later_of (R99). -/
def laterOf (a b : Units) : Units :=
  { stit := max a.stit b.stit, arr := max a.arr b.arr, trc := max a.trc b.trc, chk := max a.chk b.chk, tal := max a.tal b.tal
    skv := max a.skv b.skv, snd := max a.snd b.snd, wrReady := laterTbl a.wrReady b.wrReady, checked := laterTbl a.checked b.checked
    eref := laterTbl a.eref b.eref, slot := laterTbl a.slot b.slot, inb := laterTbl a.inb b.inb, out := laterTbl a.out b.out }

/-- A key of a table takes the later time. -/
def later (k : Nat) (v : Int) (t : Tbl Int) : Tbl Int := put k (max v (getD v k t)) t

/-- The shared times: arrivals at tile reservations by (run · 1,024 + tile) · 32 + RBUF, inlay engines by cluster, and PATH 7 messages at the
next device by port · 32 + DBUF (R99, R257). -/
structure Shared where
  arrival : Tbl Int
  inl     : Tbl Int
  edge    : Tbl Int
  deriving DecidableEq, Repr

/-- The key of an arrival. -/
def arrKey (run t rbuf : Nat) : Nat := (run * 1024 + t) * 32 + rbuf

/-- One stitch of the W procedure (R99). -/
def Bounds.wStep (b : Bounds) (m : Count) (t run : Nat) (x : Units) (g : Shared) (i : Nat) (op : StitchOp) : Option (Units × Shared) :=
  let z := m.only
  let x := { x with stit := x.stit + z 1 }
  let done (rbuf : Nat) : Int := getD 0 (arrKey run t rbuf) g.arrival
  match op with
  | .pass wkind _ _ _ _ wr _ =>
    let k := bankWr run wr
    if wkind = 3 then
      let st := max x.stit x.trc
      let trc := max (st + z 1) (x.trc + z 4)
      some ({ x with stit := st, trc, wrReady := later k (trc + z 4) x.wrReady, checked := later k (trc + z 4) x.checked }, g)
    else
      let st := max x.stit x.arr
      let arr := max (st + z 8) (x.arr + z 128)
      some ({ x with stit := st, arr, wrReady := later k (arr + z 248) x.wrReady }, g)
  | .proof _ _ _ =>
    let x := (List.range 7).foldl (fun (x : Units) _ =>
      let st := max x.stit x.arr
      { x with stit := st, arr := max (st + z 8) (x.arr + z 128) }) x
    some ({ x with chk := max x.chk (x.arr + z 250) }, g)
  | .kcmp wr _ =>
    let k := bankWr run wr
    let chk := max x.chk (getD 0 k x.wrReady + z 2)
    some ({ x with chk, checked := put k chk x.checked }, g)
  | .tally tslot wr vreg arrays =>
    let as := maskList arrays
    let n := (as.map (fun a => (b.maps (arrayAddr t a)).length)).sum
    let tal := max (max x.stit x.tal) (max (getD 0 (bankWr run wr) x.checked) (getD 0 (bankVreg run vreg) x.eref)) + z (ceilDiv n 128 + 6)
    let offs := (as.flatMap (fun a => (b.maps (arrayAddr t a)).map (·.off))).eraseDups
    some ({ x with tal, slot := offs.foldl (fun s o => later (bankEntry run tslot + o) tal s) x.slot }, g)
  | .inlay tslot _ _ vreg maxnz =>
    let c := t / 64
    let e := max (max x.stit (getD 0 c g.inl)) (getD 0 (bankVreg run vreg) x.eref) + z (73 + ceilDiv (maxnz * 16) 4)
    some ({ x with slot := later (bankEntry run tslot) e x.slot }, { g with inl := put c e g.inl })
  | .skive tslot mode fmt _ satMax zeroMax oblk _ =>
    let d := if fmt = 0 ∧ (satMax < 128 ∨ zeroMax < 128) then 272 else if mode = 0 then 136 else 72
    let skv := max (max x.stit x.skv) (getD 0 (bankEntry run tslot) x.slot) + z d
    some ({ x with skv, out := put (bankEntry run oblk) skv x.out }, g)
  | .send src skind count _ _ _ _ _ _ _ =>
    let es := (List.range' src count).map (bankEntry run)
    let ready := if skind = 1 then getD 0 (bankEntry run src) x.slot
      else (es.map (fun e => getD 0 e (if skind = 2 then x.inb else x.out))).foldl max 0
    let st := max (max x.stit x.snd) ready
    match b.hauls.find? (fun h => h.1.tile = t && h.1.idx = i) with
    | none => some (x, g)
    | some (s, h) =>
      let at_ := st + b.pathBound m run s h
      let arrival := (b.ts.spread (b.ts.descCount + 1) s.members).foldl (fun a y =>
        if y.port < 64 then later (arrKey run (y.cluster * 64 + y.port) y.rbuf) at_ a else a) g.arrival
      let edge := if s.path = 7 ∧ run = 0 then later (s.dest * 32 + s.dbuf) at_ g.edge else g.edge
      some ({ x with snd := st + z (sendTime h.bytes) }, { g with arrival, edge })
  | .recv rbuf kind base count _ vreg _ =>
    let d := done rbuf
    let es := (List.range count).map (fun k => bankEntry run base + k)
    let x := { x with eref := later (bankVreg run vreg) d x.eref }
    some (if kind = 1 then { x with slot := es.foldl (fun s e => later e d s) x.slot }
      else { x with inb := es.foldl (fun s e => later e d s) x.inb }, g)
  | .wait rbuf => some ({ x with stit := max x.stit (done rbuf) }, g)
  | _ => some (x, g)

/-- The arrivals that ingress entries bring to run `run`: BEAT input at 0, INBEAT input at XIN, and what engines make of it (R99, R130, R251). -/
def Bounds.ingressArrivals (b : Bounds) (m : Count) (run : Nat) (a : Tbl Int) : Tbl Int :=
  b.ts.ingress.foldl (fun a e =>
    let ms := getD [] e.group b.ts.groups
    let t0 := m.only (if e.kind = 1 then e.xin else 0)
    let eb : Int := b.engineBound m run (b.ts.descCount + 1) ms
    (b.ts.spread (b.ts.descCount + 1) ms).foldl (fun a y =>
      if y.port < 64 then later (arrKey run (y.cluster * 64 + y.port) y.rbuf) (if ms.contains y then t0 else t0 + eb) a else a) a) a

/-- The start state of a tile (R99). -/
def startUnits (m : Count) (wake : Nat) : Units :=
  let w := m.only wake
  { stit := w, arr := w - m.only 128, trc := w - m.only 4, chk := w, tal := w, skv := w, snd := w, wrReady := [], checked := [], eref := []
    slot := [], inb := [], out := [] }

/-- One run of every tile in the order of R99. -/
def Bounds.wRun (b : Bounds) (m : Count) (draft : Bool) (wake run : Nat) (st : Tbl Units × Shared) : Tbl Units × Shared :=
  let g := { st.2 with arrival := b.ingressArrivals m run st.2.arrival }
  b.prog.order.foldl (fun (acc : Tbl Units × Shared) t =>
    match find? t b.ts.progs with
    | none => acc
    | some p => match progStart p draft with
      | none => acc
      | some e => match walkProg (b.wStep m t run) laterOf p.tab e (getD (startUnits m wake) t acc.1) acc.2 with
        | some (x, g) => (put t x acc.1, g)
        | none => acc) (st.1, g)

/-- latest_free (R99). -/
def latestFree (wake : Int) (st : Tbl Units × Shared) : Nat :=
  let us := (st.1.map (·.2)).flatMap (fun u => [u.stit, u.arr, u.trc, u.chk, u.tal, u.skv, u.snd])
  ((us ++ st.2.inl.map (·.2)).foldl max wake).toNat

/-- The figures for 1 to `n` runs, and the shared times at the end. -/
def Bounds.wRuns (b : Bounds) (m : Count) (draft : Bool) (wake : Nat) : Nat → Nat → Tbl Units × Shared → List Nat × Shared
  | 0, _, st => ([], st.2)
  | n + 1, run, st =>
    let st := b.wRun m draft wake run st
    let r := b.wRuns m draft wake n (run + 1) st
    (latestFree (m.only wake) st :: r.1, r.2)

/-- The start of the procedure. -/
def wStart : Tbl Units × Shared := ([], { arrival := [], inl := [], edge := [] })

/-- T_WAKE in the procedure (R99, R435). -/
def TableSet.wake (ts : TableSet) : Nat := if ts.gate then 1200 else 0

/-- W(1..BEAT_SLOTS), AR or AS of a program (R99, R100, R153). -/
def Bounds.figures (b : Bounds) (m : Count) (draft : Bool) : List Nat := (b.wRuns m draft b.ts.wake b.ts.beatSlots 0 wStart).1

/-- The XIN of each INBEAT entry of a generated table set: the device's own figure for the PATH 7 SEND on the entry's port and DBUF, in the first
run (R257); carried through as often as entries depend on each other. -/
def xinOf (mk : TableSet → Bounds) : Nat → TableSet → TableSet
  | 0, ts => ts
  | n + 1, ts =>
    let g := ((mk ts).wRuns .w false ts.wake 1 0 wStart).2
    xinOf mk n { ts with ingress := ts.ingress.map (fun e =>
      if e.kind = 1 then { e with xin := (getD (e.xin : Int) (e.port * 32 + e.dbuf) g.edge).toNat } else e) }

/-- CABLE_NS of a port: its link in the partition's girth record, else the longest cable, 50 ns (R257, log 48). -/
def State.cableOf (s : State) (p port : Nat) : Nat :=
  match (s.girth p).record with
  | some r => ((r.mine.find? (fun l => l.port = port)).map (·.cable)).getD 50
  | none => 50

/-- The table set with its stored figures: W, AR, AS, and DW where it drafts; STALL_LIMIT by the rule of R127 where none is given (R99, R100,
R127, R153, R222). -/
def State.withFigures (s : State) (p : Nat) (ts : TableSet) (maps : Nat → List ColChan) (main draft : Prog) : TableSet :=
  let mk (pr : Prog) (ts : TableSet) : Bounds := boundsOf ts pr maps (s.cableOf p) (fun port => max 1 (s.girthsOnPort port))
  let ts := if ts.generated then xinOf (mk main) ts.ingress.length ts else ts
  let b := mk main ts
  let w := b.figures .w false
  let wd := (mk draft ts).figures .w true
  let dw := if ts.dmax = 0 then List.replicate ts.beatSlots 0
    else (List.range ts.beatSlots).map (fun i => (ts.dmax + 1) * (wd.getD i 0 + (i + 1) * s.selCycles p ts.dlogit 0))
  { ts with
    xout := ((b.wRuns .w false ts.wake 1 0 wStart).2.edge).map (fun (x : Nat × Int) => (x.1, x.2.toNat))
    w, ar := b.figures .ar false, as := b.figures .as_ false, dw
    stallLimit := if ts.stallLimit = 0 then max 16000 (2 * w.getD (ts.beatSlots - 1) 0) else ts.stallLimit }

end Sys2Proof.Machine
end

