-- ==== Sys2Proof/Machine/Quant.lean ====
section
/-!
DEFINITION. Quantising and laying out weights: source values (R308), channel steps and codes (R42–R46, R314–R316), runs and arrays (R317),
logical contents and digests (R320), and the layout record (R322, R323).
-/

namespace Sys2Proof.Machine

open Sys2Proof

/-! ### Source values (R308), in units of 2^-149 -/

/-- A BF16 value; none for a NaN or an infinity. -/
def bf16Val (w : Nat) : Option Int :=
  let e := bits w 14 7
  let m := bits w 6 0
  let v : Int := if e = 0 then m * 2 ^ 16 else (128 + m) * 2 ^ (e + 15)
  if e = 255 then none else some (if bit w 15 then -v else v)

/-- An E4M3 value; none for a NaN. -/
def e4m3Val (w : Nat) : Option Int :=
  let e := bits w 6 3
  let m := bits w 2 0
  let v : Int := if e = 0 then m * 2 ^ 140 else (8 + m) * 2 ^ (e + 139)
  if w % 128 = 127 then none else some (if bit w 7 then -v else v)

/-- A SCALE value (R314): none for a NaN, an infinity or a negative value. -/
def scaleVal (w : Nat) : Option Nat :=
  let e := bits w 30 23
  let m := bits w 22 0
  let v := if e = 0 then m else (2 ^ 23 + m) * 2 ^ (e - 1)
  if e = 255 ∨ (bit w 31 ∧ v ≠ 0) then none else some v

/-- Element `i` of a shard (R308). -/
def shardVal (sh : Bool × List Byte) (i : Nat) : Option Int :=
  if sh.1 then e4m3Val (leNat ((sh.2.drop i).take 1)) else bf16Val (leNat ((sh.2.drop (2 * i)).take 2))

/-- The elements of a shard (R308). -/
def shardLen (sh : Bool × List Byte) : Nat := if sh.1 then sh.2.length else sh.2.length / 2

/-! ### Steps and codes (R45, R314–R316) -/

/-- A channel step in units of 2^-149 (R45). -/
def stepVal (w : Nat) : Nat := if w = 0 then 0 else (256 + w % 256) * 2 ^ (w / 256 + 14)

/-- The smallest channel step that is at least num / den, from the smallest normal step up; none above the largest (R45, R314). -/
def minStep (num den : Nat) : Option Nat :=
  ((List.range' 1 254).find? (fun se => num ≤ 511 * 2 ^ (se + 14) * den)).map (fun se =>
    se * 256 + (ceilDiv num (den * 2 ^ (se + 14)) - 256))

/-- The largest code magnitude of a width (R314, R316). -/
def maxCode (w : Nat) : Nat := 2 ^ (w - 1) - 1

/-- A weight code before any clamp: the nearest integer to x / step, ties to even; without a step, a magnitude beyond every clamp
(R315, log 50). -/
def nearCode (x : Int) (step : Nat) : Int :=
  let q : Int := if step = 0 then (if x = 0 then 0 else 2 ^ 9) else rneDiv x.natAbs step
  if x < 0 then -q else q

/-- A value clamped to a magnitude. -/
def clampTo (m : Nat) (q : Int) : Int := max (-(m : Int)) (min m q)

/-- The weight code of R315. -/
def codeOf (tw : Nat) (x : Int) (step : Nat) : Int := if tw = 1 then (if x ≥ 0 then 1 else -1) else clampTo (maxCode tw) (nearCode x step)

/-- The stored bits of a code of a width (R42, R43). -/
def codeBits (w : Nat) (q : Int) : Nat := if w = 1 then (if q > 0 then 1 else 0) else (q % 2 ^ w).toNat

/-- The code that stored bits stand for (R43). -/
def bitsCode (w n : Nat) : Int := if w = 1 then 2 * (n : Int) - 1 else if n ≥ 2 ^ (w - 1) then (n : Int) - 2 ^ w else n

/-! ### A matrix with its source values -/

/-- A matrix entry, its TARGET_W in force, the width that the expert field fixes (0 = none), and its source values. -/
structure Source where
  ent   : MatrixEnt
  tw    : Nat
  fixed : Nat
  x     : Nat → Nat → Int

/-- The segments of a matrix (R317). -/
def MatrixEnt.segs (m : MatrixEnt) : Nat := ceilDiv m.inDim 512

/-- The input elements of a segment. -/
def MatrixEnt.segRows (m : MatrixEnt) (seg : Nat) : List Nat := List.range' (512 * seg) (min 512 (m.inDim - 512 * seg))

/-- The matrix's shard is held, its bounds lie in it, and none of its weights is a NaN or an infinity (R313, R314). -/
def State.sourceOf (s : State) (m : MatrixEnt) (width : Nat) : Option Source :=
  match find? m.shard s.shards with
  | none => none
  | some sh =>
    let at_ (o i : Nat) : Nat := m.offset + o * m.stride + i
    if shardLen sh < m.offset + (m.outDim - 1) * m.stride + m.inDim ∨
        ¬ (List.range m.outDim).all (fun o => (List.range m.inDim).all (fun i => (shardVal sh (at_ o i)).isSome)) then none
    else some { ent := m, tw := if width = 0 then m.targetW else width, fixed := width, x := fun o i => (shardVal sh (at_ o i)).getD 0 }

/-- The largest magnitude of a channel over some input elements. -/
def Source.maxMag (q : Source) (o : Nat) (rows : List Nat) : Nat := (rows.map (fun i => (q.x o i).natAbs)).foldl max 0

/-- The channel step of R314; none where it would exceed the largest normal step, or its SCALE value is not usable. -/
def Source.step (q : Source) (scale : List Nat) (o : Nat) : Option Nat :=
  let rows := List.range q.ent.inDim
  let cmax := if q.ent.scaleV then (scale[q.ent.scaleOff + o]?).bind scaleVal else some (q.maxMag o rows)
  match cmax with
  | none => none
  | some c =>
    if c = 0 then some 0
    else if q.tw = 1 then minStep (rows.map (fun i => (q.x o i).natAbs)).sum q.ent.inDim
    else minStep c (maxCode q.tw)

/-- A matrix with its channel steps. -/
structure Quantised where
  src   : Source
  steps : List Nat

/-- The weight code at output channel `o`, input element `i` (R315). -/
def Quantised.code (q : Quantised) (o i : Nat) : Int := codeOf q.src.tw (q.src.x o i) (stepVal (q.steps.getD o 0))

/-- The width of the block of channel `o` in a segment (R316). -/
def Quantised.width (q : Quantised) (o seg : Nat) : Nat :=
  if q.src.fixed ≠ 0 then q.src.fixed
  else if q.src.tw = 1 then 1
  else
    let m := ((q.src.ent.segRows seg).map (fun i => (q.code o i).natAbs)).foldl max 0
    ((List.range' 2 (q.src.tw - 1)).find? (fun w => m ≤ maxCode w)).getD q.src.tw

/-- A matrix quantised (R314); none where a step fails. -/
def quantise (q : Source) (scale : List Nat) : Option Quantised :=
  (allSome ((List.range q.ent.outDim).map (q.step scale))).map (fun steps => { src := q, steps })

/-! ### Runs and arrays (R317, R320) -/

/-- A run: first channel and channel count. -/
abbrev Run := Nat × Nat

/-- The runs of a matrix: a run takes channels while the widths in every one of its arrays sum to at most 256 (R317). `sums` are the widths of the
open run by segment. -/
def runsFrom (width : Nat → Nat → Nat) (segs outDim : Nat) : Nat → Nat → Nat → List Nat → List Run
  | 0, _, _, _ => []
  | n + 1, first, o, sums =>
    if o ≥ outDim then (if o > first then [(first, o - first)] else [])
    else
      let sums' := (List.range segs).map (fun k => sums.getD k 0 + width o k)
      if sums'.all (· ≤ 256) then runsFrom width segs outDim n first (o + 1) sums'
      else (first, o - first) :: runsFrom width segs outDim n o (o + 1) ((List.range segs).map (width o))

/-- The runs of a quantised matrix. -/
def Quantised.runs (q : Quantised) : List Run := runsFrom q.width q.src.ent.segs q.src.ent.outDim (q.src.ent.outDim + 1) 0 0 []

/-- Every array that a matrix needs: matrix index, segment, first channel, channel count (R317). -/
def Quantised.needs (q : Quantised) (i : Nat) : List (Nat × Nat × Nat × Nat) :=
  q.runs.flatMap (fun r => (List.range q.src.ent.segs).map (fun seg => (i, seg, r.1, r.2)))

/-- The widths of a placed array's channels. -/
def Quantised.widths (q : Quantised) (pl : Placed) : List Nat := (List.range' pl.firstCh pl.nch).map (fun o => q.width o pl.seg)

/-- Logical row `r` of an array: each channel's code bits at its base column; rows beyond IN_DIM hold 0 (R42, R44, R317). -/
def rowBits (code : Nat → Nat → Int) (pl : Placed) (inDim : Nat) (widths : List Nat) (r : Nat) : Nat :=
  let i := 512 * pl.seg + r
  if i ≥ inDim then 0
  else ((List.range widths.length).foldl (fun (acc : Nat × Nat) k =>
    let w := widths.getD k 1
    (acc.1 + codeBits w (code (pl.firstCh + k) i) * 2 ^ acc.2, acc.2 + w)) (0, 0)).1

/-- The logical contents of an array: rows that hold a bit (R320). -/
def arrayRows (code : Nat → Nat → Int) (pl : Placed) (inDim : Nat) (widths : List Nat) : Tbl Nat :=
  allRows.filterMap (fun r => let v := rowBits code pl inDim widths r
    if v = 0 then none else some (r, v))

/-- AD: the array digest of logical contents (R320). -/
def arrayDigest (a : Nat) (rows : Tbl Nat) : List Byte :=
  (sha512 (leBytes 2 a ++ allRows.flatMap (fun r => leBytes 32 (getD 0 r rows)))).take 16

/-- The column map of a placed array (R42, R72, R317). `slot` gives the tally slot offset of an output block. -/
def columnMap (pl : Placed) (widths : List Nat) (slot : Nat → Nat) : List ColChan :=
  (List.range widths.length).map (fun k =>
    let o := pl.firstCh + k
    { chan := o, width := widths.getD k 1, base := (widths.take k).sum, off := slot (o / 128), lane := o % 128 })

/-- The slot offset that a plan gives an array's output block. -/
def planSlot (pl : Plan) (a blk : Nat) : Nat := ((pl.slots.find? (fun x => x.1 = a && x.2.1 = blk)).map (·.2.2)).getD 0

/-- The step table of a tile under a plan (R72, R107, R317). -/
def planSteps (pl : Plan) (steps : List (List Nat)) (t : Nat) : Tbl Nat :=
  (pl.rows.filter (fun r => r.1 = t)).foldl (fun tbl r =>
    let st := steps.getD r.2.2.1 []
    (List.range 128).foldl (fun tbl l => putZ (r.2.1 * 128 + l) (st.getD (r.2.2.2 * 128 + l) 0) tbl) tbl) []

/-! ### The layout record (R322, R323) -/

/-- An array entry of the record. -/
def layoutWords (e : LayoutEnt) : List Byte :=
  let nib (k : Nat) : Nat := e.widths.getD k 0
  wordBytes [e.placed.array + 2 ^ 16 * e.part + 2 ^ 20 * e.placed.nch, e.placed.matrix + 2 ^ 16 * e.placed.seg, e.placed.firstCh] ++ e.ad ++
    wordBytes ((List.range (ceilDiv e.placed.nch 8)).map (fun i => ((List.range 8).map (fun j => nib (8 * i + j) * 2 ^ (4 * j))).sum))

/-- The loaded partitions with their weights, ascending. -/
def State.loaded (s : State) : List (Nat × Weights) :=
  (List.range 16).filterMap (fun p => (s.part p).weights.map (fun w => (p, w)))

/-- The record of the weights that the device holds, with a sequence number. -/
def State.layoutOf (s : State) (seq : Nat) : LayoutCopy :=
  { seq
    entries := (s.loaded.flatMap (fun x => x.2.entries)).foldl (fun t e => put e.placed.array e t) ([] : Tbl LayoutEnt) |>.map (·.2)
    steps := s.loaded.map (fun x => (x.1, x.2.steps))
    manifests := s.loaded.map (fun x => (x.1, x.2.manifest)) }

/-- The record's bytes. -/
def LayoutCopy.bytes (r : LayoutCopy) : List Byte :=
  let ents := r.entries.flatMap layoutWords
  let steps := r.steps.flatMap (fun x => x.2.flatMap (fun m => m.flatMap (leBytes 2)))
  let steps := steps ++ List.replicate ((4 - steps.length % 4) % 4) 0
  let tail := ents ++ steps ++ r.manifests.flatMap (·.2)
  wordBytes ([64 + tail.length, r.seq % 2 ^ 32, r.seq / 2 ^ 32, r.entries.length] ++ List.replicate 12 0) ++ tail

/-- A commit writes the record into the copy not in use, and then digest, sequence and copy into the record store; none where the write or its
check fails (R323). -/
def State.writeRecord (s : State) (flashOk : Bool) : Option State :=
  let seq := s.store.seq + 1
  let r := s.layoutOf seq
  if ¬ flashOk then none
  else
    let st := { s.store with image := sha512 r.bytes, seq, copyB := !s.store.copyB }
    some { s with store := if s.store.copyB then { st with recA := r } else { st with recB := r } }

/-- The image digest prefix that a reply carries (R298). -/
def State.digestWords (s : State) : List Nat := (List.range 4).map (wordAt s.store.image)

/-! ### Inlay segments (R340) -/

/-- A tile's inlay segments: matrix, segment and output block of the arrays it holds, ascending; SEG is the place in this list (log 51). -/
def tileSegs (w : Weights) (t : Nat) : List (Nat × Nat × Nat) :=
  let all := (w.entries.filter (fun e => e.placed.array / 64 = t)).flatMap (fun e =>
    (List.range' (e.placed.firstCh / 128) ((e.placed.firstCh + e.placed.nch - 1) / 128 + 1 - e.placed.firstCh / 128)).map (fun b =>
      (e.placed.matrix, e.placed.seg, b)))
  ((all.foldl (fun t x => put (x.1 * 2 ^ 40 + x.2.1 * 2 ^ 20 + x.2.2) x t) ([] : Tbl (Nat × Nat × Nat))).map (·.2))

end Sys2Proof.Machine
end

