-- ==== Sys2Proof/Machine/Tannery.lean ====
section
/-!
DEFINITION. The tannery: LOAD_SHARD (R308, R309), LOAD_COMMIT (R310–R324) and TABLE_LOAD (R97, R98, R300).
-/

namespace Sys2Proof.Machine

open Sys2Proof

/-! ### LOAD_SHARD (R308, R309) -/

/-- The room of the shard store when a shard arrives (R309). -/
def State.shardRoom (s : State) : Nat :=
  let spans := (s.streamedSpans.map (·.2)).sum
  min (2 ^ 35 - s.shardBytes) (stackKvUnits * 65536 - spans * 65536 - s.shardBytes)

/-- A 64-byte digest that the host gives matches some bytes (R298). -/
def State.digestOk (s : State) (h : HostMem) (a : Nat) (bs : List Byte) : Bool := sha512 bs = s.readMem h a 64

/-- LOAD_SHARD's effect. -/
def loadShardCmd (h : HostMem) : CmdEffect := fun src w s =>
  let fp8 := pktFlag w 9
  let a := dword w 2
  let n := nthW w 4
  let id := nthW w 5
  if n = 0 then State.reply { s with shards := del id s.shards } src w 0x00 [id]
  else if (find? id s.shards).isSome ∨ (¬ fp8 ∧ n % 2 = 1) ∨ s.shardRoom < n ∨ ¬ addrOk a n ∨ ¬ addrOk (dword w 6) 64 then s.reply src w 0x04
  else
    let bs := s.readMem h a n
    let s := (s.asks a n).asks (dword w 6) 64
    if ¬ s.digestOk h (dword w 6) bs then s.reply src w 0x0D
    else State.reply { s with shards := put id (fp8, bs) s.shards } src w 0x00 [id]

/-- LOAD_SHARD (R308, R309): the bytes are kept under SHARD_ID when their digest matches; BYTES = 0 drops the shard. -/
def execLoadShard (b : Nat) (h : HostMem) (s : State) : Result := command b 0x10 (loadShardCmd h) s

/-! ### Layout against a plan (R317, R324 step 3) -/

/-- A matrix of the manifest meets the partition: clusters inside it, SCALE entries there (R313). -/
def matrixOk (clusters : Nat) (scale : List Nat) (m : MatrixEnt) : Bool :=
  within m.cmask clusters && (!m.scaleV || decide (m.scaleOff + m.outDim ≤ scale.length))

/-- Whether an array may hold the weights of a matrix (R317, R343, R346, R347). -/
def State.allocatable (s : State) (clusters : Nat) (m : MatrixEnt) (a : Nat) : Bool :=
  let mask := if m.cmask = 0 then clusters else m.cmask
  a < 65536 && bit mask (a / 4096) && isTracing a == m.trace && !isReserve a && (s.repair a).st ≠ 2

/-- The plan places every run on arrays of its own that the matrix may use, and nothing else (R317). -/
def State.placementOk (s : State) (clusters : Nat) (qs : List Quantised) (pl : Plan) : Bool :=
  let needs := (List.range qs.length).flatMap (fun i => match qs[i]? with
    | some q => q.needs i
    | none => [])
  let has := pl.placed.map (fun x => (x.matrix, x.seg, x.firstCh, x.nch))
  decide (has.length = needs.length) && needs.all has.contains && has.all needs.contains && decide (has.Nodup) &&
    decide ((pl.placed.map (·.array)).Nodup) &&
    pl.placed.all (fun x => match qs[x.matrix]? with
      | some q => s.allocatable clusters q.src.ent x.array
      | none => false)

/-- The plan fills the receiving groups of the matrices, and only those, with tiles that hold arrays of the matrices that name them (R313). -/
def groupsFilled (ms : List MatrixEnt) (pl : Plan) : Bool :=
  let keys := (ms.map (·.inGroup)).eraseDups
  decide ((pl.groups.map (·.1)).Nodup) && keys.all (fun g => pl.groups.any (fun x => x.1 = g)) &&
    pl.groups.all (fun x => keys.contains x.1 &&
      (let tiles := (pl.placed.filter (fun p => match ms[p.matrix]? with
        | some m => m.inGroup = x.1
        | none => false)).map (fun p => p.array / 64)
       x.2.all (fun m => m.port < 64 && tiles.contains (m.cluster * 64 + m.port)) &&
        tiles.all (fun t => x.2.any (fun m => m.cluster * 64 + m.port = t))))

/-- A generated logit map (R477): ascending FIRST, one entry for each cluster, all on reservation `rbuf`. -/
def headMap (rbuf : Nat) (es : List LogitEnt) : Bool :=
  es.all (fun e => e.rbuf = rbuf) && decide ((es.map (·.cluster)).Nodup) &&
    (es.zip (es.drop 1)).all (fun x => decide (x.1.first < x.2.first))

/-- HEAD and DHEAD name matrices of the manifest that hold the vocabulary, and the maps have the form of R477 (R312). -/
def headsOk (v : PVal) (ms : List MatrixEnt) (pl : Plan) : Bool :=
  let holds (i : Nat) : Bool := match ms[i]? with
    | some m => decide (v.vocab ≤ m.outDim)
    | none => false
  headMap 0 pl.logit && headMap 1 pl.dlogit && (v.vocab = 0 || holds v.head || (pl.logit.isEmpty && v.dhead ≠ 0xFFFF)) &&
    (if v.dhead = 0xFFFF then pl.dlogit.isEmpty && v.dmax = 0 else holds v.dhead)

/-- RES_COUNT as R145 computes it: the slots that fit every cluster of the partition. -/
def TableSet.resCountFit (ts : TableSet) : Nat := (ts.attn.map (fun x => ts.residentSlots x.1)).foldl min 255

/-- A table set from partition values and the parts that a manifest or an image gives, defaults resolved (R312). R71 says that generated tables
set the fallback level to 256, and R312 gives a load manifest FB_LEVEL, with 0 for the default: a nonzero FB_LEVEL stands in a generated set
too (DESIGN CHOICE, log 140). -/
def tableOf (generated : Bool) (v : PVal) (m : Manifest) : TableSet :=
  let ts : TableSet :=
    { generated, beatSlots := v.beatSlots, gate := v.gate, dmax := v.dmax, fbLevel := if v.fbLevel = 0 then 256 else v.fbLevel
      stallLimit := v.stallLimit, resPos := if v.resPos = 0 then 4096 else v.resPos, resCount := 0, vocab := v.vocab
      head := v.head, dhead := v.dhead, groups := m.groups, burn := m.burn, attn := m.attn, ingress := m.ingress, actTbl := m.actTbl
      logit := m.logit, dlogit := m.dlogit, progs := m.progs }
  { ts with resCount := if v.resCount = 0xFFFF then ts.resCountFit else v.resCount }

/-- The table set that the tannery builds from a load manifest and its plan (R317, R477). -/
def generatedSet (v : PVal) (m : Manifest) (pl : Plan) : TableSet :=
  tableOf true v { m with
    groups := pl.groups.foldl (fun g x => put x.1 x.2 g) m.groups, logit := pl.logit, dlogit := pl.dlogit
    progs := pl.progs.foldl (fun t x => put x.1 x.2 t) ([] : Tbl TileProg) }

/-- What steps 1–3 of R324 leave: weights, table set, logical contents by array, column maps by array. -/
structure Prepared where
  weights : Weights
  table   : TableSet
  rows    : Tbl (Tbl Nat)
  maps    : Tbl (List ColChan)

/-- The column maps of a layout. -/
def Prepared.mapOf (x : Prepared) (a : Nat) : List ColChan := getD [] a x.maps

/-- The weights, logical contents and column maps of quantised matrices under a plan (R317, R320). -/
def layOut (p : Nat) (bytes : List Byte) (ms : List MatrixEnt) (qs : List Quantised) (pl : Plan) :
    Weights × Tbl (Tbl Nat) × Tbl (List ColChan) :=
  pl.placed.foldl (fun (acc : Weights × Tbl (Tbl Nat) × Tbl (List ColChan)) x =>
    match qs[x.matrix]? with
    | none => acc
    | some q =>
      let ws := q.widths x
      let rows := arrayRows q.code x q.src.ent.inDim ws
      let e : LayoutEnt := { placed := x, part := p, ad := arrayDigest x.array rows, widths := ws }
      let w := acc.1
      ({ w with entries := (put x.array e (w.entries.map (fun y => (y.placed.array, y)))).map (·.2) }, put x.array rows acc.2.1,
        put x.array (columnMap x ws (planSlot pl x.array)) acc.2.2))
    ({ manifest := bytes, matrices := ms, entries := [], steps := qs.map (·.steps), plan := pl }, [], [])

/-- The lanes of an output block that a tile holds for one segment of a matrix (R340). -/
def segLanes (w : Weights) (t : Nat) (x : Nat × Nat × Nat) : Nat :=
  ((w.entries.filter (fun e => e.placed.array / 64 = t ∧ e.placed.matrix = x.1 ∧ e.placed.seg = x.2.1)).map (fun e =>
    (List.range' e.placed.firstCh e.placed.nch).countP (fun o => o / 128 = x.2.2))).sum

/-- Tile `t` sends a matrix's skived blocks to OUT_GROUP or to OUT_PORT and OUT_DBUF, a matrix's tallies to OUT_PORT, as OUT_KIND says, and a head's
blocks to reservation 0 or 1 on port 66 of its own cluster (R313, R477); between tiles, tallies go as the tannery places them. -/
def sendObeys (v : PVal) (ms : List MatrixEnt) (groups : Tbl (List Member)) (t : Nat) (op : StitchOp) : Bool :=
  match op with
  | .send _ skind _ path dest dbuf mcast _ _ _ =>
    let out (k : Nat) : Bool := ms.any (fun m => m.outKind = k && m.outPort = dest % 16 && m.outDbuf = dbuf)
    if path = 7 then (if skind = 1 then out 1 else out 2)
    else if skind = 1 then true
    else mcast = 1 && (ms.zipIdx.any (fun m => m.1.outKind = 0 && m.2 ≠ v.head && m.2 ≠ v.dhead && m.1.outGroup = dest) ||
      (let xs := getD [] dest groups
       decide (xs ≠ []) && xs.all (fun m => m.cluster = t / 64 && m.port = 66 && m.rbuf ≤ 1)))
  | _ => true

/-- The stitches of a generated program keep to what R313, R317 and R340 say of them: sends, MAXNZ of an INLAY, and the step row of a SKIVE, which
holds the steps of a block of a matrix whose channels the tile drains into that slot where it has any. -/
def stitchObeys (v : PVal) (ms : List MatrixEnt) (w : Weights) (groups : Tbl (List Member)) (t : Nat) (tab : List Stitch) (op : StitchOp) : Bool :=
  match op with
  | .inlay _ seg _ _ maxnz => match (tileSegs w t)[seg]? with
    | some x => maxnz = ceilDiv (512 * segLanes w t x) 200
    | none => false
  | .skive q _ _ _ _ _ _ row => match w.plan.rows.find? (fun r => r.1 = t && r.2.1 = row) with
    | none => false
    | some r =>
      let here := w.entries.filter (fun e => e.placed.array / 64 = t && e.placed.matrix = r.2.2.1 &&
        (List.range' e.placed.firstCh e.placed.nch).any (fun o => o / 128 = r.2.2.2))
      decide (r.2.2.1 < ms.length) && (here.isEmpty || tab.any (fun st => match st.op with
        | .tally base _ _ arrays => here.any (fun e => bit arrays (e.placed.array % 64) && base + planSlot w.plan e.placed.array r.2.2.2 = q)
        | _ => false))
  | op => sendObeys v ms groups t op

/-- The arrays that a stitch names hold weights of the plan (R317). -/
def arraysHeld (w : Weights) (t : Nat) (op : StitchOp) : Bool :=
  let held (m : Nat) : Bool := (List.range 64).all (fun k => !bit m k || w.entries.any (fun e => e.placed.array = arrayAddr t k))
  match op with
  | .pass _ _ _ _ _ _ m | .tally _ _ _ m => held m
  | _ => true

/-- A head's map follows its placement (R477): each entry starts a block of the head, and its blocks are ones of which the cluster holds channels;
the entries together take every output block once. -/
def headPlaced (w : Weights) (head : Nat) (es : List LogitEnt) : Bool :=
  es.isEmpty || (es.all (fun e => e.first % 128 = 0 && (List.range' (e.first / 128) e.nblk).all (fun b =>
    w.entries.any (fun x => x.placed.matrix = head && x.placed.array / 4096 = e.cluster &&
      (List.range' x.placed.firstCh x.placed.nch).any (fun o => o / 128 = b)))) &&
    (match w.matrices[head]? with
    | some m => decide ((es.map (·.nblk)).sum = ceilDiv m.outDim 128)
    | none => false))

/-- The generated table set keeps to what the manual says of the programs and maps that the tannery writes; which programs it chooses is its own
(R317, log 138). -/
def planObeys (v : PVal) (ms : List MatrixEnt) (w : Weights) (groups : Tbl (List Member)) : Bool :=
  w.plan.progs.all (fun x => x.2.tab.all (fun st => arraysHeld w x.1 st.op && stitchObeys v ms w groups x.1 x.2.tab st.op)) &&
    headPlaced w v.head w.plan.logit && headPlaced w v.dhead w.plan.dlogit

/-- Steps 2 and 3 of R324 for a manifest that has been read: REJECT_PARAM (0x04) or REJECT_CAPACITY (0x02), or what they prepare. -/
def State.prepare (s : State) (p width : Nat) (bytes : List Byte) (m : Manifest) (pl : Plan) : Nat ⊕ Prepared :=
  let clusters := (s.part p).clusters
  match m.pval with
  | none => .inl 0x04
  | some v =>
    if ¬ m.matrices.all (matrixOk clusters m.scale) ∨ ¬ headsOk v m.matrices pl then .inl 0x04
    else match allSome (m.matrices.map (fun e => (s.sourceOf e width).bind (fun q => quantise q m.scale))) with
      | none => .inl 0x04
      | some qs =>
        if ¬ s.placementOk clusters qs pl then .inl 0x02
        else if ¬ groupsFilled m.matrices pl then .inl 0x04
        else
          let ts := generatedSet v m pl
          let (weights, rows, maps) := layOut p bytes m.matrices qs pl
          let mapOf (a : Nat) : List ColChan := getD [] a maps
          let members := (ts.groups.map (fun x => x.2.length)).sum
          if ¬ planObeys v m.matrices weights ts.groups then .inl 0x04
          else match ts.check (s.part p).clusterList mapOf members (v.resCount ≠ 0xFFFF) with
          | none => .inl 0x04
          | some (main, draft) => .inr { weights, rows, maps, table := s.withFigures p ts mapOf main draft }

/-! ### LOAD_COMMIT (R324) -/

/-- Column maps and step tables of a partition's tiles from its weights (R107, R317). -/
def State.writeMaps (s : State) (p : Nat) (w : Weights) : State :=
  (s.part p).tileList.foldl (fun s t =>
    let maps := (w.entries.filter (fun e => e.placed.array / 64 = t)).foldl (fun m e =>
      put (e.placed.array % 64) (columnMap e.placed e.widths (planSlot w.plan e.placed.array)) m) ([] : Tbl (List ColChan))
    s.setTile t { s.tile t with colMaps := maps, steps := planSteps w.plan w.steps t }) s

/-- The stack copy takes the contents of a partition's arrays; slots that the partition no longer uses read zero (R321). -/
def State.writeStack (s : State) (p : Nat) (rows : Tbl (Tbl Nat)) : State :=
  let s := s.clearSlots (s.arraysOf p)
  { s with stackCopy := rows.foldl (fun c x => put x.1 x.2 c) s.stackCopy }

/-- Every array of a list is programmed; the second component says that all of them took their contents (R318, R319). -/
def State.programAll (s : State) (bad : Faulty) : List Nat → State × Bool
  | [] => (s, true)
  | a :: as =>
    let r := s.programArray a bad
    let rest := r.1.programAll bad as
    (rest.1, r.2 && rest.2)

/-- A committed array's proof block is PB(a) = a mod 64, and its known sums are yet to come (R326). -/
def State.freshSums (s : State) (as : List Nat) : State :=
  as.foldl (fun s a => { s.setArr a { s.arr a with pb := a % 64, sumsOk := false } with sums := del a s.sums }) s

/-- Shards that the matrices name are freed (R309). -/
def State.freeShards (s : State) (ms : List MatrixEnt) : State := { s with shards := ms.foldl (fun t m => del m.shard t) s.shards }

/-- Steps 4–6 of R324: the arrays are programmed, the stack copy and the record written, and the table set put in force. A failure leaves the
partition without weights or table set. -/
def State.commit (s : State) (p : Nat) (x : Prepared) (bad : Faulty) (flashOk : Bool) (src : CmdSrc) (w : List Nat) : State :=
  let as := x.weights.entries.map (·.placed.array)
  let s := s.writeStack p x.rows
  let s := s.setPart p { s.part p with weights := none, table := none }
  let r := s.programAll bad as
  let s := r.1.freeShards x.weights.matrices
  if ¬ r.2 then (((s.clearSlots as).loseWeights p).startTiles p).reply src w 0x02
  else
    let s := (s.setPart p { s.part p with weights := some x.weights }).freshSums as
    match s.writeRecord flashOk with
    | none => ((s.loseWeights p).startTiles p).reply src w 0x0A
    | some s =>
      let s := (s.writeMaps p x.weights).setPart p { s.part p with table := some x.table }
      ((s.setLoaded).startTiles p).reply src w 0x00 s.digestWords

/-- LOAD_COMMIT's effect. It programs no array while ACLK is stopped, and waits (R478). -/
def loadCommitCmd (h : HostMem) (plan : Plan) (bad : Faulty) (flashOk : Bool) : CmdEffect := fun src w s =>
  let p := pktPart w
  let a := dword w 2
  let n := nthW w 4
  let width := if pktExpert w then nthW w 5 else 0
  if (s.part p).swap.isSome ∨ ¬ (s.activeOf p).isEmpty then s.reply src w 0x05
  else if ¬ (s.part p).defined ∨ ¬ addrOk a n ∨ 8 < width then s.reply src w 0x04
  else
    let bs := s.readMem h a n
    let waiting := s
    let s := s.asks a n
    match readManifest 0 false bs with
    | none => s.reply src w 0x04
    | some m => match s.prepare p width bs m plan with
      | .inl st => s.reply src w st
      | .inr x =>
        if ¬ s.awake then waiting else
        let next := s.setPart p { s.part p with weights := some x.weights }
        if 2 ^ 25 < (next.layoutOf 0).bytes.length then s.reply src w 0x02
        else s.commit p x bad flashOk src w

/-- LOAD_COMMIT (R310–R324): `plan` is what the tannery chooses, `bad` the columns that do not take their states, and `flashOk` says that the
flash write and its check succeed. -/
def execLoadCommit (b : Nat) (h : HostMem) (plan : Plan) (bad : Faulty) (flashOk : Bool) (s : State) : Result :=
  command b 0x11 (loadCommitCmd h plan bad flashOk) s

/-! ### TABLE_LOAD (R97, R98, R300) -/

/-- The column maps that the tiles hold. -/
def State.heldMap (s : State) (a : Nat) : List ColChan := getD [] (a % 64) (s.tile (a / 64)).colMaps

/-- A table set is put in force. -/
def State.install (s : State) (p : Nat) (ts : TableSet) : State := (s.setPart p { s.part p with table := some ts }).startTiles p

/-- TABLE_LOAD's effect. -/
def tableLoadCmd (h : HostMem) : CmdEffect := fun src w s =>
  let p := pktPart w
  let a := dword w 2
  let n := nthW w 4
  if ¬ (s.activeOf p).isEmpty then s.reply src w 0x05
  else if ¬ (s.part p).defined ∨ ¬ addrOk a n ∨ ¬ addrOk (dword w 5) 64 then s.reply src w 0x04
  else
    let bs := s.readMem h a n
    let s := (s.asks a n).asks (dword w 5) 64
    if ¬ s.digestOk h (dword w 5) bs then s.reply src w 0x0D
    else match readManifest 2 false bs with
      | none => s.reply src w 0x04
      | some m => match m.pval with
        | none => s.reply src w 0x04
        | some v =>
          let ts := tableOf false v m
          match ts.check (s.part p).clusterList s.heldMap m.members (v.resCount ≠ 0xFFFF) with
          | none => s.reply src w 0x04
          | some (main, draft) =>
            let ts := s.withFigures p ts s.heldMap main draft
            (s.install p ts).reply src w 0x00 [ts.w.headD 0, ts.w.getD (ts.beatSlots - 1) 0]

/-- TABLE_LOAD (R97, R98, R300): an image that passes every check becomes the table set in force. -/
def execTableLoad (b : Nat) (h : HostMem) (s : State) : Result := command b 0x80 (tableLoadCmd h) s

end Sys2Proof.Machine
end

