-- ==== Sys2Proof/Machine/Swaps.lean ====
section
/-!
DEFINITION. Weight swaps (R331–R337) and inlays (R338–R342).
-/

namespace Sys2Proof.Machine

open Sys2Proof

/-! ### Segments of a tile (R340) -/

/-- The matrix whose segment a difference changes. -/
def diffMatrix (w : Weights) (d : Diff) : Option Nat := ((tileSegs w d.tile)[d.seg]?).map (·.1)

/-! ### Swaps (R331–R337) -/

/-- The channel step of a swap: the smallest at least max over the channel's blocks of width 2 or more of max |x| / (2^(w-1) − 1); of a channel
whose blocks all have width 1, as R314 gives it (R331). `width o seg` is the block's width in the loaded layout. -/
def swapStep (q : Source) (width : Nat → Nat → Nat) (o : Nat) : Option Nat :=
  let segs := List.range q.ent.segs
  let wide := segs.filter (fun k => 2 ≤ width o k)
  if (q.maxMag o (List.range q.ent.inDim)) = 0 then some 0
  else if wide.isEmpty then minStep ((List.range q.ent.inDim).map (fun i => (q.x o i).natAbs)).sum q.ent.inDim
  else (allSome (wide.map (fun k =>
    let m := q.maxMag o (q.ent.segRows k)
    if m = 0 then some 0 else minStep m (maxCode (width o k))))).map (fun l => l.foldl max 0)

/-- The layout entry that holds segment `seg` of channel `o` of matrix `m`. -/
def Weights.entryFor (w : Weights) (m seg o : Nat) : Option LayoutEnt :=
  w.entries.find? (fun e => e.placed.matrix = m && e.placed.seg = seg && e.placed.firstCh ≤ o && o < e.placed.firstCh + e.placed.nch)

/-- The width of the block of channel `o` in segment `seg` of matrix `m` in the loaded layout. -/
def Weights.widthOf (w : Weights) (m o seg : Nat) : Nat :=
  match w.entryFor m seg o with
  | some e => e.widths.getD (o - e.placed.firstCh) 1
  | none => 1

/-- The pending image of one listed matrix: new steps, and the logical contents of its arrays (R331, R333). -/
def State.swapMatrix (s : State) (w : Weights) (i : Nat) (m : MatrixEnt) : Option (List Nat × Tbl (Tbl Nat)) :=
  match s.sourceOf m 0 with
  | none => none
  | some q =>
    let width (o seg : Nat) : Nat := w.widthOf i o seg
    match allSome ((List.range m.outDim).map (swapStep q width)) with
    | none => none
    | some steps =>
      let es := w.entries.filter (fun e => e.placed.matrix = i)
      some (steps, es.map (fun e =>
        let code (o k : Nat) : Int := let bw := width o (k / 512)
          if bw = 1 then (if q.x o k ≥ 0 then 1 else -1) else clampTo (maxCode bw) (nearCode (q.x o k) (stepVal (steps.getD o 0)))
        (e.placed.array, arrayRows code e.placed m.inDim e.widths)))

/-- A listed matrix matches the loaded matrix of its index (R331). -/
def swapMatches (w : Weights) (i : Nat) (m : MatrixEnt) : Bool :=
  match w.matrices[i]? with
  | some l => l.layer = m.layer && l.inDim = m.inDim && l.outDim = m.outDim && l.trace = m.trace && l.outKind = m.outKind
  | none => false

/-- The hold bound of the listed layers, in µs (R334). -/
def State.holdBound (s : State) (p : Nat) (ms : List (Nat × MatrixEnt)) : Nat :=
  let es := ((s.part p).weights.map (·.entries)).getD []
  let arrays (layer : Nat) : Nat := es.countP (fun e => ms.any (fun m => m.1 = e.placed.matrix && m.2.layer = layer))
  let a := (ms.map (fun m => arrays m.2.layer)).foldl max 0
  let w := match (s.part p).table with
    | some ts => ts.w.getD (ts.beatSlots - 1) 0
    | none => 0
  ceilDiv (w + (ceilDiv a 64 + 1) * 462848) 800

/-- A swap with its pending image; none where a listed matrix fails (R331, R333). -/
def State.swapOf (s : State) (clusters : Nat) (m : Manifest) (w : Weights) : Option Swap :=
  let ms := (List.range m.matrices.length).zip m.matrices
  if ¬ ms.all (fun x => matrixOk clusters m.scale x.2 && swapMatches w x.1 x.2) then none
  else (allSome (ms.map (fun x => s.swapMatrix w x.1 x.2))).map (fun qs =>
    { announced := m.nhold * m.swapUs, swapUs := m.swapUs, matrices := ms, swapped := [], held := []
      image := (qs.flatMap (·.2)).foldl (fun t x => put x.1 x.2 t) []
      newSteps := (List.range qs.length).zip (qs.map (·.1)) })

/-- The pommel's swap takes effect: swap_term is in force at once, the start of the swap goes out on the rein tree, and the reply waits for the
promised requests admitted before (R187, R333). -/
def State.pommelSwap (s : State) (p : Nat) (sw : Swap) (src : CmdSrc) (w : List Nat) : State :=
  let g := s.girth p
  let s := s.setPart p { s.part p with swap := some sw }
  let s := s.setGirth p { g with swapTerm := 25 * sw.announced + g.wheel.c, swapSrc := some src, swapPkt := w, swapTick := s.tick }
  ((s.rein p (.swap sw.swapUs)).startCmd src w).releaseSwap p

/-- SWAP_BEGIN's effect. -/
def swapBeginCmd (h : HostMem) (us : Option Nat) : CmdEffect := fun src w s =>
  let p := pktPart w
  let a := dword w 2
  let n := nthW w 4
  let pommel := s.isPommel p
  if (List.range 16).any (fun k => (s.part k).swap.isSome) then s.reply src w 0x05
  else if ¬ addrOk a n then s.reply src w 0x04
  else
  let bs := s.readMem h a n
  let s := s.asks a n
  match (s.part p).weights, readManifest 1 pommel bs with
    | some ws, some m =>
      let listed := List.range m.matrices.length
      if (s.part p).inlays.any (fun x => x.2.any (fun d => match diffMatrix ws d with
          | some i => listed.contains i
          | none => false)) then s.reply src w 0x05
      else match s.swapOf (s.part p).clusters m ws with
        | none => s.reply src w 0x04
        | some sw =>
          let bound := s.holdBound p sw.matrices
          let limit := if pommel then some m.swapUs else us
          if (limit.map (fun u => decide (u < bound))).getD false ∧ ¬ (pommel ∧ m.matrices.isEmpty) then s.reply src w 0x04
          else if pommel then s.pommelSwap p sw src w
          else (s.setPart p { s.part p with swap := some { sw with announced := bound, swapUs := us.getD 0 } }).reply src w 0x00 [bound]
    | _, _ => s.reply src w 0x04

/-- SWAP_BEGIN (R331–R333, R336): `us` is the SWAP_US that the start of the swap has brought to a member on the rein tree. -/
def execSwapBegin (b : Nat) (h : HostMem) (us : Option Nat) (s : State) : Result := command b 0x12 (swapBeginCmd h us) s

/-- No beat of the partition is in progress on this device (R334 step 1). -/
def State.atBarrier (s : State) (p : Nat) : Bool := (s.part p).beats.all (fun (x : Beat) => x.started.isNone)

/-- Every array of a list is programmed from the stack copy, none declared dead. -/
def State.tryAll (s : State) (bad : Faulty) : List Nat → State × Bool
  | [] => (s, true)
  | a :: as =>
    let r := s.tryProgram a bad
    let rest := r.1.tryAll bad as
    (rest.1, r.2 && rest.2)

/-- The weights after a layer has been swapped: new steps and digests (R334 step 4). -/
def Weights.swapped (w : Weights) (sw : Swap) (ids as : List Nat) : Weights :=
  { w with
    steps := (List.range w.steps.length).map (fun i => match ids.contains i, sw.newSteps.find? (fun x => x.1 = i) with
      | true, some x => x.2
      | _, _ => w.steps.getD i [])
    entries := w.entries.map (fun e =>
      if as.contains e.placed.array then { e with ad := arrayDigest e.placed.array (getD [] e.placed.array sw.image) } else e) }

/-- The partition starts no further beat for a layer: the halter barrier (R334 step 1, R335). -/
def Swap.hold (sw : Swap) (layer : Nat) : Swap := { sw with held := if sw.held.contains layer then sw.held else layer :: sw.held }

/-- Steps 2–4 of R334 for one layer: the barrier is released with the new weights in place. The arrays are programmed from the pending image and
read back; a layer that repair cannot bring to its digests stays held (R335). -/
def State.swapLayer (s : State) (p : Nat) (sw : Swap) (ws : Weights) (layer : Nat) (bad : Faulty) (src : CmdSrc) (w : List Nat) : State :=
  let ids := (sw.matrices.filter (fun m => m.2.layer = layer)).map (·.1)
  let as := (ws.entries.filter (fun e => ids.contains e.placed.matrix)).map (·.placed.array)
  let old := s.stackCopy
  let sums := as.foldl (fun s a => s.setArr a { s.arr a with sumsOk := false }) s
  let s : State := { sums with stackCopy := as.foldl (fun c a => put a (getD [] a sw.image) c) old }
  let r := s.tryAll bad as
  let s := r.1
  if ¬ r.2 then
    let s : State := { s with stackCopy := old }
    (s.setPart p { s.part p with swap := some (sw.hold layer) }).reply src w 0x0D
  else
    let ws := ws.swapped sw ids as
    let s := s.setPart p { s.part p with
      weights := some ws
      swap := some { sw with held := sw.held.filter (· ≠ layer), swapped := if sw.swapped.contains layer then sw.swapped else layer :: sw.swapped } }
    ((s.writeMaps p ws).releaseIngress p).reply src w 0x00 [layer]

/-- SWAP_LAYER (R334, R335, R399): the layer is held from its start, so that the beat in progress is the last; the arrays are programmed once it
is over. A thermal stop during the hold ends the command. -/
def execSwapLayer (b : Nat) (bad : Faulty) (s : State) : Result :=
  command b 0x13 (fun src w s =>
    let p := pktPart w
    let layer := bits (nthW w 2) 15 0
    match (s.part p).swap, (s.part p).weights with
    | some sw, some ws =>
      if ¬ sw.matrices.any (fun m => m.2.layer = layer) then s.reply src w 0x04
      else if s.hk.stop ∧ sw.held.contains layer then s.reply src w 0x0A
      else if ¬ s.awake then s
      else if ¬ s.atBarrier p then s.setPart p { s.part p with swap := some (sw.hold layer) }
      else s.swapLayer p sw ws layer bad src w
    | _, _ => s.reply src w 0x04) s

/-- A swap closes: the record is written, pending image and shards are freed, swap_term ends, and what waited at ingress goes on (R187, R334,
R336); none where the flash write fails (R323). -/
def State.closeSwap (s : State) (p : Nat) (sw : Swap) (flashOk : Bool) : Option State :=
  (s.writeRecord flashOk).map (fun s =>
    let s := (s.setPart p { s.part p with swap := none }).freeShards (sw.matrices.map (·.2))
    (s.setGirth p { s.girth p with swapTerm := 0, swapBound := 0, swapSrc := none, swapPkt := [] }).releaseIngress p)

/-- SWAP_END (R323, R336). -/
def execSwapEnd (b : Nat) (flashOk : Bool) (s : State) : Result :=
  command b 0x14 (fun src w s =>
    let p := pktPart w
    match (s.part p).swap with
    | none => s.reply src w 0x04
    | some sw => match s.closeSwap p sw flashOk with
      | none => s.reply src w 0x0A
      | some s => s.reply src w 0x00 s.digestWords) s

/-! ### Inlays (R338–R342) -/

/-- A section of an inlay image: matrix, and its entries as output channel, input element and BF16 word. -/
abbrev InlaySec := Nat × List (Nat × Nat × Nat)

/-- Entries strictly ascending in (OUT, IN) (R338). -/
def inlayAscends : List (Nat × Nat × Nat) → Bool
  | [] => true
  | [_] => true
  | a :: b :: l => (a.1 < b.1 || (a.1 = b.1 && a.2.1 < b.2.1)) && inlayAscends (b :: l)

/-- The next `n` sections of an inlay image; none where it breaks R338. -/
def readInlay (ms : List MatrixEnt) : Nat → List Byte → Option (List InlaySec)
  | 0, bs => if bs.isEmpty then some [] else none
  | n + 1, bs =>
    let w0 := wordAt bs 0
    let count := wordAt bs 1
    match ms[w0]? with
    | none => none
    | some m =>
      let es := (List.range count).map (fun k => (wordAt bs (5 + 2 * k), bits (wordAt bs (4 + 2 * k)) 15 0, bits (wordAt bs (4 + 2 * k)) 31 16))
      if bs.length < 16 + 8 * count ∨ wordAt bs 2 ≠ 0 ∨ wordAt bs 3 ≠ 0 ∨ ¬ inlayAscends es ∨
          ¬ es.all (fun e => e.1 < m.outDim && e.2.1 < m.inDim && (bf16Val e.2.2).isSome) then none
      else (readInlay ms n (bs.drop (16 + 8 * count))).map (fun l => (w0, es) :: l)

/-- The stored difference of one entry (R338, R340); none where it is zero. -/
def State.inlayDiff (s : State) (ws : Weights) (m : Nat) (e : Nat × Nat × Nat) : Option Diff :=
  let seg := e.2.1 / 512
  match ws.entryFor m seg e.1 with
  | none => none
  | some l =>
    let k := e.1 - l.placed.firstCh
    let w := l.widths.getD k 1
    let base := (l.widths.take k).sum
    let a := l.placed.array
    let q := bitsCode w (s.logicalRow a (e.2.1 % 512) / 2 ^ base % 2 ^ w)
    let step := stepVal ((ws.steps.getD m []).getD e.1 0)
    let d := clampTo 127 (nearCode ((bf16Val e.2.2).getD 0) step) - q
    if d = 0 then none
    else some { tile := a / 64, seg := (tileSegs ws (a / 64)).idxOf (m, seg, e.1 / 128), row := e.2.1 % 512, lane := e.1 % 128, delta := d }

/-- The differences of an image, by matrix with their output channel. -/
def State.inlayDiffs (s : State) (ws : Weights) (secs : List InlaySec) : List (Nat × Nat × Diff) :=
  secs.flatMap (fun x => x.2.filterMap (fun e => (s.inlayDiff ws x.1 e).map (fun d => (x.1, e.1, d))))

/-- The limits of R339 on an inlay's stored entries: by layer and by output channel. -/
def inlayLimits (ms : List MatrixEnt) (ds : List (Nat × Nat × Diff)) : Bool :=
  let layerOf (i : Nat) : Nat := ((ms[i]?).map (·.layer)).getD 0
  (ms.map (·.layer)).eraseDups.all (fun l =>
    decide (ds.countP (fun d => layerOf d.1 = l) ≤ ((ms.filter (fun m => m.layer = l)).map (fun m => m.inDim * m.outDim)).sum / 50)) &&
    (ds.map (fun d => (d.1, d.2.1))).eraseDups.all (fun c => decide (ds.countP (fun d => d.1 = c.1 ∧ d.2.1 = c.2) ≤ 32768))

/-- No segment holds more than 16 · MAXNZ of an INLAY stitch that names it (R86, R340). -/
def TableSet.inlayFits (ts : TableSet) (ds : List Diff) : Bool :=
  ts.progs.all (fun x => x.2.tab.all (fun st => match st.op with
    | .inlay _ seg _ _ maxnz => decide (ds.countP (fun d => d.tile = x.1 ∧ d.seg = seg) ≤ 16 * maxnz)
    | _ => true))

/-- The bytes that inlays take in the inlay region of cluster `c`: a directory entry for each inlay and segment, and each difference (R340). -/
def inlayBytes (c : Nat) (inlays : List (List Diff)) : Nat :=
  (inlays.map (fun ds =>
    let here := ds.filter (fun d => d.tile / 64 = c)
    8 * ((here.map (fun d => (d.tile, d.seg))).eraseDups).length + 4 * here.length)).sum

/-- INLAY_LOAD's effect. -/
def inlayLoadCmd (h : HostMem) : CmdEffect := fun src w s =>
  let p := pktPart w
  let id := bits (nthW w 2) 11 0
  let a := dword w 3
  let n := nthW w 5
  let q := s.part p
  if (find? id q.inlays).isSome ∨ ¬ addrOk a n ∨ ¬ addrOk (dword w 6) 64 then s.reply src w 0x04
  else
    let bs := s.readMem h a n
    let s := (s.asks a n).asks (dword w 6) 64
    if ¬ s.digestOk h (dword w 6) bs then s.reply src w 0x0D
    else
      let ms := (q.weights.map (·.matrices)).getD []
      let head := decide (16 ≤ n ∧ wordAt bs 0 < 2 ^ 16 ∧ wordAt bs 1 = 0 ∧ wordAt bs 2 = 0 ∧ wordAt bs 3 = 0 ∧ 16 * wordAt bs 0 ≤ n)
      match if head then readInlay ms (wordAt bs 0) (bs.drop 16) else none with
      | none => s.reply src w 0x04
      | some secs =>
        let ds := match q.weights with
          | some ws => s.inlayDiffs ws secs
          | none => []
        let diffs := ds.map (·.2.2)
        if ¬ decide ((secs.map (·.1)).Nodup) ∨ ¬ inlayLimits ms ds ∨ ¬ ((q.table.map (fun ts => ts.inlayFits diffs)).getD true) then
          s.reply src w 0x04
        else if (List.range 16).any (fun c => decide (2 ^ 23 < inlayBytes c (diffs :: s.parts.flatMap (fun x => x.2.inlays.map (·.2))))) then
          s.reply src w 0x02
        else (s.setPart p { q with inlays := put id diffs q.inlays }).reply src w 0x00 [id]

/-- INLAY_LOAD (R338–R340, R342). -/
def execInlayLoad (b : Nat) (h : HostMem) (s : State) : Result := command b 0x15 (inlayLoadCmd h) s

/-- INLAY_DROP (R298, R342): not while a request bound to the inlay is active. -/
def execInlayDrop (b : Nat) (s : State) : Result :=
  command b 0x16 (fun src w s =>
    let p := pktPart w
    let id := bits (nthW w 2) 11 0
    let q := s.part p
    let bound := s.ledger.any (fun x => x.2.part = p && x.2.st.active && (s.extn x.1).inlay = some id) ||
      (s.girth p).claims.any (fun c => (s.extn (handleIdx c.handle)).inlay = some id)
    if (find? id q.inlays).isNone then s.reply src w 0x04
    else if bound then s.reply src w 0x05
    else (s.setPart p { q with inlays := del id q.inlays }).reply src w 0x00 [id]) s

end Sys2Proof.Machine
end

