-- ==== Sys2Proof/Machine/Maintenance.lean ====
section
/-!
DEFINITION. Maintenance: the expert commands on arrays (R300, R327, R348, R353–R356, R391, R392), WEIGHTS_CLEAR (R427), and the rebuild
(R329, R330, R362, R398, R449).
-/

namespace Sys2Proof.Machine

open Sys2Proof

/-! ### CALIBRATE, PROOF_RUN, XCHECK_RUN (R300) -/

/-- The arrays that CALIBRATE, PROOF_RUN or XCHECK_RUN names: every array of PART's tiles with ALL, else ARRAY; none for an undefined
partition. -/
def State.namedArrays (s : State) (w : List Nat) : Option (List Nat) :=
  if ¬ pktAll w then some [bits (nthW w 2) 15 0]
  else if ¬ (s.part (pktPart w)).defined then none
  else some ((s.part (pktPart w)).tileList.flatMap (fun t => (List.range 64).map (arrayAddr t)))

/-- A whole calibration of array `a` (R392): the trims of its columns apply, and it completes. -/
def State.calWhole (s : State) (trims : List Trim) (a : Nat) : State :=
  let s := (trims.filter (fun t => t.array = a)).foldl (fun s t => s.applyTrim t) s
  let x := s.tile (a / 64)
  let mine : Bool := match x.calib with
    | some (b, _, _) => b = a
    | none => false
  (s.setTile (a / 64) { x with calib := if mine then none else x.calib }).calDone a (s.clusterTemp (a / 4096))

/-- The housekeeping sequence can take array `a` for an expert command (R93, R191, R300): its tile is between runs, and its cluster has
credit. -/
def State.hkTurn (s : State) (a : Nat) : Bool :=
  s.betweenRuns (a / 64) && decide (((s.accrue (a / 4096)).cluster (a / 4096)).credit > 0)

/-- A chunk for array `a` is paid from its cluster's credit (R191); how many chunks one array takes is time (log 65). -/
def State.payChunk (s : State) (a : Nat) : State :=
  let s := s.accrue (a / 4096)
  let x := s.cluster (a / 4096)
  s.setCluster (a / 4096) { x with credit := x.credit - (1000 * (s.hkOf (a / 4096)).2 : Nat) }

/-- The disputes open in the tile of array `a`. -/
def State.disputeCount (s : State) (a : Nat) : Nat := (s.tile (a / 64)).disputes.length

/-- Arrays are taken in order while the sequence has a turn for them: the next state, the arrays left, the arrays done and those on which
disputes were opened. -/
def State.takeArrays (run : State → Nat → State) : List Nat → State → Nat → Nat → State × List Nat × Nat × Nat
  | [], s, done, found => (s, [], done, found)
  | a :: as, s, done, found =>
    if ¬ s.hkTurn a then (s, a :: as, done, found)
    else
      let s' := run (s.payChunk a) a
      State.takeArrays run as s' (done + 1) (found + b2n (s.disputeCount a < s'.disputeCount a))

/-- The progress of a started command is kept with its packet (R285). -/
def markProgress (src : CmdSrc) (pkt : List Nat) (todo : List Nat) (done found : Nat) : List Fetched → List Fetched
  | [] => []
  | f :: fs => if f.src = src ∧ f.words = pkt then { f with todo := some todo, done, found } :: fs
    else f :: markProgress src pkt todo done found fs

/-- An expert command over arrays, in the housekeeping sequence ahead of every due activity (R300): it goes on while the sequence has a turn for
its next array, and replies after the last; `words` are the reply words for arrays done and disagreements. -/
def State.overArrays (s : State) (src : CmdSrc) (w : List Nat) (run : State → Nat → State) (as : List Nat)
    (words : Nat → Nat → List Nat) : State :=
  if ¬ s.awake then s
  else
    let f := s.host.fetched.find? (fun f => f.src = src && f.words = w)
    let r := State.takeArrays run ((f.bind (·.todo)).getD as) s ((f.map (·.done)).getD 0) ((f.map (·.found)).getD 0)
    if r.2.1.isEmpty then r.1.reply src w 0x00 (words r.2.2.1 r.2.2.2)
    else { r.1 with host := { r.1.host with fetched := markProgress src w r.2.1 r.2.2.1 r.2.2.2 r.1.host.fetched } }

/-- CALIBRATE (R300, R391, R392): `trims` are the results of its column steps. -/
def execCalibrate (b : Nat) (trims : List Trim) (s : State) : Result :=
  command b 0x82 (fun src w s =>
    match s.namedArrays w with
    | none => s.reply src w 0x04
    | some as => s.overArrays src w (fun s a => s.calWhole trims a) as (fun n _ => [n])) s

/-- An array that a proof may take: a main array in service of its pair, with known sums and trims, and not programming rows (R29, R326,
R398). -/
def State.checkable (s : State) (a : Nat) : Bool :=
  !isReserve a && !isTracing a && (s.arr a).sumsOk && s.calOk (s.servingArray a) && (s.arr (s.servingArray a)).prog.isNone

/-- PROOF_RUN and XCHECK_RUN: the arrays named, a reserve or tracing array being no array to check. -/
def checkCmd (run : State → Nat → State) (ok : State → Nat → Bool) : CmdEffect := fun src w s =>
  match s.namedArrays w with
  | none => s.reply src w 0x04
  | some as =>
    if ¬ pktAll w ∧ as.any (fun a => isReserve a || isTracing a) then s.reply src w 0x04
    else s.overArrays src w run (as.filter (ok s)) (fun n k => [n, k])

/-- One proof of array `a` outside a program (R353). -/
def State.proofOnce (err : Analog) (s : State) (a : Nat) : State :=
  s.proofArray (a / 64) (a % 64) (s.arr a).pb ((s.arr a).proofs % 4) (s.tile (a / 64)).runs err

/-- PROOF_RUN (R300, R353, R354). -/
def execProofRun (b : Nat) (err : Analog) (s : State) : Result :=
  command b 0x83 (checkCmd (State.proofOnce err) State.checkable) s

/-- One cross-check of array `a` with draws of its own (R355). -/
def State.xcheckOnce (err : Analog) (s : State) (a : Nat) : State :=
  let d := s.draw
  d.2.crossCheck a d.1 err

/-- XCHECK_RUN (R300, R355, R356). -/
def execXcheckRun (b : Nat) (err : Analog) (s : State) : Result :=
  command b 0x84 (checkCmd (State.xcheckOnce err) State.xcheckOk) s

/-! ### ARRAY_READBACK (R300, R327) -/

/-- The logical contents that the cells of array `a` hold. -/
def State.readArray (s : State) (a : Nat) : Tbl Nat :=
  allRows.filterMap (fun r => let v := s.readRow a r
    if v = 0 then none else some (r, v))

/-- The layout entry of array `a` among the weights that the device holds. -/
def State.layoutEntry (s : State) (a : Nat) : Option LayoutEnt :=
  (s.loaded.flatMap (fun x => x.2.entries)).find? (fun e => e.placed.array = a)

/-- The bits in which two rows of 256 columns differ. -/
def bitsDiffer (x y : Nat) : Nat := (List.range 256).countP (fun c => bit x c ≠ bit y c)

/-- ARRAY_READBACK (R300, R327): the 272 columns of each row go to DEST; the reply says whether the logical contents match their digest, and
in how many bits they differ from the stack copy. -/
def execArrayReadback (b : Nat) (s : State) : Result :=
  command b 0x86 (fun src w s =>
    let a := bits (nthW w 2) 15 0
    let dest := dword w 3
    if ¬ addrOk dest 17408 then s.reply src w 0x04
    else if ¬ s.awake then s
    else
      let cells := (s.arr (s.servingArray a)).rows
      let same : Bool := match s.layoutEntry a with
        | some e => decide (arrayDigest a (s.readArray a) = e.ad)
        | none => false
      let differ := (allRows.map (fun r => bitsDiffer (s.readRow a r) (s.logicalRow a r))).sum
      (s.writeMem dest (allRows.flatMap (fun r => leBytes 34 (getD 0 r cells)))).reply src w 0x00 [b2n same, differ]) s

/-! ### REPAIR_MAP_EDIT (R300, R348) -/

/-- The array whose contents an array's cells hold: of a reserve array, the array of its pair that is retired to it (R343). -/
def State.contentOf (s : State) (a : Nat) : Nat :=
  if isReserve a then ((s.repairMap.find? (fun x => x.1 / 128 = a / 128 && x.2.st = 1)).map (·.1)).getD a else a

/-- A partition with a matrix on one of some arrays holds an active request, or has a swap open (R285). -/
def State.arraysBusy (s : State) (p : Nat → Bool) : Bool :=
  s.loaded.any (fun x => x.2.entries.any (fun e => p e.placed.array) && (!(s.activeOf x.1).isEmpty || (s.part x.1).swap.isSome))

/-- OP 0: a patch takes a data column's bits. -/
def State.assignPatch (s : State) (a p c : Nat) (bad : Faulty) : State × Bool :=
  let r := s.repair a
  if s.mapFull a ∨ bit r.patchV p ∨ bit r.patchBad p then (s, false)
  else if (faultyOf bad a).contains (264 + p) then (s.patchOut a p, false)
  else (s.setPatch (s.contentOf a) a p c, true)

/-- OP 1: the data column that a patch carried is used again. -/
def State.releasePatch (s : State) (a p : Nat) : State :=
  let r := s.repair a
  s.setRepair a { r with patchV := r.patchV - b2n (bit r.patchV p) * 2 ^ p, patchBad := r.patchBad - b2n (bit r.patchBad p) * 2 ^ p
                         patchCol := del p r.patchCol, faults := r.faults - b2n (bit r.patchBad p) }

/-- OP 3: the array serves again, programmed from the stack copy. -/
def State.restoreArray (s : State) (a : Nat) (bad : Faulty) : State × Bool :=
  let r := s.repair a
  let dead := decide (r.st = 2)
  let s' := s.setRepair a { r with st := 0, faults := if dead then 0 else r.faults }
  let s' := if dead then s'.setArr a { s'.arr a with judged := [] } else s'
  let s' := s'.writeArray (s'.contentOf a) a bad
  match s'.coverAll (s'.contentOf a) a bad with
  | some s => (s, true)
  | none => (s'.setRepair a r, false)

/-- REPAIR_MAP_EDIT (R285, R300, R348). -/
def execRepairMapEdit (b : Nat) (bad : Faulty) (s : State) : Result :=
  command b 0x89 (fun src w s =>
    let a := bits (nthW w 2) 15 0
    let w3 := nthW w 3
    let p := bits w3 18 16
    if bits w3 28 24 ≠ a / 64 % 64 / 2 then s.reply src w 0x04
    else if s.arraysBusy (fun x => x = a || x = s.contentOf a) then s.reply src w 0x05
    else if ¬ s.awake then s
    else
      let r : State × Bool := match bits w3 1 0 with
        | 0 => s.assignPatch a p (bits w3 15 8) bad
        | 1 => (s.releasePatch a p, true)
        | 2 => s.tryRetire a bad
        | _ => s.restoreArray a bad
      r.1.reply src w (if r.2 then 0x00 else 0x02)) s

/-! ### WEIGHTS_CLEAR (R427) -/

/-- Every cell of the arrays of the named clusters is 0, and their stack copy and known sums are zero. -/
def State.eraseClusters (s : State) (mask : Nat) : State :=
  { s with
    arrays := s.arrays.map (fun x => if bit mask (x.1 / 4096) then (x.1, { x.2 with rows := [], sumsOk := false, prog := none }) else x)
    stackCopy := s.stackCopy.filter (fun x => !bit mask (x.1 / 4096)), sums := s.sums.filter (fun x => !bit mask (x.1 / 4096)) }

/-- A cell of an array stays at 1, and the array is dead; `cell` is its row · 272 + column (R427). -/
def State.residueCell (s : State) (a cell : Nat) : State :=
  let r := cell / 272 % 512
  let v := getD 0 r (s.arr a).rows
  let s := s.setRow a r (if bit v (cell % 272) then v else v + 2 ^ (cell % 272))
  if s.mapFull a then s else s.setRepair a { s.repair a with st := 2 }

/-- The cells of the named clusters that stay at 1, each once. -/
def residueIn (mask : Nat) (residue : List (Nat × Nat)) : List (Nat × Nat) :=
  (residue.filter (fun x => decide (x.1 < 65536 ∧ x.2 < 272 * 512) && bit mask (x.1 / 4096))).eraseDups

/-- WEIGHTS_CLEAR's effect. -/
def weightsClearCmd (residue : List (Nat × Nat)) (flashOk : Bool) : CmdEffect := fun src w s =>
  let mask := bits (nthW w 2) 15 0
  let inside (a : Nat) : Bool := bit mask (a / 4096)
  if nthW w 3 ≠ 65535 - mask then s.reply src w 0x04
  else if s.arraysBusy inside then s.reply src w 0x05
  else if ¬ s.awake then s
  else
    let losers := (s.loaded.filter (fun x => x.2.entries.any (fun e => inside e.placed.array))).map (·.1)
    let s := s.eraseClusters mask
    let s := losers.foldl (fun s p => (s.loseWeights p).startTiles p) s
    let left := residueIn mask residue
    let s := left.foldl (fun s x => s.residueCell x.1 x.2) s
    match s.writeRecord flashOk with
    | none => s.reply src w 0x0A
    | some s =>
      let s := (s.reply src w 0x00 [4096 * ((List.range 16).filter (bit mask)).length]).raise 0x030A 0 none 0 0 mask
      ((left.map (·.1)).eraseDups).foldl (fun s a => s.raise 0x030B 1 none 1 a (left.countP (fun x => x.1 = a))) s

/-- WEIGHTS_CLEAR (R300, R427): `residue` lists the cells that stay at 1 after four attempts. -/
def execWeightsClear (b : Nat) (residue : List (Nat × Nat)) (flashOk : Bool) (s : State) : Result :=
  command b 0x8A (weightsClearCmd residue flashOk) s

/-! ### REBUILD (R329, R330, R362, R398, R449) -/

/-- Start-up step 7 ends: every array has been calibrated with no stand-in (R398, R449). -/
def State.startCalibrated (s : State) : State :=
  if s.hk.startCal then s
  else
    let s := (List.range 16).foldl (fun s c => s.setCluster c { s.cluster c with startTcal := s.clusterTemp c, startTrig := false }) s
    { s with hk := { s.hk with startCal := true, startTick := s.tick, calDone := satAdd 32 s.hk.calDone 65536 } }

/-- The copy of the layout record that the record store names (R323). -/
def Store.record (t : Store) : LayoutCopy := if t.copyB then t.recB else t.recA

/-- Column `c` of an array's cells over all rows. -/
def cellColumn (rows : Tbl Nat) (c : Nat) : List Bool := allRows.map (fun r => bit (getD 0 r rows) c)

/-- The keepers of array `a` are found again: m is the first candidate that a keeper equals; one that equals none is rewritten to column k
(R362). -/
def State.findKeepers (s : State) (a : Nat) : State :=
  let sv := s.servingArray a
  let off := (s.repair sv).keepOff
  let logical := s.readArray a
  let s := (List.range 8).foldl (fun s k =>
    let x := s.arr sv
    let kp : Keeper := { since := s.tick }
    if bit off k then s.setArr sv { x with keepers := put k { kp with st := .off } x.keepers }
    else match (List.range 32).find? (fun m => cellColumn logical (k + 8 * m) = cellColumn x.rows (256 + k)) with
      | some m => s.setArr sv { x with keepers := put k { kp with m } x.keepers }
      | none => (s.setArr sv { x with keepers := put k kp x.keepers }).writeKeeper a sv k k allRows) s
  s.setArr sv { s.arr sv with uncov := [] }

/-- An array of the record is read back into the stack copy; its keepers are found and its known sums computed. `kept` says that the supervisor's
memory outlasted the loss. -/
def State.readBack (s : State) (kept : Bool) (a : Nat) : State :=
  let s : State := { s with stackCopy := put a (s.readArray a) s.stackCopy }
  let s := s.findKeepers a
  let x := s.arr a
  (s.setArr a { x with pb := if kept then x.pb else a % 64 }).formSums a []

/-- An array entry whose array's readback differs from its AD (R330). -/
def State.staleEntry (s : State) (e : LayoutEnt) : Bool := decide (arrayDigest e.placed.array (s.readArray e.placed.array) ≠ e.ad)

/-- The partitions of some record entries, as a mask. -/
def entryMask (es : List LayoutEnt) : Nat := ((List.range 16).map (fun p => if es.any (fun e => e.part = p) then 2 ^ p else 0)).sum

/-- The weights of partition `p` that the record describes, with what the tannery generates beside them. -/
def LayoutCopy.weightsOf (r : LayoutCopy) (p : Nat) (pl : Plan) : Option Weights :=
  match r.manifests.find? (fun x => x.1 = p) with
  | none => none
  | some x =>
    let es := r.entries.filter (fun e => e.part = p)
    (readManifest 0 false x.2).map (fun m =>
      { manifest := x.2, matrices := m.matrices, entries := es, steps := ((r.steps.find? (fun y => y.1 = p)).map (·.2)).getD []
        plan := { pl with placed := es.map (·.placed) } })

/-- The table set that a manifest and a plan give a partition, with its figures (R317, R324 step 3, R329). -/
def State.regenerate (s : State) (p : Nat) (ws : Weights) : Option TableSet :=
  match readManifest 0 false ws.manifest with
  | none => none
  | some m => match m.pval with
    | none => none
    | some v =>
      let ts := generatedSet v m ws.plan
      let members := (ts.groups.map (fun x => x.2.length)).sum
      match ts.check (s.part p).clusterList s.heldMap members (v.resCount ≠ 0xFFFF) with
      | none => none
      | some (main, draft) => some (s.withFigures p ts s.heldMap main draft)

/-- What the tannery generates for partition `p`: as it stands where a chip reset has kept it, else `plan`. -/
def State.planFor (s : State) (plan : List (Nat × Plan)) (p : Nat) : Plan :=
  match (s.part p).weights with
  | some w => w.plan
  | none => ((plan.find? (fun x => x.1 = p)).map (·.2)).getD { placed := [], progs := [], slots := [], rows := [], groups := [], logit := [], dlogit := [] }

/-- Steps 2–5 of R329 for one partition: weights, column maps and step tables, and a table set where it was lost. -/
def State.rebuildPart (s : State) (r : LayoutCopy) (plan : List (Nat × Plan)) (p : Nat) : State :=
  match r.weightsOf p (s.planFor plan p) with
  | none => s
  | some ws =>
    let s := (s.setPart p { s.part p with weights := some ws }).writeMaps p ws
    if (s.part p).table.isSome then s else s.setPart p { s.part p with table := s.regenerate p ws }

/-- STALE_ARRAY for each stale array, with the partitions that lose their weights (R330, R375). -/
def State.raiseStale (s : State) (es : List LayoutEnt) : State :=
  es.foldl (fun s e => (s.errSum 8).raise 0x0110 2 (some e.part) 1 e.placed.array (entryMask [e])) s

/-- The rebuild (R329, R330). -/
def State.rebuildAll (s : State) (recordOk kept : Bool) (plan : List (Nat × Plan)) : State :=
  let r := s.store.record
  let stale := if recordOk then r.entries.filter s.staleEntry else []
  let s := s.raiseStale stale
  let dead := r.entries.filter (fun e => (s.repair e.placed.array).st = 2)
  let lost (p : Nat) : Bool := !recordOk || stale.any (fun e => e.part = p) || dead.any (fun e => e.part = p)
  let good := r.entries.filter (fun e => !lost e.part)
  let s := good.foldl (fun s e => s.readBack kept e.placed.array) s
  let s := (List.range 16).foldl (fun s p =>
    if lost p then (if (s.part p).weights.isSome ∨ (r.manifests.any (fun x => x.1 = p)) then (s.endAll p 0 true 0x0A).loseWeights p else s)
    else s.rebuildPart r plan p) s
  let s := if r.manifests.any (fun x => lost x.1) then (s.writeRecord true).getD s else s
  let s := (List.range 16).foldl (fun s p => if (s.part p).defined then s.startTiles p else s) s
  s.setLoaded.errDone

/-- REBUILD (R329, R330, R398, R425, R449): the rebuild of start-up step 8, after step 7 where the trims were lost, or the one that follows the
end of a tenant. `drift` are cells that have flipped, `recordOk` says that the record matches its image digest, and `plan` is what the tannery
generates from the manifests. -/
def execRebuild (drift : List (Nat × Nat × Nat)) (recordOk : Bool) (plan : List (Nat × Plan)) (s : State) : Result :=
  .next (
    let scrub := decide (s.sec.scrub = .rebuilding)
    let start := decide ((s.pwr.phase = 2 ∨ s.pwr.phase = 3) ∧ ¬ s.pwr.rebuilt)
    if ¬ s.awake ∨ ¬ (scrub ∨ start) then s
    else
      let s := if start then s.startCalibrated else s
      let s := drift.foldl (fun s x => s.driftCells x.1 [(x.2.1 % 512, x.2.2 % 272)]) s
      let s := s.rebuildAll recordOk (decide (s.pwr.last = 4) && !scrub) plan
      let s := if start then { s with pwr := { s.pwr with phase := 3, rebuilt := true } } else s
      let s := if scrub then { s with sec := { s.sec with scrub := .none } } else s
      s.errDone)

end Sys2Proof.Machine
end

