-- ==== Sys2Proof/Machine/Security.lean ====
section
/-!
DEFINITION. Tenancy (R422–R426), trusted operation (R415, R416), attestation (R413, R414), firmware updates (R412), the management port
(R374, R403), the random generator (R420), the function-level reset (R307, R424), and commands taken from mailboxes (R304, R305).
-/

namespace Sys2Proof.Machine

open Sys2Proof

/-! ### Tenancy (R422, R423) -/

/-- TENANT_BEGIN's effect (R420, R422): new tenant keys. -/
def tenantBeginCmd : CmdEffect := fun src w s =>
  if s.sec.tenant.isSome then s.reply src w 0x04
  else if s.host.conf ∧ ¬ s.trustedPath src then s.reply src w 0x0B
  else if ¬ s.sec.trngOk then s.reply src w 0x0A
  else
    let id := dword w 2
    let s : State := { s with sec := { s.sec with tenant := some id, viaTrust := s.trustedPath src, tenKeys := some (s.sec.keyGen + 1)
                                                  keyGen := s.sec.keyGen + 1, wrapCnt := 0 } }
    (s.raise 0x0304 0 none 0 0 (id % 2 ^ 32)).reply src w 0x00

/-- TENANT_BEGIN (R422). -/
def execTenantBegin (b : Nat) (s : State) : Result := command b 0x30 tenantBeginCmd s

/-- Time 0 of R423 on one partition: its requests end, its swap closes as SWAP_END closes it (R337), and its girth stops; a member sends STOP
to the pommel. -/
def State.endOn (s : State) (p : Nat) (failed : Bool) (status : Nat) : State :=
  let s := if (s.girth p).round.isSome then s.failRound p 0xFF else s
  let s := if (s.girth p).record.isNone then s.endAll p 5 failed status
    else if s.isPommel p then s.stopGirth p 5 failed status
    else (s.stopMember p).reinUp p (.stop .tenantEnd)
  let s := s.replyStops p
  let s := s.releaseSwap p
  match (s.part p).swap with
  | some sw => (s.closeSwap p sw true).getD s
  | none => s

/-- A tenant ends (R171, R423, R424, R426): requests end, their entries go to FREE with the next generation, girths go to STOPPED and UNSET, the
keys are dropped and the scrub starts. `cmd` is the TENANT_END that waits for its reply. -/
def State.endTenant (s : State) (cause : Nat) (failed : Bool) (status : Nat) (cmd : Option (CmdSrc × List Nat)) : State :=
  let s := s.leaveRest
  let s := (List.range 16).foldl (fun s p => s.endOn p failed status) s
  { s with
    girths := []
    ledger := s.ledger.map (fun x => (x.1, if x.2.st = .free then x.2 else { gen := (x.2.gen + 1) % 4096 }))
    ext := s.ext.map (fun x => (x.1, if (s.entry x.1).st = .free then x.2 else {}))
    sec := { s.sec with
      scrubHad := s.sec.tenant.isSome || s.sec.scrubHad, scrubWhy := cause, scrub := .scrubbing
      scrubSrc := cmd.map (·.1), scrubPkt := (cmd.map (·.2)).getD []
      tenant := none, viaTrust := false, tenKeys := none, devKeys := none } }

/-- TENANT_END's effect (R289, R304, R423): the command of the active tenant's ID. Of a tenant that the trusted path admitted, a non-secure
mailbox may not end it, whatever the ID it names. -/
def tenantEndCmd : CmdEffect := fun src w s =>
  let open_ : Bool := match src with
    | .ring _ => true
    | .mbx m => decide (m < 2) || !s.sec.viaTrust
  if s.sec.tenant.isSome ∧ ¬ open_ then s.reply src w 0x0B
  else if s.sec.tenant ≠ some (dword w 2) then s.reply src w 0x0C
  else (s.startCmd src w).endTenant 0 false 0x09 (some (src, w))

/-- TENANT_END (R423). -/
def execTenantEnd (b : Nat) (s : State) : Result := command b 0x31 tenantEndCmd s

/-- SCRUB_COMPLETE (R423): every line of both stacks holds zeros, and the on-chip volatile domains are powered off. -/
def execScrubComplete (s : State) : Result :=
  .next (
    if s.sec.scrub ≠ .scrubbing ∨ ¬ s.awake then s
    else
      let s := { s.loseStacks with ext := [] }
      { s with sec := { s.sec with scrub := .filling } })

/-- What the fill leaves of a partition: its definition, weights, and figures that are no memory content (R423). -/
def Part.filled (q : Part) : Part :=
  { clusters := q.clusters, ttlMs := q.ttlMs, pools := q.pools, weights := q.weights, hkPerm := q.hkPerm, hkChunk := q.hkChunk, epoch := q.epoch
    restarts := q.restarts, logLost := q.logLost }

/-- What the fill leaves of a cluster: what its trims were made at, and its refreshes (R398, R423). -/
def Cluster.filled (x : Cluster) : Cluster :=
  { refTrim := x.refTrim, startTcal := x.startTcal, startTrig := x.startTrig, startTrigTick := x.startTrigTick, refreshed := x.refreshed
    creditTick := x.creditTick }

/-- The built-in fill writes zero to slices, tiles, engines and the saddler core's data memory (R423). -/
def State.filled (s : State) : State :=
  { s with
    ledger := [], tiles := [], fabric := [], mesh := [], kvWr := [], spill := [], kv := []
    parts := s.parts.map (fun x => (x.1, x.2.filled))
    clusters := s.clusters.map (fun x => (x.1, x.2.filled))
    host := { s.host with onDie := [] } }

/-- The end of a tenant is over: new device keys, the reply, TENANT_ENDED, and the rebuild starts (R423). -/
def State.scrubOver (s : State) : State :=
  let s := s.newDevKeys
  let s := match s.sec.scrubSrc with
    | some src => s.reply src s.sec.scrubPkt 0x00
    | none => s
  let s := if s.sec.scrubHad then s.raise 0x0305 0 none 0 0 s.sec.scrubWhy else s
  { s with sec := { s.sec with scrub := .rebuilding, scrubSrc := none, scrubPkt := [], scrubHad := false, scrubWhy := 0 } }

/-- FILL_COMPLETE (R420, R423): the fill ends. While the generator's tests fail there are no new keys: the command replies FAULT_ABORT, and the
rebuild waits. -/
def execFillComplete (s : State) : Result :=
  .next (
    if s.sec.scrub ≠ .filling ∨ ¬ s.awake then s
    else
      let s := s.filled
      if s.sec.trngOk then s.scrubOver
      else
        let s := match s.sec.scrubSrc with
          | some src => s.reply src s.sec.scrubPkt 0x0A
          | none => s
        { s with sec := { s.sec with scrubSrc := none, scrubPkt := [] } })

/-! ### Trusted operation (R415, R416) -/

/-- The tenant that the trusted path admitted ends with the TDI's RUN (R416). -/
def State.endTrusted (s : State) (cause : Nat) (failed : Bool) (status : Nat) : State :=
  if s.sec.tenant.isSome ∧ s.sec.viaTrust then s.endTenant cause failed status none else s

/-- STOP_INTERFACE (R416): the TDI returns to CONFIG_UNLOCKED; from RUN the trusted tenant ends, its requests CANCELLED. -/
def execStopInterface (s : State) : Result :=
  .next (
    let s' := { s with sec := { s.sec with tdi := .unlocked } }
    if s.sec.tdi = .run then s'.endTrusted 1 false 0x09 else s')

/-- TDISP_ERROR (R416): the TDI enters ERROR, TRUST_LOST is raised, and from RUN the trusted tenant ends, its requests FAULT_ABORT. -/
def execTdispError (cause : Nat) (s : State) : Result :=
  .next (
    if s.sec.tdi ≠ .run ∧ s.sec.tdi ≠ .locked then s
    else
      let s' := ({ s with sec := { s.sec with tdi := .error } }).raise 0x0306 2 none 0 0 cause
      if s.sec.tdi = .run then s'.endTrusted 2 true 0x0A else s')

/-- TDI_RUN (R415): TDISP takes the TDI into RUN, with a session established and both IDE streams keyed. -/
def execTdiRun (s : State) : Result :=
  .next (
    if ¬ s.sec.bootOk ∨ ¬ s.sec.spdm.session ∨ ¬ (s.sec.ideKeys.contains 0 ∧ s.sec.ideKeys.contains 1) ∨ s.sec.tdi = .error then s
    else { s with sec := { s.sec with tdi := .run } })

/-! ### SPDM (R413, R414) -/

/-- The SPDM response codes of the requests supported (log 54). -/
def spdmError : Nat := 0x7F

/-- A response leaves over DOE. -/
def State.doe (s : State) (code : Nat) (data : List Byte) : State := s.emit (.doe code data)

/-- A request that firmware answers (R409, R413): with `ok` by `f`, else with an error. -/
def State.spdmAnswer (s : State) (ok : Bool) (f : State → State) : Result :=
  .next (if ¬ s.sec.bootOk then s else if ok then f s else s.doe spdmError [])

/-- GET_VERSION (R413): the connection starts afresh, without a session. -/
def execGetVersion (s : State) : Result :=
  s.spdmAnswer true (fun s => { s with sec := { s.sec with spdm := { version := true } } }.doe 0x04 [0x13])

/-- GET_CAPABILITIES (R413). -/
def execGetCapabilities (s : State) : Result :=
  s.spdmAnswer s.sec.spdm.version (fun s => { s with sec := { s.sec with spdm := { s.sec.spdm with caps := true } } }.doe 0x61 [])

/-- The algorithms supported, by number: P-521 signatures, SHA-512, secp521r1, AES-256-GCM, the SPDM key schedule (R413). -/
def spdmAlgs : List Nat := [0, 1, 2, 3, 4]

/-- NEGOTIATE_ALGORITHMS (R413): the one set that the device supports must be offered. -/
def execNegotiateAlgorithms (algs : List Nat) (s : State) : Result :=
  s.spdmAnswer (s.sec.spdm.caps && spdmAlgs.all algs.contains)
    (fun s => { s with sec := { s.sec with spdm := { s.sec.spdm with algs := true } } }.doe 0x63 [])

/-- GET_DIGESTS (R413): of slot 0 only; an error where the certificate does not name the identity key. -/
def execGetDigests (slot : Nat) (s : State) : Result :=
  s.spdmAnswer (s.sec.spdm.algs && s.sec.certOk && slot = 0) (fun s => s.doe 0x01 (sha512 Config.certChain))

/-- GET_CERTIFICATE (R413): a part of the slot 0 chain. -/
def execGetCertificate (slot offset length : Nat) (s : State) : Result :=
  s.spdmAnswer (s.sec.spdm.algs && s.sec.certOk && slot = 0) (fun s => s.doe 0x02 ((Config.certChain.drop offset).take length))

/-- CHALLENGE (R404, R413): a response signed with the identity key. -/
def execChallenge (nonce : Nat) (s : State) : Result :=
  s.spdmAnswer (s.sec.spdm.algs && s.sec.certOk) (fun s =>
    let body := sha512 Config.certChain ++ leBytes 32 nonce
    s.doe 0x03 (body ++ Config.signature body))

/-- A section of a canonical image: header, and body padded with zeros (R310, R414). -/
def imageSection (type cluster tile count extra : Nat) (body : List Byte) : List Byte :=
  wordBytes [type + cluster * 2 ^ 8 + tile * 2 ^ 12, count, body.length, extra] ++ body ++ List.replicate ((16 - body.length % 16) % 16) 0

/-- A GROUP body (R122, R474): 1,024 directory words, then the members in group order. -/
def groupBody (gs : Tbl (List Member)) : List Byte :=
  let first (g : Nat) : Nat := ((gs.filter (fun x => x.1 < g)).map (fun x => x.2.length)).sum
  wordBytes ((List.range 1024).map (fun g => match find? g gs with
    | some ms => first g + ms.length * 2 ^ 12
    | none => 0)) ++ (gs.flatMap (·.2)).flatMap (fun m => leBytes 4 (encodeMember m))

/-- The PVAL entry in force: every default resolved (R312, R414). -/
def TableSet.pval (ts : TableSet) : PVal :=
  { beatSlots := ts.beatSlots, gate := ts.gate, dmax := ts.dmax, fbLevel := ts.fbLevel, stallLimit := ts.stallLimit, resPos := ts.resPos
    resCount := ts.resCount, vocab := ts.vocab, head := ts.head, dhead := ts.dhead }

/-- The sections of a table set's canonical image, in order (R414). -/
def TableSet.sections (ts : TableSet) : List (List Byte) :=
  let one (type count : Nat) (body : List Byte) : List (List Byte) := if count = 0 then [] else [imageSection type 0 0 count 0 body]
  [imageSection 1 0 0 1 0 (leBytes 32 (encodePVal ts.pval))] ++
    one 4 ((ts.groups.map (fun x => x.2.length)).sum) (groupBody ts.groups) ++
    (ts.burn.filter (fun x => !x.2.isEmpty)).map (fun x => imageSection 5 x.1 0 x.2.length 0 (x.2.flatMap (fun d => leBytes 16 (encodeBurn d)))) ++
    (ts.attn.filter (fun x => !x.2.isEmpty)).map (fun x => imageSection 6 x.1 0 x.2.length 0 (x.2.flatMap (fun d => leBytes 16 (encodeAttn d)))) ++
    one 7 ts.ingress.length (ts.ingress.flatMap (fun e => leBytes 8 (encodeIngress e))) ++
    one 8 ts.actTbl.length (ts.actTbl.flatMap (fun x => wordBytes (x.2.flatMap (fun y => [y.1, y.2])))) ++
    one 9 ts.logit.length (ts.logit.flatMap (fun e => leBytes 16 (encodeLogit e))) ++
    one 0x0A ts.dlogit.length (ts.dlogit.flatMap (fun e => leBytes 16 (encodeLogit e))) ++
    ts.progs.map (fun x => imageSection 0x0B (x.1 / 64) (x.1 % 64) 3968 (x.2.entry + x.2.dentry * 2 ^ 12)
      ((x.2.tab.flatMap (fun st => leBytes 16 (encodeStitch st))) ++ List.replicate (16 * (3968 - x.2.tab.length)) 0))

/-- A table set's digest (R414): SHA-512 over its canonical TABLE_LOAD image. -/
def TableSet.digest (ts : TableSet) : List Byte :=
  let secs := ts.sections
  sha512 (wordBytes ([1 + 2 ^ 8 * 2, secs.length] ++ List.replicate 14 0) ++ secs.flatten)

/-- MODE[3:0] and the TDISP state (R414). -/
def State.modeWord (s : State) : Nat :=
  b2n s.host.conf + 2 * b2n s.sec.tenant.isSome + 4 * b2n s.trusted + 8 * b2n s.host.loaded +
    2 ^ 8 * (match s.sec.tdi with
      | .unlocked => 0 | .locked => 1 | .run => 2 | .error => 3)

/-- The value of a measurement block (R414): none for an index that does not exist. -/
def State.measurement (s : State) (index : Nat) : Option (List Byte) :=
  let slot := if s.sec.runB then s.store.slotB else s.store.slotA
  match index with
  | 1 => some Config.bootRomDigest
  | 2 => some slot.digest
  | 3 => some (leBytes 4 s.host.fwVer ++ leBytes 4 s.sec.svnRun)
  | 4 => some (Config.configDigest s.host.conf s.store.cfgLock s.sec.jtag s.store.cfgUnlock s.store.cfgTarget)
  | 5 => some (leBytes 4 s.store.svnMin)
  | 6 => some (leBytes 4 s.modeWord)
  | 7 => some s.store.image
  | 8 => some (sha512 ((List.range 16).flatMap (fun p => match (s.part p).table with
      | some ts => ts.digest
      | none => List.replicate 64 0)))
  | _ => none

/-- A measurement block in the DMTF format: index, specification 1, size, value type, value size, value (R414; log 54). -/
def measureBlock (index : Nat) (v : List Byte) : List Byte :=
  let type := [0x00, 0x01, 0x86, 0x03, 0x87, 0x85, 0x03, 0x03].getD (index - 1) 0
  leBytes 1 index ++ leBytes 1 1 ++ leBytes 2 (v.length + 3) ++ leBytes 1 type ++ leBytes 2 v.length ++ v

/-- GET_MEASUREMENTS (R414): index 0 the number of blocks, 0xFF every block, else one block; signed on request (R404). -/
def execGetMeasurements (index : Nat) (signed : Bool) (s : State) : Result :=
  let blocks (l : List Nat) : List Byte := l.flatMap (fun i => measureBlock i ((s.measurement i).getD []))
  s.spdmAnswer (s.sec.spdm.algs && (index ≤ 8 || index = 0xFF)) (fun s =>
    let body := if index = 0 then [8] else if index = 0xFF then blocks (List.range' 1 8) else blocks [index]
    s.doe 0x60 (if signed then body ++ Config.signature body else body))

/-- KEY_EXCHANGE (R413, R420): a session's handshake opens, one session at a time; new keys need a generator that passes its tests. -/
def execKeyExchange (exchange : Nat) (s : State) : Result :=
  s.spdmAnswer (s.sec.spdm.algs && s.sec.certOk && !s.sec.spdm.session && s.sec.trngOk) (fun s =>
    let body := leBytes 132 exchange
    { s with sec := { s.sec with spdm := { s.sec.spdm with exchanged := true } } }.doe 0x64 (body ++ Config.signature body))

/-- FINISH (R413): the handshake ends with a session where the requester's MAC verifies. -/
def execFinish (verifyOk : Bool) (s : State) : Result :=
  if ¬ s.sec.spdm.exchanged then s.spdmAnswer false id
  else .next (
    if ¬ s.sec.bootOk then s
    else
      let s := { s with sec := { s.sec with spdm := { s.sec.spdm with exchanged := false, session := verifyOk, keyGen := 0 } } }
      s.doe (if verifyOk then 0x65 else spdmError) [])

/-- KEY_UPDATE (R413): the session's keys of one direction, or of both, are replaced. -/
def execKeyUpdate (both : Bool) (s : State) : Result :=
  s.spdmAnswer s.sec.spdm.session (fun s =>
    { s with sec := { s.sec with spdm := { s.sec.spdm with keyGen := s.sec.spdm.keyGen + (if both then 2 else 1) } } }.doe 0x69 [])

/-- HEARTBEAT (R413). -/
def execHeartbeat (s : State) : Result := s.spdmAnswer s.sec.spdm.session (fun s => s.doe 0x68 [])

/-- END_SESSION (R413). -/
def execEndSession (s : State) : Result :=
  s.spdmAnswer s.sec.spdm.session (fun s =>
    { s with sec := { s.sec with spdm := { s.sec.spdm with session := false, keyGen := 0 } } }.doe 0x6C [])

/-- IDE_KM (R415, R420): the keys of stream 0 (CXL.io) or 1 (CXL.cachemem) are programmed inside the session. -/
def execIdeKm (stream : Nat) (s : State) : Result :=
  s.spdmAnswer (s.sec.spdm.session && stream < 2) (fun s =>
    { s with sec := { s.sec with ideKeys := if s.sec.ideKeys.contains stream then s.sec.ideKeys else s.sec.ideKeys ++ [stream] } }.doe 0x00 [])

/-! ### The management port (R374, R403, R412) -/

/-- FIRMWARE_UPDATE (R408, R412): the image goes into the slot that does not run; a valid one becomes the preferred slot. -/
def execFirmwareUpdate (img : FwImage) (s : State) : Result :=
  .next (
    if ¬ s.sec.bootOk ∨ s.pwr.st = .off ∨ s.pwr.st = .dormant then s
    else
      let b := !s.sec.runB
      let slot : FwSlot := { version := img.version, svn := img.svn, digest := img.digest }
      let st := if b then { s.store with slotB := slot } else { s.store with slotA := slot }
      { s with store := if img.sigOk ∧ img.fmtOk ∧ s.store.svnMin ≤ img.svn then { st with prefB := b } else st })

/-- Firmware answers on the management port (R409, R469). -/
def State.mctpOn (s : State) : Bool := s.sec.bootOk && s.pwr.st ≠ .off

/-- GET_EVENT_RECORDS (R374): the signatures of the Failure log. -/
def execGetEventRecords (s : State) : Result := .next (if s.mctpOn then s.emit (.mctp 1 s.ev.sigs.flatten) else s)

/-- CLEAR_EVENT_RECORDS (R374). -/
def execClearEventRecords (s : State) : Result :=
  .next (if s.mctpOn then { s with ev := { s.ev with sigs := [], cperNext := 0 } } else s)

/-- The Korinrek GUID of a CPER section, as the bytes of its string form's fields (R374). -/
def cperGuid : List Byte :=
  [0x16, 0x0C, 0x8F, 0x3B, 0x72, 0x4A, 0x1D, 0x4E, 0x9C, 0x05, 0x6B, 0x2E, 0x91, 0xD7, 0xA4, 0x10]

/-- CPER_READ (R374): up to `count` records not yet returned, oldest first, each as its section's type and body. -/
def execCperRead (count : Nat) (s : State) : Result :=
  .next (
    if ¬ s.mctpOn then s
    else
      let rs := (s.ev.sigs.drop s.ev.cperNext).take count
      ({ s with ev := { s.ev with cperNext := s.ev.cperNext + rs.length } }).emit (.mctp 2 (rs.flatMap (fun g => cperGuid ++ g))))

/-- MCTP_STATUS (R403, R409): 1 IDENTITY_FAIL, 2 BOOT_FAIL, 0 neither. -/
def execMctpStatus (s : State) : Result :=
  .next (if s.pwr.st = .off then s else s.emit (.mctp 0 [if s.sec.idFail then 1 else if s.sec.bootFail then 2 else 0]))

/-! ### The random generator (R420) -/

/-- TRNG_FAIL (R420). -/
def execTrngFail (test : Nat) (s : State) : Result :=
  .next (if s.pwr.st = .off then s else ({ s with sec := { s.sec with trngOk := false } }).raise 0x0308 2 none 0 0 test)

/-- TRNG_HEALTH_PASS (R420). -/
def execTrngHealthPass (s : State) : Result := .next { s with sec := { s.sec with trngOk := true } }

/-! ### Function-level reset (R307, R416, R424, R447) -/

/-- The host interface after a function-level reset (R307): every register at its Reset value but those that firmware has set or that are kept,
and the link's mode. -/
def HostIf.flr (h : HostIf) : HostIf :=
  { devId := h.devId, step := h.step, fwVer := h.fwVer, conf := h.conf, loaded := h.loaded, linkW := h.linkW, linkGts := h.linkGts, boot := h.boot }

/-- FUNCTION_LEVEL_RESET (R307, R416, R424, R447, R448): it prevails over a chip reset and a partition restart
that are due; the tenant ends, a TDI in RUN goes to ERROR with TRUST_LOST, the host interface is reset, and
the scrub of R423 runs. The TDISP cause that TRUST_LOST carries is open (log 3). -/
def execFunctionLevelReset (s : State) : Result :=
  .next (
    if ¬ s.barOn ∨ ¬ s.sec.bootOk ∨ s.ev.halted then s
    else
      let s : State := { s with ev := { s.ev with resetDue := none }
                                parts := s.parts.map (fun x => (x.1, { x.2 with restarting := none })) }
      let s := if s.sec.tdi = .run then
          let (n, s) := s.draw
          ({ s with sec := { s.sec with tdi := .error } }).raise 0x0306 2 none 0 0 (n % 2 ^ 64)
        else s
      let s := s.endTenant 3 false 0x09 none
      { s with host := s.host.flr, pwr := { s.pwr with last := 3, capWait := [] } })

/-! ### Commands taken from mailboxes (R304, R305) -/

/-- The firmware takes messages (R304, R449): it runs, and the device is neither off, in DORMANT nor held in reset. -/
def State.mbxRuns (s : State) : Bool :=
  s.sec.bootOk && s.barOn && s.pwr.st ≠ .rest && s.pwr.tclkOk && s.ev.resetDue.isNone && !s.ev.halted && !s.pwr.trip

/-- A command taken from mailbox `m` is carried out (R304, R305, R418). -/
def State.mbxCommand (s : State) (m : Nat) (w : List Nat) : State :=
  let src := CmdSrc.mbx m
  if ¬ opListed (pktOp w) then s.reply src w 0x0E
  else if ¬ packetOk src w then s.reply src w 0x04
  else match pktOp w with
    | 0x02 => cancelCmd src w s
    | 0x05 => if s.trusted ∧ 2 ≤ m ∧ dword w 3 ≠ 0 then s.reply src w 0x0B else queryCmd src w s
    | 0x23 => girthStopCmd src w s
    | 0x31 => tenantEndCmd src w s
    | 0x40 => eventReadCmd src w s
    | 0x41 => statusReadCmd src w s
    | _ => { s with host := { s.host with fetched := s.host.fetched ++ [{ src, words := w, running := false, lost := false }] } }

/-- MBX_COMMAND_TAKE (R302, R304, R305): the firmware takes the held message while its mirror is empty. A TENANT_BEGIN waits its turn among the
long commands of the management ring. -/
def execMbxCommandTake (m : Nat) (_h : HostMem) (s : State) : Result :=
  guardUnit (m < 4) (
    match (s.mbx m).held with
    | none => s
    | some w =>
      if ¬ s.mbxRuns ∨ (s.mbx (m + 4)).held.isSome then s
      else (s.setMbx m { s.mbx m with held := none }).mbxCommand m w)

end Sys2Proof.Machine
end

