-- ==== Sys2Proof/Machine/Dispatch.lean ====
section
/-!
DEFINITION. The dispatch: one arm per command, one direct call of its meaning.
-/

namespace Sys2Proof.Machine

open Sys2Proof

def exec (i : Instr) (s : State) : Host.Outcome State Fault Refusal :=
  match i with
  | .submit b h => Sys2Proof.Machine.execSubmit b h s
  | .cancel b => Sys2Proof.Machine.execCancel b s
  | .pause b => Sys2Proof.Machine.execPause b s
  | .resume b => Sys2Proof.Machine.execResume b s
  | .query b => Sys2Proof.Machine.execQuery b s
  | .drop b => Sys2Proof.Machine.execDrop b s
  | .loadShard b h => Sys2Proof.Machine.execLoadShard b h s
  | .loadCommit b h plan bad flashOk => Sys2Proof.Machine.execLoadCommit b h plan bad flashOk s
  | .swapBegin b h us => Sys2Proof.Machine.execSwapBegin b h us s
  | .swapLayer b bad => Sys2Proof.Machine.execSwapLayer b bad s
  | .swapEnd b flashOk => Sys2Proof.Machine.execSwapEnd b flashOk s
  | .inlayLoad b h => Sys2Proof.Machine.execInlayLoad b h s
  | .inlayDrop b => Sys2Proof.Machine.execInlayDrop b s
  | .partitionSet b h => Sys2Proof.Machine.execPartitionSet b h s
  | .girthSet b h => Sys2Proof.Machine.execGirthSet b h s
  | .girthStart b => Sys2Proof.Machine.execGirthStart b s
  | .girthStop b => Sys2Proof.Machine.execGirthStop b s
  | .tenantBegin b => Sys2Proof.Machine.execTenantBegin b s
  | .tenantEnd b => Sys2Proof.Machine.execTenantEnd b s
  | .eventRead b => Sys2Proof.Machine.execEventRead b s
  | .statusRead b => Sys2Proof.Machine.execStatusRead b s
  | .tableLoad b h => Sys2Proof.Machine.execTableLoad b h s
  | .promiseModelSet b => Sys2Proof.Machine.execPromiseModelSet b s
  | .calibrate b trims => Sys2Proof.Machine.execCalibrate b trims s
  | .proofRun b err => Sys2Proof.Machine.execProofRun b err s
  | .xcheckRun b err => Sys2Proof.Machine.execXcheckRun b err s
  | .housekeepSet b => Sys2Proof.Machine.execHousekeepSet b s
  | .arrayReadback b => Sys2Proof.Machine.execArrayReadback b s
  | .logitBiasSet b h => Sys2Proof.Machine.execLogitBiasSet b h s
  | .powerCapSet b => Sys2Proof.Machine.execPowerCapSet b s
  | .repairMapEdit b bad => Sys2Proof.Machine.execRepairMapEdit b bad s
  | .weightsClear b residue flashOk => Sys2Proof.Machine.execWeightsClear b residue flashOk s
  | .unsupportedOpcode b => Sys2Proof.Machine.execUnsupportedOpcode b s
  | .commandFetch b h err => Sys2Proof.Machine.execCommandFetch b h err s
  | .cqWrite b => Sys2Proof.Machine.execCqWrite b s
  | .tokenRecordPost p => Sys2Proof.Machine.execTokenRecordPost p s
  | .msixRaise v => Sys2Proof.Machine.execMsixRaise v s
  | .sqDb b value trusted => Sys2Proof.Machine.execSqDb b value trusted s
  | .cqDb b value trusted => Sys2Proof.Machine.execCqDb b value trusted s
  | .tqDb b value trusted => Sys2Proof.Machine.execTqDb b value trusted s
  | .ringEnable b trusted => Sys2Proof.Machine.execRingEnable b trusted s
  | .ringDisable b trusted => Sys2Proof.Machine.execRingDisable b trusted s
  | .registerWrite offset size value trusted => Sys2Proof.Machine.execRegisterWrite offset size value trusted s
  | .rcRead offset trusted => Sys2Proof.Machine.execRcRead offset trusted s
  | .accessErr offset size write trusted => Sys2Proof.Machine.execAccessErr offset size write trusted s
  | .mbxSend m trusted => Sys2Proof.Machine.execMbxSend m trusted s
  | .mbxWithdraw m trusted => Sys2Proof.Machine.execMbxWithdraw m trusted s
  | .mbxTake m trusted => Sys2Proof.Machine.execMbxTake m trusted s
  | .mbxCommandTake m h => Sys2Proof.Machine.execMbxCommandTake m h s
  | .mbxTimeout m => Sys2Proof.Machine.execMbxTimeout m s
  | .onDieMbxWrite c toSaddler words => Sys2Proof.Machine.execOnDieMbxWrite c toSaddler words s
  | .lwRetrain p trusted => Sys2Proof.Machine.execLwRetrain p trusted s
  | .lwEnable p on trusted => Sys2Proof.Machine.execLwEnable p on trusted s
  | .dormantRequest trusted => Sys2Proof.Machine.execDormantRequest trusted s
  | .periodWrite value trusted => Sys2Proof.Machine.execPeriodWrite value trusted s
  | .injectKeep array column trusted => Sys2Proof.Machine.execInjectKeep array column trusted s
  | .injectProof array column trusted => Sys2Proof.Machine.execInjectProof array column trusted s
  | .injectCe array column trusted => Sys2Proof.Machine.execInjectCe array column trusted s
  | .nop t => Sys2Proof.Machine.execNop t s
  | .pass t => Sys2Proof.Machine.execPass t s
  | .passCodesReady t tracing err => Sys2Proof.Machine.execPassCodesReady t tracing err s
  | .alt t => Sys2Proof.Machine.execAlt t s
  | .tally t => Sys2Proof.Machine.execTally t s
  | .skive t => Sys2Proof.Machine.execSkive t s
  | .send t => Sys2Proof.Machine.execSend t s
  | .recv t => Sys2Proof.Machine.execRecv t s
  | .wait t => Sys2Proof.Machine.execWait t s
  | .proof t err => Sys2Proof.Machine.execProof t err s
  | .kcmp t => Sys2Proof.Machine.execKcmp t s
  | .inlay t => Sys2Proof.Machine.execInlay t s
  | .inlayEngineCommit c => Sys2Proof.Machine.execInlayEngineCommit c s
  | .beatEnd t => Sys2Proof.Machine.execBeatEnd t s
  | .fabricFlitArrive n ue => Sys2Proof.Machine.execFabricFlitArrive n ue s
  | .fabStall t => Sys2Proof.Machine.execFabStall t s
  | .sliceRefresh c bank => Sys2Proof.Machine.execSliceRefresh c bank s
  | .add c => Sys2Proof.Machine.execAdd c s
  | .rmsnorm c => Sys2Proof.Machine.execRmsnorm c s
  | .lnorm c => Sys2Proof.Machine.execLnorm c s
  | .act c => Sys2Proof.Machine.execAct c s
  | .gate c => Sys2Proof.Machine.execGate c s
  | .rope c => Sys2Proof.Machine.execRope c s
  | .scale c => Sys2Proof.Machine.execScale c s
  | .route c => Sys2Proof.Machine.execRoute c s
  | .store c => Sys2Proof.Machine.execStore c s
  | .attn c => Sys2Proof.Machine.execAttn c s
  | .stload c => Sys2Proof.Machine.execStload c s
  | .ststore c => Sys2Proof.Machine.execStstore c s
  | .dispatch c => Sys2Proof.Machine.execDispatch c s
  | .combine c => Sys2Proof.Machine.execCombine c s
  | .beatIssue p emb => Sys2Proof.Machine.execBeatIssue p emb s
  | .beatStart p => Sys2Proof.Machine.execBeatStart p s
  | .beatOut p slot => Sys2Proof.Machine.execBeatOut p slot s
  | .ingressMessage port girth dbuf epoch hdr body => Sys2Proof.Machine.execIngressMessage port girth dbuf epoch hdr body s
  | .readyMark port girth epoch => Sys2Proof.Machine.execReadyMark port girth epoch s
  | .draftRecord port girth epoch dr => Sys2Proof.Machine.execDraftRecord port girth epoch dr s
  | .awlGather c p => Sys2Proof.Machine.execAwlGather c p s
  | .awlSelect p => Sys2Proof.Machine.execAwlSelect p s
  | .verdict p epoch v => Sys2Proof.Machine.execVerdict p epoch v s
  | .draftRound p handle vec => Sys2Proof.Machine.execDraftRound p handle vec s
  | .commit p handle newL epoch toks => Sys2Proof.Machine.execCommit p handle newL epoch toks s
  | .claim p m => Sys2Proof.Machine.execClaim p m s
  | .claimReturn p handle => Sys2Proof.Machine.execClaimReturn p handle s
  | .refuse p handle => Sys2Proof.Machine.execRefuse p handle s
  | .release p handle undo => Sys2Proof.Machine.execRelease p handle undo s
  | .stop p up k => Sys2Proof.Machine.execStop p up k s
  | .restart p gpos epoch chipReset => Sys2Proof.Machine.execRestart p gpos epoch chipReset s
  | .peerDown p gpos => Sys2Proof.Machine.execPeerDown p gpos s
  | .linkUp p gpos => Sys2Proof.Machine.execLinkUp p gpos s
  | .flush p => Sys2Proof.Machine.execFlush p s
  | .check p reports commits ended => Sys2Proof.Machine.execCheck p reports commits ended s
  | .releaseHalt p epoch => Sys2Proof.Machine.execReleaseHalt p epoch s
  | .grant p port dbuf epoch => Sys2Proof.Machine.execGrant p port dbuf epoch s
  | .peerMbx gpos dst p m => Sys2Proof.Machine.execPeerMbx gpos dst p m s
  | .mbxNak p m => Sys2Proof.Machine.execMbxNak p m s
  | .thermalStop p gpos drain => Sys2Proof.Machine.execThermalStop p gpos drain s
  | .thermalDrainTimeout p => Sys2Proof.Machine.execThermalDrainTimeout p s
  | .girthGo p tGap => Sys2Proof.Machine.execGirthGo p tGap s
  | .startRoundTimeout p => Sys2Proof.Machine.execStartRoundTimeout p s
  | .beatReturnTimeout p => Sys2Proof.Machine.execBeatReturnTimeout p s
  | .halterTimeout p => Sys2Proof.Machine.execHalterTimeout p s
  | .holdDeadline p handle => Sys2Proof.Machine.execHoldDeadline p handle s
  | .ttlExpiry p handle => Sys2Proof.Machine.execTtlExpiry p handle s
  | .pauseMigrate p handle writeFails => Sys2Proof.Machine.execPauseMigrate p handle writeFails s
  | .saddlebagWriteDone p handle failed => Sys2Proof.Machine.execSaddlebagWriteDone p handle failed s
  | .resumeRead p handle blocks => Sys2Proof.Machine.execResumeRead p handle blocks s
  | .readmit p handle => Sys2Proof.Machine.execReadmit p handle s
  | .lwTrainingDone p result peerKeyId => Sys2Proof.Machine.execLwTrainingDone p result peerKeyId s
  | .linkKeyUpdate p tx => Sys2Proof.Machine.execLinkKeyUpdate p tx s
  | .helloSend p => Sys2Proof.Machine.execHelloSend p s
  | .helloReceive p hello rtt => Sys2Proof.Machine.execHelloReceive p hello rtt s
  | .flitReceive p f => Sys2Proof.Machine.execFlitReceive p f s
  | .nakReceive p ack => Sys2Proof.Machine.execNakReceive p ack s
  | .lossOfSignal p lane => Sys2Proof.Machine.execLossOfSignal p lane s
  | .ackTimeout p => Sys2Proof.Machine.execAckTimeout p s
  | .linkDown p => Sys2Proof.Machine.execLinkDown p s
  | .disputeRepetition t err => Sys2Proof.Machine.execDisputeRepetition t err s
  | .settlement t => Sys2Proof.Machine.execSettlement t s
  | .partitionRestart p f bad => Sys2Proof.Machine.execPartitionRestart p f bad s
  | .patchDone array column bad => Sys2Proof.Machine.execPatchDone array column bad s
  | .keeperRotation array k => Sys2Proof.Machine.execKeeperRotation array k s
  | .crossCheck array seed err => Sys2Proof.Machine.execCrossCheck array seed err s
  | .periodicReadback array drift bad => Sys2Proof.Machine.execPeriodicReadback array drift bad s
  | .rowProgramAttempt a => Sys2Proof.Machine.execRowProgramAttempt a s
  | .memUe site loc => Sys2Proof.Machine.execMemUe site loc s
  | .memCe loc syndrome => Sys2Proof.Machine.execMemCe loc syndrome s
  | .chipReset cause loc found => Sys2Proof.Machine.execChipReset cause loc found s
  | .watchdog found => Sys2Proof.Machine.execWatchdog found s
  | .hkChunkStart c => Sys2Proof.Machine.execHkChunkStart c s
  | .hkOverdue array activity => Sys2Proof.Machine.execHkOverdue array activity s
  | .hkRound r => Sys2Proof.Machine.execHkRound r s
  | .calStep trim => Sys2Proof.Machine.execCalStep trim s
  | .thermtrip => Sys2Proof.Machine.execThermtrip s
  | .aclkChange mhz => Sys2Proof.Machine.execAclkChange mhz s
  | .brakeOn => Sys2Proof.Machine.execBrakeOn s
  | .brakeToggle => Sys2Proof.Machine.execBrakeToggle s
  | .brakeOff => Sys2Proof.Machine.execBrakeOff s
  | .brakeBeyond => Sys2Proof.Machine.execBrakeBeyond s
  | .brakeHeld => Sys2Proof.Machine.execBrakeHeld s
  | .refclkLost k => Sys2Proof.Machine.execRefclkLost k s
  | .tclkRecovered found => Sys2Proof.Machine.execTclkRecovered found s
  | .railBrownout => Sys2Proof.Machine.execRailBrownout s
  | .restEntry => Sys2Proof.Machine.execRestEntry s
  | .restExit => Sys2Proof.Machine.execRestExit s
  | .dormantWake => Sys2Proof.Machine.execDormantWake s
  | .tileGate t => Sys2Proof.Machine.execTileGate t s
  | .tileWake t => Sys2Proof.Machine.execTileWake t s
  | .powerOnReset found => Sys2Proof.Machine.execPowerOnReset found s
  | .warmReset perst found => Sys2Proof.Machine.execWarmReset perst found s
  | .functionLevelReset => Sys2Proof.Machine.execFunctionLevelReset s
  | .mainRailsValid found => Sys2Proof.Machine.execMainRailsValid found s
  | .cxlTrain width gts => Sys2Proof.Machine.execCxlTrain width gts s
  | .rebuild drift recordOk plan => Sys2Proof.Machine.execRebuild drift recordOk plan s
  | .startupReady => Sys2Proof.Machine.execStartupReady s
  | .scrubComplete => Sys2Proof.Machine.execScrubComplete s
  | .fillComplete => Sys2Proof.Machine.execFillComplete s
  | .stopInterface => Sys2Proof.Machine.execStopInterface s
  | .tdispError cause => Sys2Proof.Machine.execTdispError cause s
  | .ideKm stream => Sys2Proof.Machine.execIdeKm stream s
  | .getVersion => Sys2Proof.Machine.execGetVersion s
  | .getCapabilities => Sys2Proof.Machine.execGetCapabilities s
  | .negotiateAlgorithms algs => Sys2Proof.Machine.execNegotiateAlgorithms algs s
  | .getDigests slot => Sys2Proof.Machine.execGetDigests slot s
  | .getCertificate slot offset length => Sys2Proof.Machine.execGetCertificate slot offset length s
  | .challenge nonce => Sys2Proof.Machine.execChallenge nonce s
  | .getMeasurements index signed => Sys2Proof.Machine.execGetMeasurements index signed s
  | .keyExchange exchange => Sys2Proof.Machine.execKeyExchange exchange s
  | .finish verifyOk => Sys2Proof.Machine.execFinish verifyOk s
  | .keyUpdate both => Sys2Proof.Machine.execKeyUpdate both s
  | .heartbeat => Sys2Proof.Machine.execHeartbeat s
  | .endSession => Sys2Proof.Machine.execEndSession s
  | .firmwareUpdate img => Sys2Proof.Machine.execFirmwareUpdate img s
  | .getEventRecords => Sys2Proof.Machine.execGetEventRecords s
  | .clearEventRecords => Sys2Proof.Machine.execClearEventRecords s
  | .cperRead count => Sys2Proof.Machine.execCperRead count s
  | .mctpStatus => Sys2Proof.Machine.execMctpStatus s
  | .trngFail test => Sys2Proof.Machine.execTrngFail test s
  | .startRoundFigures p step stages slots resPos resCount hret ok gpos boots => Sys2Proof.Machine.execStartRoundFigures p step stages slots resPos resCount hret ok gpos boots s
  | .knownSumsComputed array wrong => Sys2Proof.Machine.execKnownSumsComputed array wrong s
  | .powerRemoved => Sys2Proof.Machine.execPowerRemoved s
  | .tdiRun => Sys2Proof.Machine.execTdiRun s
  | .refclkRestored k => Sys2Proof.Machine.execRefclkRestored k s
  | .trngHealthPass => Sys2Proof.Machine.execTrngHealthPass s
  | .beyondClear => Sys2Proof.Machine.execBeyondClear s
  | .stagingWindowAccess line write => Sys2Proof.Machine.execStagingWindowAccess line write s
  | .jtagInstruction ir => Sys2Proof.Machine.execJtagInstruction ir s

end Sys2Proof.Machine
end

