-- ==== Sys2Proof/WellFormed.lean ====
section
/-!
DEFINITION. Which commands are well formed: every unit a command names exists on a C16, and every operand fits the field that carries it.
What a well-formed packet, message or reading may still have wrong is for its meaning to judge.
-/

namespace Sys2Proof

/-- A kind of unit that commands name. -/
inductive UnitKind where
  | ring | tile | cluster | partition | port | lane | girth | array | column | row | stage | bank | inbox | mailbox | vector | line
  deriving DecidableEq, Repr

/-- How many units of a kind a C16 has: 17 ring blocks (R277); 1,024 tiles, 16 clusters, 65,536 arrays (R1, R2); 16 partitions (R3); 8 Luawin
ports of 8 lanes and 16 girths a port (R236, R238); 272 columns and 512 rows an array (R18, R38); 8 rotations of the keepers (R362); 64
banks a slice (R103); 4 mailboxes towards firmware of 8 (R301); 36 MSI-X vectors (R282); 2^28 staging lines (R273). -/
def UnitKind.count : UnitKind → Nat
  | .ring => 17
  | .tile => 1024
  | .cluster => 16
  | .partition => 16
  | .port => 8
  | .lane => 8
  | .girth => 16
  | .array => 65536
  | .column => 272
  | .row => 512
  | .stage => 8
  | .bank => 64
  | .inbox => 4
  | .mailbox => 8
  | .vector => 36
  | .line => 2 ^ 28

/-- The units that a command names. -/
def Instr.units : Instr → List (UnitKind × Nat)
  | .submit b _ => [(.ring, b)]
  | .cancel b => [(.ring, b)]
  | .pause b => [(.ring, b)]
  | .resume b => [(.ring, b)]
  | .query b => [(.ring, b)]
  | .drop b => [(.ring, b)]
  | .loadShard b _ => [(.ring, b)]
  | .loadCommit b _ _ _ _ => [(.ring, b)]
  | .swapBegin b _ _ => [(.ring, b)]
  | .swapLayer b _ => [(.ring, b)]
  | .swapEnd b _ => [(.ring, b)]
  | .inlayLoad b _ => [(.ring, b)]
  | .inlayDrop b => [(.ring, b)]
  | .partitionSet b _ => [(.ring, b)]
  | .girthSet b _ => [(.ring, b)]
  | .girthStart b => [(.ring, b)]
  | .girthStop b => [(.ring, b)]
  | .tenantBegin b => [(.ring, b)]
  | .tenantEnd b => [(.ring, b)]
  | .eventRead b => [(.ring, b)]
  | .statusRead b => [(.ring, b)]
  | .tableLoad b _ => [(.ring, b)]
  | .promiseModelSet b => [(.ring, b)]
  | .calibrate b _ => [(.ring, b)]
  | .proofRun b _ => [(.ring, b)]
  | .xcheckRun b _ => [(.ring, b)]
  | .housekeepSet b => [(.ring, b)]
  | .arrayReadback b => [(.ring, b)]
  | .logitBiasSet b _ => [(.ring, b)]
  | .powerCapSet b => [(.ring, b)]
  | .repairMapEdit b _ => [(.ring, b)]
  | .weightsClear b _ _ => [(.ring, b)]
  | .unsupportedOpcode b => [(.ring, b)]
  | .commandFetch b _ _ => [(.ring, b)]
  | .cqWrite b => [(.ring, b)]
  | .tokenRecordPost p => [(.partition, p)]
  | .msixRaise v => [(.vector, v)]
  | .sqDb b _ _ => [(.ring, b)]
  | .cqDb b _ _ => [(.ring, b)]
  | .tqDb b _ _ => [(.ring, b)]
  | .ringEnable b _ => [(.ring, b)]
  | .ringDisable b _ => [(.ring, b)]
  | .registerWrite _ _ _ _ => []
  | .rcRead _ _ => []
  | .accessErr _ _ _ _ => []
  | .mbxSend m _ => [(.inbox, m)]
  | .mbxWithdraw m _ => [(.inbox, m)]
  | .mbxTake m _ => [(.mailbox, m)]
  | .mbxCommandTake m _ => [(.inbox, m)]
  | .mbxTimeout m => [(.mailbox, m)]
  | .onDieMbxWrite c _ _ => [(.cluster, c)]
  | .lwRetrain p _ => [(.port, p)]
  | .lwEnable p _ _ => [(.port, p)]
  | .dormantRequest _ => []
  | .periodWrite _ _ => []
  | .injectKeep array column _ => [(.array, array), (.column, column)]
  | .injectProof array column _ => [(.array, array), (.column, column)]
  | .injectCe array column _ => [(.array, array), (.column, column)]
  | .nop t => [(.tile, t)]
  | .pass t => [(.tile, t)]
  | .passCodesReady t _ _ => [(.tile, t)]
  | .alt t => [(.tile, t)]
  | .tally t => [(.tile, t)]
  | .skive t => [(.tile, t)]
  | .send t => [(.tile, t)]
  | .recv t => [(.tile, t)]
  | .wait t => [(.tile, t)]
  | .proof t _ => [(.tile, t)]
  | .kcmp t => [(.tile, t)]
  | .inlay t => [(.tile, t)]
  | .inlayEngineCommit c => [(.cluster, c)]
  | .beatEnd t => [(.tile, t)]
  | .fabricFlitArrive _ _ => []
  | .fabStall t => [(.tile, t)]
  | .sliceRefresh c bank => [(.cluster, c), (.bank, bank)]
  | .add c => [(.cluster, c)]
  | .rmsnorm c => [(.cluster, c)]
  | .lnorm c => [(.cluster, c)]
  | .act c => [(.cluster, c)]
  | .gate c => [(.cluster, c)]
  | .rope c => [(.cluster, c)]
  | .scale c => [(.cluster, c)]
  | .route c => [(.cluster, c)]
  | .store c => [(.cluster, c)]
  | .attn c => [(.cluster, c)]
  | .stload c => [(.cluster, c)]
  | .ststore c => [(.cluster, c)]
  | .dispatch c => [(.cluster, c)]
  | .combine c => [(.cluster, c)]
  | .beatIssue p _ => [(.partition, p)]
  | .beatStart p => [(.partition, p)]
  | .beatOut p _ => [(.partition, p)]
  | .ingressMessage port girth _ _ _ _ => [(.port, port), (.girth, girth)]
  | .readyMark port girth _ => [(.port, port), (.girth, girth)]
  | .draftRecord port girth _ _ => [(.port, port), (.girth, girth)]
  | .awlGather c p => [(.cluster, c), (.partition, p)]
  | .awlSelect p => [(.partition, p)]
  | .verdict p _ _ => [(.partition, p)]
  | .draftRound p _ _ => [(.partition, p)]
  | .commit p _ _ _ _ => [(.partition, p)]
  | .claim p _ => [(.partition, p)]
  | .claimReturn p _ => [(.partition, p)]
  | .refuse p _ => [(.partition, p)]
  | .release p _ _ => [(.partition, p)]
  | .stop p _ _ => [(.partition, p)]
  | .restart p _ _ _ => [(.partition, p)]
  | .peerDown p _ => [(.partition, p)]
  | .linkUp p _ => [(.partition, p)]
  | .flush p => [(.partition, p)]
  | .check p _ _ _ => [(.partition, p)]
  | .releaseHalt p _ => [(.partition, p)]
  | .grant p port _ _ => [(.partition, p), (.port, port)]
  | .peerMbx _ _ p _ => [(.partition, p)]
  | .mbxNak p _ => [(.partition, p)]
  | .thermalStop p _ _ => [(.partition, p)]
  | .thermalDrainTimeout p => [(.partition, p)]
  | .girthGo p _ => [(.partition, p)]
  | .startRoundTimeout p => [(.partition, p)]
  | .beatReturnTimeout p => [(.partition, p)]
  | .halterTimeout p => [(.partition, p)]
  | .holdDeadline p _ => [(.partition, p)]
  | .ttlExpiry p _ => [(.partition, p)]
  | .pauseMigrate p _ _ => [(.partition, p)]
  | .saddlebagWriteDone p _ _ => [(.partition, p)]
  | .resumeRead p _ _ => [(.partition, p)]
  | .readmit p _ => [(.partition, p)]
  | .lwTrainingDone p _ _ => [(.port, p)]
  | .linkKeyUpdate p _ => [(.port, p)]
  | .helloSend p => [(.port, p)]
  | .helloReceive p _ _ => [(.port, p)]
  | .flitReceive p _ => [(.port, p)]
  | .nakReceive p _ => [(.port, p)]
  | .lossOfSignal p lane => [(.port, p), (.lane, lane)]
  | .ackTimeout p => [(.port, p)]
  | .linkDown p => [(.port, p)]
  | .disputeRepetition t _ => [(.tile, t)]
  | .settlement t => [(.tile, t)]
  | .partitionRestart p _ _ => [(.partition, p)]
  | .patchDone array column _ => [(.array, array), (.column, column)]
  | .keeperRotation array k => [(.array, array), (.stage, k)]
  | .crossCheck array _ _ => [(.array, array)]
  | .periodicReadback array _ _ => [(.array, array)]
  | .rowProgramAttempt a => [(.array, a.array), (.row, a.row)]
  | .memUe _ _ => []
  | .memCe _ _ => []
  | .chipReset _ _ _ => []
  | .watchdog _ => []
  | .hkChunkStart c => [(.cluster, c)]
  | .hkOverdue array _ => [(.array, array)]
  | .hkRound _ => []
  | .calStep trim => [(.array, trim.array), (.column, trim.column)]
  | .thermtrip => []
  | .aclkChange _ => []
  | .brakeOn => []
  | .brakeToggle => []
  | .brakeOff => []
  | .brakeBeyond => []
  | .brakeHeld => []
  | .refclkLost _ => []
  | .tclkRecovered _ => []
  | .railBrownout => []
  | .restEntry => []
  | .restExit => []
  | .dormantWake => []
  | .tileGate t => [(.tile, t)]
  | .tileWake t => [(.tile, t)]
  | .powerOnReset _ => []
  | .warmReset _ _ => []
  | .functionLevelReset => []
  | .mainRailsValid _ => []
  | .cxlTrain _ _ => []
  | .rebuild _ _ _ => []
  | .startupReady => []
  | .scrubComplete => []
  | .fillComplete => []
  | .stopInterface => []
  | .tdispError _ => []
  | .ideKm _ => []
  | .getVersion => []
  | .getCapabilities => []
  | .negotiateAlgorithms _ => []
  | .getDigests _ => []
  | .getCertificate _ _ _ => []
  | .challenge _ => []
  | .getMeasurements _ _ => []
  | .keyExchange _ => []
  | .finish _ => []
  | .keyUpdate _ => []
  | .heartbeat => []
  | .endSession => []
  | .firmwareUpdate _ => []
  | .getEventRecords => []
  | .clearEventRecords => []
  | .cperRead _ => []
  | .mctpStatus => []
  | .trngFail _ => []
  | .startRoundFigures p _ _ _ _ _ _ _ _ _ => [(.partition, p)]
  | .knownSumsComputed array _ => [(.array, array)]
  | .powerRemoved => []
  | .tdiRun => []
  | .refclkRestored _ => []
  | .trngHealthPass => []
  | .beyondClear => []
  | .stagingWindowAccess line _ => [(.line, line)]
  | .jtagInstruction _ => []

/-! ### Fields -/

/-- Host memory lists its bytes at strictly rising 64-bit addresses. -/
def HostMem.fits : HostMem → Bool
  | [] => true
  | [(a, _)] => a < 2 ^ 64
  | (a, _) :: (b, y) :: m => a < b && HostMem.fits ((b, y) :: m)

/-- A list of arrays with physical columns (R2, R38). -/
def facesOk (f : Faulty) : Bool := f.all (fun x => x.1 < 65536 && x.2.all (· < 272))

/-- Analogue errors name physical columns of arrays (R2, R38). -/
def analogOk (e : Analog) : Bool := e.all (fun x => x.1 < 65536 && x.2.1 < 272)

/-- A pair of token ID and binary32 word (R205, R213). -/
def tokValOk (x : TokVal) : Bool := x.1 < 2 ^ 18 && x.2 < 2 ^ 32

/-- The fields of a trim result (R390, R394): OFFSET and GAIN are 6-bit signed trims. -/
def Trim.fits (t : Trim) : Bool := -32 ≤ t.offset && t.offset < 32 && -32 ≤ t.gain && t.gain < 32

/-- The fields of a block (R47, R48). -/
def Block.fits (b : Block) : Bool :=
  b.e8 < 256 && b.sat < 256 && b.zero < 256 && b.elems.length = 128 && (b.n8 || b.elems.all (fun x => x.toNat % 128 < 8))

/-- The fields of a vector header (R54, R92). -/
def VecHdr.fits (h : VecHdr) : Bool :=
  h.eref < 256 && h.blocks < 1024 && h.first < 512 && h.handle < 2 ^ 32 && h.pos < 2 ^ 24 && h.slot < 64 && h.budget < 2 ^ 32

/-- The fields of a message body (R48, R84). -/
def Payload.fits : Payload → Bool
  | .blocks bs => bs.length ≤ 512 && bs.all Block.fits
  | .tally lanes => lanes.length = 128 && lanes.all (fun t => -2 ^ 63 ≤ t && t < 2 ^ 63)

/-- The fields of a placement (R317). -/
def Placed.fits (p : Placed) : Bool := p.array < 65536 && p.firstCh < 2 ^ 20 && p.nch ≤ 256

/-- The fields of what the tannery chooses (R317). -/
def Plan.fits (p : Plan) : Bool :=
  p.placed.all Placed.fits && p.progs.all (fun x => x.1 < 1024 && x.2.tab.length ≤ 3968) && p.groups.all (fun g => g.1 < 1024)

/-- The fields of a draft record (R255). -/
def DraftRec.fits (d : DraftRec) : Bool :=
  d.handle < 2 ^ 32 && d.toks.length ≤ 15 && d.toks.all (fun t => t.1 < 2 ^ 18 && t.2.all tokValOk)

/-- The fields of a claim (R186). -/
def ClaimMsg.fits (m : ClaimMsg) : Bool :=
  m.handle < 2 ^ 32 && m.rslot < 256 && m.maxlen < 2 ^ 24 && m.draft < 16 && m.plen < 2 ^ 24 && m.tokens < 2 ^ 24 && m.tag < 2 ^ 16 &&
    m.seed < 2 ^ 64 && m.hist < 2 ^ 64 && m.out < 2 ^ 64 && m.sel.all (· < 2 ^ 32) && m.inlay.getD 0 < 2 ^ 12

/-- The fields of a peer message (R256): 64 bytes. -/
def PeerMsg.fits : PeerMsg → Bool
  | .words ws => ws.length ≤ 16 && ws.all (· < 2 ^ 32)
  | _ => true

/-- The HANDLE of a stop that cancels a request (R256). -/
def StopKind.fits : StopKind → Bool
  | .cancel h => h < 2 ^ 32
  | _ => true

/-- The fields of a saddlebag block's header (R160). -/
def BagRead.fits (b : BagRead) : Bool := b.handle < 2 ^ 32 && b.pepoch < 2 ^ 16 && b.part < 2 ^ 32

/-- The fields of a hello body (R245). -/
def Hello.fits (h : Hello) : Bool :=
  h.deviceId < 2 ^ 64 && h.port < 8 && h.hseq < 65536 && h.boot < 2 ^ 32 && h.echoSeq < 65536 && h.entries.length ≤ 16 &&
    h.entries.all (fun e => e.ledger < 16 && e.gpos < 256)

/-- The fields of a flit header (R238). -/
def Flit.fits (f : Flit) : Bool :=
  f.cls < 8 && f.seq < 4096 && f.ack < 4096 && f.cclass < 8 && f.ccount < 256 && f.girth < 16 && f.epoch < 16 && f.len < 256

/-- Converter codes are 12 bits wide (R376). -/
def HkReading.fits (r : HkReading) : Bool :=
  r.codes0.all (·.2 < 4096) && r.codes1.all (·.2 < 4096) && r.low.all (·.2 < 4096)

/-- The fields of a firmware image (R408). -/
def FwImage.fits (i : FwImage) : Bool := i.version < 2 ^ 24 && i.svn < 256

/-- Every operand of a command fits its field. -/
def Instr.operandsFit : Instr → Bool
  | .submit _ h => h.fits
  | .cancel _ => true
  | .pause _ => true
  | .resume _ => true
  | .query _ => true
  | .drop _ => true
  | .loadShard _ h => h.fits
  | .loadCommit _ h plan bad _ => h.fits && plan.fits && facesOk bad
  | .swapBegin _ h us => h.fits && (us.getD 0) < 2 ^ 32
  | .swapLayer _ bad => facesOk bad
  | .swapEnd _ _ => true
  | .inlayLoad _ h => h.fits
  | .inlayDrop _ => true
  | .partitionSet _ h => h.fits
  | .girthSet _ h => h.fits
  | .girthStart _ => true
  | .girthStop _ => true
  | .tenantBegin _ => true
  | .tenantEnd _ => true
  | .eventRead _ => true
  | .statusRead _ => true
  | .tableLoad _ h => h.fits
  | .promiseModelSet _ => true
  | .calibrate _ trims => trims.all Trim.fits
  | .proofRun _ err => analogOk err
  | .xcheckRun _ err => analogOk err
  | .housekeepSet _ => true
  | .arrayReadback _ => true
  | .logitBiasSet _ h => h.fits
  | .powerCapSet _ => true
  | .repairMapEdit _ bad => facesOk bad
  | .weightsClear _ residue _ => residue.all (fun x => x.1 < 65536 && x.2 < 512 * 272)
  | .unsupportedOpcode _ => true
  | .commandFetch _ h _ => h.fits
  | .cqWrite _ => true
  | .tokenRecordPost _ => true
  | .msixRaise _ => true
  | .sqDb _ value _ => value < 2 ^ 64
  | .cqDb _ value _ => value < 2 ^ 64
  | .tqDb _ value _ => value < 2 ^ 64
  | .ringEnable _ _ => true
  | .ringDisable _ _ => true
  | .registerWrite offset size value _ => offset < 2 ^ 25 && size < 8 && value < 2 ^ 64
  | .rcRead offset _ => offset < 2 ^ 25
  | .accessErr offset size _ _ => offset < 2 ^ 25 && size < 8
  | .mbxSend _ _ => true
  | .mbxWithdraw _ _ => true
  | .mbxTake m _ => 4 ≤ m
  | .mbxCommandTake _ h => h.fits
  | .mbxTimeout _ => true
  | .onDieMbxWrite _ _ words => words.length ≤ 16 && words.all (· < 2 ^ 32)
  | .lwRetrain _ _ => true
  | .lwEnable _ _ _ => true
  | .dormantRequest _ => true
  | .periodWrite value _ => value < 2 ^ 32
  | .injectKeep _ column _ => column < 256
  | .injectProof _ column _ => column < 256
  | .injectCe _ column _ => column < 256
  | .nop _ => true
  | .pass _ => true
  | .passCodesReady _ _ err => analogOk err
  | .alt _ => true
  | .tally _ => true
  | .skive _ => true
  | .send _ => true
  | .recv _ => true
  | .wait _ => true
  | .proof _ err => analogOk err
  | .kcmp _ => true
  | .inlay _ => true
  | .inlayEngineCommit _ => true
  | .beatEnd _ => true
  | .fabricFlitArrive _ _ => true
  | .fabStall _ => true
  | .sliceRefresh _ _ => true
  | .add _ => true
  | .rmsnorm _ => true
  | .lnorm _ => true
  | .act _ => true
  | .gate _ => true
  | .rope _ => true
  | .scale _ => true
  | .route _ => true
  | .store _ => true
  | .attn _ => true
  | .stload _ => true
  | .ststore _ => true
  | .dispatch _ => true
  | .combine _ => true
  | .beatIssue _ emb => emb.all (fun bs => bs.all Block.fits)
  | .beatStart _ => true
  | .beatOut _ slot => slot < 64
  | .ingressMessage _ _ dbuf epoch hdr body => dbuf < 32 && epoch < 16 && hdr.fits && body.fits
  | .readyMark _ _ epoch => epoch < 16
  | .draftRecord _ _ epoch rec => epoch < 16 && rec.fits
  | .awlGather _ _ => true
  | .awlSelect _ => true
  | .verdict _ epoch v => epoch < 16 && v.handle < 2 ^ 32 && v.toks.all (· < 2 ^ 18)
  | .draftRound _ handle vec => handle < 2 ^ 32 && vec.all Block.fits
  | .commit _ handle newL epoch toks => handle < 2 ^ 32 && newL < 2 ^ 24 && epoch < 16 && toks.all (· < 2 ^ 18)
  | .claim _ m => m.fits
  | .claimReturn _ handle => handle < 2 ^ 32
  | .refuse _ handle => handle < 2 ^ 32
  | .release _ handle _ => handle < 2 ^ 32
  | .stop _ _ k => k.fits
  | .restart _ gpos epoch _ => gpos < 256 && epoch < 16
  | .peerDown _ gpos => gpos < 256
  | .linkUp _ gpos => gpos < 256
  | .flush _ => true
  | .check _ reports commits ended =>
    reports.all (fun r => r.gpos < 256 && r.boot < 2 ^ 32) && commits.all (fun c => c.1 < 2 ^ 32 && c.2.1 < 2 ^ 24) && ended.all (· < 2 ^ 32)
  | .releaseHalt _ epoch => epoch < 16
  | .grant _ _ dbuf epoch => dbuf < 32 && epoch < 16
  | .peerMbx gpos dst _ m => gpos < 256 && dst < 256 && m.fits
  | .mbxNak _ m => m.fits
  | .thermalStop _ gpos _ => gpos < 256
  | .thermalDrainTimeout _ => true
  | .girthGo _ tGap => tGap < 2 ^ 32
  | .startRoundTimeout _ => true
  | .beatReturnTimeout _ => true
  | .halterTimeout _ => true
  | .holdDeadline _ handle => handle < 2 ^ 32
  | .ttlExpiry _ handle => handle < 2 ^ 32
  | .pauseMigrate _ handle _ => handle < 2 ^ 32
  | .saddlebagWriteDone _ handle failed => handle < 2 ^ 32 && failed.all (· < 2 ^ 32)
  | .resumeRead _ handle blocks => handle < 2 ^ 32 && blocks.all (fun b => (b.map BagRead.fits).getD true)
  | .readmit _ handle => handle < 2 ^ 32
  | .lwTrainingDone _ _ peerKeyId => peerKeyId < 2 ^ 64
  | .linkKeyUpdate _ _ => true
  | .helloSend _ => true
  | .helloReceive _ hello _ => hello.fits
  | .flitReceive _ f => f.fits
  | .nakReceive _ ack => ack < 2 ^ 12
  | .lossOfSignal _ _ => true
  | .ackTimeout _ => true
  | .linkDown _ => true
  | .disputeRepetition _ err => analogOk err
  | .settlement _ => true
  | .partitionRestart _ _ bad => facesOk bad
  | .patchDone _ column bad => column < 256 && facesOk bad
  | .keeperRotation _ _ => true
  | .crossCheck _ seed err => analogOk err && seed < 2 ^ 64
  | .periodicReadback _ drift bad => drift.all (fun x => x.1 < 512 && x.2 < 272) && facesOk bad
  | .rowProgramAttempt a => a.diff.all (· < 272)
  | .memUe _ loc => loc < 2 ^ 64
  | .memCe loc _ => loc < 2 ^ 64
  | .chipReset cause loc _ => cause < 16 && loc < 2 ^ 64
  | .watchdog _ => true
  | .hkChunkStart _ => true
  | .hkOverdue _ activity => activity < 8
  | .hkRound r => r.fits
  | .calStep trim => trim.fits
  | .thermtrip => true
  | .aclkChange mhz => mhz < 1024
  | .brakeOn => true
  | .brakeToggle => true
  | .brakeOff => true
  | .brakeBeyond => true
  | .brakeHeld => true
  | .refclkLost _ => true
  | .tclkRecovered _ => true
  | .railBrownout => true
  | .restEntry => true
  | .restExit => true
  | .dormantWake => true
  | .tileGate _ => true
  | .tileWake _ => true
  | .powerOnReset _ => true
  | .warmReset _ _ => true
  | .functionLevelReset => true
  | .mainRailsValid _ => true
  | .cxlTrain width gts => width ≤ 16 && gts < 256
  | .rebuild drift _ plan => drift.all (fun x => x.1 < 65536 && x.2.1 < 512 && x.2.2 < 272) && plan.all (fun x => x.1 < 16 && x.2.fits)
  | .startupReady => true
  | .scrubComplete => true
  | .fillComplete => true
  | .stopInterface => true
  | .tdispError cause => cause < 256
  | .ideKm stream => stream < 256
  | .getVersion => true
  | .getCapabilities => true
  | .negotiateAlgorithms _ => true
  | .getDigests slot => slot < 8
  | .getCertificate slot offset length => slot < 8 && offset < 2 ^ 16 && length < 2 ^ 16
  | .challenge nonce => nonce < 2 ^ 256
  | .getMeasurements index _ => index < 256
  | .keyExchange exchange => exchange < 2 ^ 768
  | .finish _ => true
  | .keyUpdate _ => true
  | .heartbeat => true
  | .endSession => true
  | .firmwareUpdate img => img.fits
  | .getEventRecords => true
  | .clearEventRecords => true
  | .cperRead _ => true
  | .mctpStatus => true
  | .trngFail test => test < 4
  | .startRoundFigures _ step stages _ _ _ _ _ gpos _ => step < 8 && gpos < 256 && stages.all (fun x => x.stage < 256)
  | .knownSumsComputed _ wrong => wrong.all (fun x => x.1 < 7168 && -128 ≤ x.2 && x.2 < 128)
  | .powerRemoved => true
  | .tdiRun => true
  | .refclkRestored _ => true
  | .trngHealthPass => true
  | .beyondClear => true
  | .stagingWindowAccess _ write => (match write with | some bs => bs.length = 64 | none => true)
  | .jtagInstruction ir => ir < 2 ^ 8

/-- A well-formed command: its units exist and its operands fit. -/
def Instr.wellFormed (i : Instr) : Bool := i.units.all (fun u => u.2 < u.1.count) && i.operandsFit

end Sys2Proof
end

