-- ==== Sys2Proof/Safety.lean ====
section
/-!
DEFINITION. What counts as a safe run: every step ends in a next state, and the state keeps the forms that its fields promise. Claims are
stated in these terms.
-/

namespace Sys2Proof.Machine

open Sys2Proof

/-- The outcome is a next state. -/
def Completes (r : Result) : Prop := ∃ t, r = .next t

/-- The outcome is a next state that `P` holds of. -/
def CompletesWith (r : Result) (P : State → Prop) : Prop := ∃ t, r = .next t ∧ P t

/-- The byte memories in their canonical forms: keys strictly rising, and no zero byte in the spill regions, whose unlisted bytes read zero. -/
def State.memOk (s : State) : Bool := Memory.wfZ s.spill && Memory.wf s.kv && Memory.wf s.staging

/-- A Luawin flit (R238). -/
def Out.isFlit : Out → Bool
  | .flit .. => true
  | _ => false

/-- What has left the device but for the flits of its Luawin ports, oldest first: every message stands here as itself. -/
def State.said (s : State) : List Out := s.out.filter (fun o => !o.isFlit)

/-- The packet `w` from `src` is the command of block `b` and opcode `op` whose turn it is, and it passes the checks of a packet that do not
depend on the device's state (R283–R285). -/
def State.InTurn (s : State) (b op : Nat) (src : CmdSrc) (w : List Nat) : Prop :=
  b < 17 ∧ s.serves = true ∧ (s.taken b op).map (fun f => (f.src, f.words)) = some (src, w) ∧ packetOk src w = true

/-- The stitcher of tile `t` runs (its partition is awake and not restarting) and stands at stitch `st`. -/
def State.Stands (s : State) (t : Nat) (st : Stitch) : Prop := t < 1024 ∧ s.current t = some st

/-- A write of 2^size bytes at BAR0 offset `off` reaches its register (R7, R276, R303, R418). -/
def State.Reaches (s : State) (off size : Nat) (trusted : Bool) : Prop :=
  s.barOn = true ∧ (s.touch off).accessCause off size trusted = none ∧ ((s.touch off).trusted = false ∨ trusted = true ∨ teeOpen off = true)

/-- Every waiting command is well formed. -/
def State.pendingOk (s : State) : Bool := s.pending.all Instr.wellFormed

end Sys2Proof.Machine

namespace Sys2Proof

/-- A command after which volatile memory may be empty: a reset, removed power, DORMANT, or the end of a scrub (R368, R423, R434, R438, R447). -/
def Instr.losesMemory : Instr → Bool
  | .powerOnReset .. | .warmReset .. | .railBrownout | .powerRemoved | .dormantWake | .dormantRequest .. | .registerWrite .. | .chipReset ..
  | .watchdog .. | .tclkRecovered .. | .scrubComplete | .fillComplete => true
  | _ => false

/-- A command that can write keys, values or state-layer copies: ATTN, STSTORE, the commits and the restore of a resumed request. -/
def Instr.writesKv : Instr → Bool
  | .attn .. | .ststore .. | .verdict .. | .commit .. | .check .. | .resumeRead .. | .fabricFlitArrive .. => true
  | _ => false

/-- A command that can write the spill regions: ADD with WB, and STORE (R134). -/
def Instr.writesSpill : Instr → Bool
  | .add .. | .store .. => true
  | _ => false

/-- A command that can write host memory, and so the staging window (R271, R272). -/
def Instr.writesHost : Instr → Bool
  | .query .. | .eventRead .. | .statusRead .. | .arrayReadback .. | .mbxCommandTake .. | .cqWrite .. | .tokenRecordPost ..
  | .stagingWindowAccess .. => true
  | _ => false

end Sys2Proof

namespace Sys2Proof.Machine

/-- A safe step: one that ends in a next state. -/
def State.SafeStep (s : State) : Prop := Completes (step s)

end Sys2Proof.Machine
end

