-- ==== Sys2Proof/Certificates/Slice0/Obligations.lean ====
section
/-!
DEFINITION. The statements of the model, one `def Obligations.<Name> : Prop` each, from the numbered rules of the manual.
-/

open Sys2Proof Sys2Proof.Machine

/-- For every command c, every queue rest and every state s: step of s with c at the front of its queue and rest behind it is exec of c on s
with rest as its queue. This is the block's own form (log 1). (95_what_each_step_holds.md; derived) -/
def Obligations.StepTakesTheFrontCommand : Prop :=
  ∀ (c : Instr) (rest : List Instr) (s : State), step { s with pending := c :: rest } = exec c { s with pending := rest }

/-- With an empty queue a step answers a next state in which the queue is still empty and, where TCLK is good and the device has power, TICK
has advanced by one and wraps at 64 bits; otherwise the state is unchanged. That the empty queue stands for a tick is the model's choice
(log 2). (R167; derived) -/
def Obligations.EmptyQueuePassesATick : Prop :=
  ∀ (s : State), s.pending = [] →
    CompletesWith (step s) (fun t => t.pending = [] ∧
      (s.pwr.tclkOk = true → s.pwr.st ≠ .off → t.tick = (s.tick + 1) % 2 ^ 64) ∧
      (s.pwr.tclkOk = false ∨ s.pwr.st = .off → t = s))

/-- For every well-formed command (every unit it names exists on a C16, and its operands fit) and every state, exec answers a next state,
except for a register access to the debug and trace region and a JTAG instruction of the part's own, outside confidential mode, which are
refused as debugUnit. So no ordinary data ends a run. (R1, R2, R3, R236, R275, R428; derived) -/
def Obligations.WellFormedCommandsNeverFault : Prop :=
  ∀ (i : Instr) (s : State), i.wellFormed = true →
    Completes (exec i s) ∨
    (exec i s = .refused .debugUnit ∧ s.host.conf = false ∧
      ((∃ offset size value tr, i = .registerWrite offset size value tr ∧ inDebug offset = true) ∨
        (∃ offset tr, i = .rcRead offset tr ∧ inDebug offset = true) ∨ (∃ ir, i = .jtagInstruction ir ∧ 2 < ir)))

/-- Whatever the command's effect would be: a packet that a ring block takes up and that fails the checks that do not depend on the device's
state (source, expert flag, reserved bits, LENGTH) is answered REJECT_PARAM, and nothing else happens. Stated of the one operation that
every command packet goes through (command). (R6, R283, R284, R285; derived) -/
def Obligations.FailedPacketChecksReplyRejectParam : Prop :=
  ∀ (b op : Nat) (f : CmdEffect) (s : State) (c : Fetched), b < 17 → s.serves = true → s.taken b op = some c →
    packetOk c.src c.words = false → command b op f s = .next (s.reply c.src c.words 0x04)

/-- A reply to a command from ring block b takes the command out of those in flight and appends one entry of eight words to the block's
pending entries: status in [7:0], opcode in [15:8], partition in [19:16] and KIND 0 of word 0, the packet's TAG in word 1, and the result
words. Every other ring, the partitions, girths, ledger, tiles and arrays, every byte of KV, spill and staging memory, and what has left
the device are unchanged. (R285, R287, R290; derived) -/
def Obligations.RepliesGoBackToTheirSource : Prop :=
  ∀ (s : State) (b st : Nat) (w res : List Nat),
    let t := s.reply (.ring b) w st res
    (t.ring b).cqWait = (s.ring b).cqWait ++ [[cqWord0 st (bits (nthW w 0) 7 0) (bits (nthW w 0) 19 16) 0, bits (nthW w 1) 15 0] ++ padW 6 res] ∧
    t.host.fetched = dropFetched (.ring b) w s.host.fetched ∧ (∀ k, k ≠ b → t.ring k = s.ring k) ∧
    t.parts = s.parts ∧ t.girths = s.girths ∧ t.ledger = s.ledger ∧ t.tiles = s.tiles ∧ t.arrays = s.arrays ∧
    t.kv = s.kv ∧ t.spill = s.spill ∧ t.staging = s.staging ∧ t.out = s.out

/-- A SUBMIT in turn at the pommel of a running girth, whose selection block and parameters pass their checks, whose ledger share has a free
index and which admission lets pass (a best-effort one always; a promised one by judgeSeat), completes where its spans can be allocated:
its claim waits at the pommel with the promised times and seat, its extension takes the spans, the selection words, HIST_ADDR and the
inlay, and the claim leaves on the rein tree; the ledger, tiles, arrays, KV and rings are unchanged and no reply is written yet. One that
admission does not let pass, or that R184 refuses, gets that status with the bounds that go with it, and that is all. (R166, R182, R183,
R186, R296, R387; derived) -/
def Obligations.SubmitOpensAClaim : Prop :=
  ∀ (s : State) (b : Nat) (h : HostMem) (src : CmdSrc) (w : List Nat), s.InTurn b 0x01 src w →
    let p := pktPart w
    (∀ st, s.girthJudge p = some st → exec (.submit b h) s = .next (s.reply src w st (s.stopBounds p st (bits (nthW w 4) 23 0) true))) ∧
    (∀ sel i, s.girthJudge p = none → s.submitSel h w = some sel → submitOk w sel = true →
      let a := if dword w 10 = 0 then s else s.asks (dword w 10) 64
      a.freeIndex p = some i →
      let e := a.submitEntry w i
      let hd := mkHandle i (a.entry i).gen
      let j : Judged := if e.be then ⟨0, 0, 0, 0xFF, 0⟩ else a.judgeSeat p hd e e.plen true true (nthW w 6) (nthW w 7)
      (j.status ≠ 0 → exec (.submit b h) s = .next (a.reply src w j.status (rejectWords j))) ∧
      (∀ sp, j.status = 0 → a.claimSpans p hd e.streamed e.rslot e.maxlen (submitExt w sel).inlay false = some sp →
        CompletesWith (exec (.submit b h) s) (fun t =>
          let e' := { e with ttft := j.ttft, tpt := j.tpt, row := j.row, slot := j.slot }
          let x := { submitExt w sel with spans := sp }
          (t.girth p).claims = (s.girth p).claims ++ [{ src := some src, words := w, handle := hd, resume := false, entry := e' }] ∧
          t.extn (handleIdx hd) = { x with carried := some (claimOf hd e' x) } ∧
          t.said = a.said ++ [.rein p (.claim (claimOf hd e' x))] ∧
          t.ledger = s.ledger ∧ t.tiles = s.tiles ∧ t.arrays = s.arrays ∧ t.kv = s.kv ∧ t.host.rings = s.host.rings)))

/-- A RESUME in turn of a PAUSED request of the pommel's running girth, with no claim of it in flight, that admission lets pass completes
where its spans can be had: the claim of the same handle waits at the pommel with the entry in RESUMING, PEND clear, KBASE at the tokens
delivered so far and the promised times and seat, the extension takes the spans, and the claim leaves on the rein tree; the ledger, tiles
and KV are unchanged. One that admission refuses, or that R184 does, gets that status with its bounds and stays PAUSED. (R163, R184, R186,
R297, R387; derived) -/
def Obligations.ResumeOpensAClaim : Prop :=
  ∀ (s : State) (b : Nat) (src : CmdSrc) (w : List Nat), s.InTurn b 0x04 src w →
    let p := pktPart w
    let h := nthW w 2
    (∀ st, s.girthJudge p = some st → exec (.resume b) s = .next (s.reply src w st (s.stopBounds p st 0 false))) ∧
    (∀ e, s.girthJudge p = none → s.named w = some e → e.st = .paused → (s.girth p).claimFor h = none →
      let ti := s.resumeTier p h e
      let e1 := { e with streamed := ti.1, rslot := ti.2, be := !pktFlag w 9 }
      let j : Judged := if e1.be then ⟨0, 0, 0, 0xFF, 0⟩ else s.judgeSeat p h e1 0 false true (nthW w 3) (nthW w 4)
      (j.status ≠ 0 → exec (.resume b) s = .next (s.reply src w j.status (rejectWords j))) ∧
      (∀ sp, j.status = 0 → s.claimSpans p h ti.1 ti.2 e.maxlen (s.extn (handleIdx h)).rebuilt.inlay true = some sp →
        CompletesWith (exec (.resume b) s) (fun t =>
          let e2 := { e1 with st := .resuming, ttft := j.ttft, tpt := j.tpt, row := j.row, slot := j.slot, kbase := e.tokens, pend := .none }
          let x := { (s.extn (handleIdx h)).rebuilt with spans := sp }
          (t.girth p).claims = (s.girth p).claims ++ [{ src := some src, words := w, handle := h, resume := true, entry := e2 }] ∧
          t.extn (handleIdx h) = { x with carried := some (claimOf h e2 x) } ∧
          t.said = s.said ++ [.rein p (.claim (claimOf h e2 x))] ∧ t.ledger = s.ledger ∧ t.tiles = s.tiles ∧ t.kv = s.kv)))

/-- For a packet in turn that names a request of its partition. CANCEL at the pommel, or without a girth, cancels it, and at another member
sends the stop up to the pommel; it replies OK with the handle and the status that the entry then has. The cancelling leaves an ended
request as it is; it marks PEND cancel and sends the stop down the tree while a step or a draft run is in flight and the girth is not
HELD; and else ends it: DONE with CANCELLED. PAUSE of a request in PREFILL or DECODE at the pommel sets PEND to pause (a pending cancel
stays), holds its time to live and replies ACCEPTED with the handle; any other PAUSE replies REJECT_PARAM. QUERY replies OK with the
handle, state, cause, status, tier and halt in one word, L, TOKENS, LATE and RESTARTS, and with a DEST that it may name the entry and
extension words are written there first. DROP of a DONE or FAILED request empties its extension, frees its entry with the next generation
and replies OK with the handle. (R165, R171, R172, R199, R268, R297, R305; derived) -/
def Obligations.RequestCommandsAnswer : Prop :=
  ∀ (s : State) (b : Nat) (src : CmdSrc) (w : List Nat) (e : Entry), s.named w = some e →
    let h := nthW w 2
    let i := handleIdx h
    let x := s.extn i
    let own := s.isPommel e.part = true ∨ (s.girth e.part).record.isNone = true
    (s.InTurn b 0x02 src w →
      (own → exec (.cancel b) s = .next ((s.cancelRequest h).reply src w 0x00 [h, ((s.cancelRequest h).entry i).status])) ∧
      (¬ own → exec (.cancel b) s = .next ((s.reinUp e.part (.stop (.cancel h))).reply src w 0x00 [h, e.status]))) ∧
    (e.st.active = false → s.cancelRequest h = s) ∧
    (e.st.active = true → (x.inFlight = true ∨ x.draftAt.isSome = true) → (s.girth e.part).st ≠ .held →
      s.cancelRequest h = (s.setEntry i { e with pend := .cancel }).rein e.part (.stop (.cancel h))) ∧
    (e.st.active = true → ((x.inFlight = false ∧ x.draftAt = none) ∨ (s.girth e.part).st = .held) →
      s.cancelRequest h = s.endRequest h false 0x09 ∧
      (s.cancelRequest h).entry i = { e with st := .done, status := 0x09, pend := .none, halt := false, row := 0xFF }) ∧
    (s.InTurn b 0x03 src w →
      (s.isPommel e.part = true → (e.st = .prefill ∨ e.st = .decode) →
        exec (.pause b) s = .next (((s.setEntry i { e with pend := if e.pend = .cancel then .cancel else .pause }).setExt i
          { x with ttlMs := if nthW w 3 = 0 then (s.part e.part).ttlMs else nthW w 3 }).reply src w 0x01 [h])) ∧
      ((s.isPommel e.part = false ∨ (e.st ≠ .prefill ∧ e.st ≠ .decode)) → exec (.pause b) s = .next (s.reply src w 0x04))) ∧
    (s.InTurn b 0x05 src w →
      (dword w 3 = 0 ∨ (addrOk (dword w 3) 256 = true ∧ (s.trusted = false ∨ s.trustedPath src = true))) →
      let seed := if s.isCantle e.part then (x.carried.map (·.seed)).getD e.seed else 0
      let u := if dword w 3 = 0 then s else s.writeMem (dword w 3) (wordBytes (e.words ++ x.words seed))
      exec (.query b) s = .next (u.reply src w 0x00 [h,
        e.st.num + 2 ^ 8 * e.void + 2 ^ 16 * e.status + 2 ^ 24 * b2n e.streamed + 2 ^ 25 * b2n e.halt, e.l, e.tokens, x.late, e.restarts])) ∧
    (s.InTurn b 0x06 src w →
      ((e.st = .done ∨ e.st = .failed) →
        exec (.drop b) s = .next (((s.setExt i {}).setEntry i { gen := (e.gen + 1) % 4096 }).reply src w 0x00 [h])) ∧
      (e.st ≠ .done → e.st ≠ .failed → exec (.drop b) s = .next (s.reply src w 0x04)))

/-- In turn and with values in range: PROMISE_MODEL_SET at the pommel (FP_MHZ 400-800, N_CAP 64-2^20, fewer prefill rows than the wheel has)
stores the model, of which a resting wheel takes up what waits. HOUSEKEEP_SET (HK_PERMILLE 10-250, HK_CHUNK 25-500) stores the floor at
once in a partition without a girth or whose girth does not run; else it waits for the wheel to stop, and the pommel notes it or is told
of it over the rein tree. LOGIT_BIAS_SET of up to 1,024 entries with rising token IDs and values that are finite or minus infinity reads
them from the host's memory and stores them as the table, or with none deletes it, where no active request names the table, and replies
BUSY_SWAP where one does. Each stored setting replies OK. (R188, R191, R192, R213, R300; derived) -/
def Obligations.PartitionSettingsTakeEffect : Prop :=
  ∀ (s : State) (b : Nat) (src : CmdSrc) (w : List Nat) (h : HostMem),
    let p := pktPart w
    let q := s.part p
    let g := s.girth p
    (s.InTurn b 0x81 src w → s.isPommel p = true → 400 ≤ bits (nthW w 2) 9 0 → bits (nthW w 2) 9 0 ≤ 800 →
      64 ≤ bits (nthW w 3) 20 0 → bits (nthW w 3) 20 0 ≤ 2 ^ 20 → (g.wheel.k = 0 ∨ bits (nthW w 4) 7 0 < g.wheel.k) →
      exec (.promiseModelSet b) s = .next (((s.setGirth p { g with
        model := { fpMhz := bits (nthW w 2) 9 0, nCap := bits (nthW w 3) 20 0, resOnly := bit (nthW w 2) 16,
                   pfRows := bits (nthW w 4) 7 0, tDraft := nthW w 5 } }).wheelRest p).reply src w 0x00)) ∧
    (s.InTurn b 0x85 src w → q.defined = true → 10 ≤ nthW w 2 → nthW w 2 ≤ 250 → 25 ≤ nthW w 3 → nthW w 3 ≤ 500 →
      ((g.record = none ∨ (g.st ≠ .running ∧ g.st ≠ .held)) →
        exec (.housekeepSet b) s = .next ((s.setPart p { q with hkPerm := nthW w 2, hkChunk := nthW w 3, hkNext := none }).reply src w 0x00)) ∧
      (g.record ≠ none → (g.st = .running ∨ g.st = .held) →
        let u := s.setPart p { q with hkNext := some (nthW w 2, nthW w 3) }
        let v := if s.isPommel p then u.setGirth p { g with floors := put 0 (nthW w 2, nthW w 3) g.floors } else u.rein p (.hk (nthW w 2) (nthW w 3))
        exec (.housekeepSet b) s = .next ((v.wheelRest p).reply src w 0x00))) ∧
    (s.InTurn b 0x87 src w → q.defined = true → nthW w 3 ≤ 1024 → (nthW w 3 = 0 ∨ addrOk (dword w 4) (8 * nthW w 3) = true) →
      let u := s.asks (dword w 4) (8 * nthW w 3)
      let bs := s.readMem h (dword w 4) (8 * nthW w 3)
      let tab := (List.range (nthW w 3)).map (fun i => (wordAt bs (2 * i), wordAt bs (2 * i + 1)))
      let named := (u.activeOf p).any (fun hd =>
        let sel := ((u.extn (handleIdx hd)).carried.map (·.sel)).getD (u.extn (handleIdx hd)).sel
        bit (nthW sel 3) 11 && bits (nthW sel 3) 19 12 = nthW w 2)
      biasOk tab = true →
      (named = true → exec (.logitBiasSet b h) s = .next (u.reply src w 0x05)) ∧
      (named = false → exec (.logitBiasSet b h) s = .next ((u.setPart p
        { q with bias := if nthW w 3 = 0 then del (nthW w 2) q.bias else put (nthW w 2) tab q.bias }).reply src w 0x00)))

/-- At the pommel: TTL_EXPIRY of a PAUSED request whose time to live has passed ends it EXPIRED_TTL, and before that changes nothing.
HOLD_DEADLINE in a HELD girth ends a request whose promise the hold has overrun FAILED with PEER_LOST and VOID = PEER, and leaves every
other one. READMIT of a restarted request that waits for it takes it off the waiting list, allocates its spans afresh, keeps its promise
where judgeSeat lets it pass and else serves it best-effort (a promised one at the highest priority), writes its entry so and opens its
claim; where its spans cannot be had it ends FAILED with FAULT_ABORT and VOID = RESTART. That a promised request which fails check 3 or 4
is served best-effort is the model's choice (log 136). (R162, R163, R171, R200, R201, R267, R268; derived) -/
def Obligations.RequestsEndAndExpire : Prop :=
  ∀ (s : State) (p handle : Nat) (e : Entry), p < 16 → s.entryOf handle = some e → s.isPommel p = true →
    (e.part = p → e.st = .paused →
      (e.tRef < s.tick → exec (.ttlExpiry p handle) s = .next (s.endRequest handle false 0x08)) ∧
      (s.tick ≤ e.tRef → exec (.ttlExpiry p handle) s = .next s)) ∧
    (e.part = p → (s.girth p).st = .held →
      (s.holdOver p handle = true → exec (.holdDeadline p handle) s = .next ((s.voidPromise handle 3).endRequest handle true 0x0F)) ∧
      (s.holdOver p handle = false → exec (.holdDeadline p handle) s = .next s)) ∧
    ((s.girth p).st = .running → (s.girth p).thermalStop = false → handle ∈ (s.girth p).readmits → e.st = .prefill →
      let a := s.setGirth p { s.girth p with readmits := (s.girth p).readmits.filter (· ≠ handle) }
      let ti := a.tierFor p handle e.maxlen
      let e1 := { e with streamed := ti.1, rslot := ti.2, row := 0xFF, slot := 0 }
      let j : Judged := if e.ttft ≠ 0 then a.judgeSeat p handle e1 e1.prompt true false e.ttft e.tpt else ⟨0, 0, 0, 0xFF, 0⟩
      let e2 := if e.ttft ≠ 0 ∧ j.status = 0 then { e1 with be := false, row := j.row, slot := j.slot }
        else if e.ttft ≠ 0 then { e1 with be := true, prio := 255 } else { e1 with be := true }
      let x := { a.extn (handleIdx handle) with spans := [] }.rebuilt
      (a.claimSpans p handle e2.streamed e2.rslot e2.maxlen x.inlay false = none →
        exec (.readmit p handle) s = .next ((a.voidPromise handle 2).endRequest handle true 0x0A)) ∧
      (∀ sp, a.claimSpans p handle e2.streamed e2.rslot e2.maxlen x.inlay false = some sp →
        CompletesWith (exec (.readmit p handle) s) (fun t =>
          t.entry (handleIdx handle) = e2 ∧ (t.girth p).readmits = (s.girth p).readmits.filter (· ≠ handle) ∧
          (t.girth p).claims = (s.girth p).claims ++ [{ src := none, words := [], handle, resume := false, entry := e2 }] ∧
          (t.extn (handleIdx handle)).spans = sp ∧
          t.said = s.said ++ [.rein p (.claim (claimOf handle e2 { x with spans := sp }))] ∧ t.kv = s.kv ∧ t.tiles = s.tiles)))

/-- When a claim comes back to the pommel of a running girth: the claim of a SUBMIT, or of a RESUME whose request is still PAUSED, is closed,
the entry is written as the claim has it with T_REF at this tick, STATUS 0 and VOID as before (0 for a SUBMIT), the extension notes the
tick of the promise, a promised SUBMIT joins the queue for a prefill row, which free rows are given out to, a RESUME with saddlebag data
asks for its blocks, and the reply is ACCEPTED with the handle, the promised times and the tier; KV and the tiles are unchanged. The claim
of a RESUME whose request is no longer PAUSED fails with REJECT_PARAM. The claim of a re-admission writes the entry with T_REF at this
tick and KBASE at the tokens delivered, keeps PEND, queues a promised one, and posts the RESTART notice with the handle, the tokens and
VOID; of one that has ended meanwhile only the release goes out. (R163, R171, R173, R182, R186, R201, R288, R296; derived) -/
def Obligations.ClaimReturnMakesThePromise : Prop :=
  ∀ (s : State) (p handle : Nat) (c : Pending), p < 16 → s.isPommel p = true → (s.girth p).claimFor handle = some c →
    (s.girth p).st = .running →
    let i := handleIdx handle
    let x := s.extn i
    let g := { s.girth p with claims := (s.girth p).claims.filter (fun c => c.handle ≠ handle) }
    (∀ src, c.src = some src →
      (c.resume = true → (s.entry i).st ≠ .paused → exec (.claimReturn p handle) s = .next (s.claimFails p c 0x04)) ∧
      ((c.resume = true → (s.entry i).st = .paused) →
        let e := { c.entry with tRef := s.tick, status := 0, void := if c.resume then (s.entry i).void else 0 }
        CompletesWith (exec (.claimReturn p handle) s) (fun t =>
          t.entry i = e ∧ (t.extn i).admTick = s.tick ∧
          t.girth p = (if c.resume ∨ e.be then g else Girth.assign { g with queue := g.queue ++ [handle] }) ∧
          (∀ r, src = .ring r → (t.ring r).cqWait = (s.ring r).cqWait ++ [replyEntry c.words 0x01 (acceptWords handle e)]) ∧
          t.said = s.said ++ (if c.resume = true ∧ x.poolData = true ∧ x.nblk ≠ 0 then [.poolRead p handle x.nblk] else []) ∧
          t.kv = s.kv ∧ t.tiles = s.tiles))) ∧
    (c.src = none →
      ((s.entry i).st ≠ .prefill → exec (.claimReturn p handle) s = .next ((s.closeClaim p handle).rein p (.release handle false))) ∧
      ((s.entry i).st = .prefill →
        let e := { c.entry with tRef := s.tick, kbase := c.entry.tokens, pend := (s.entry i).pend }
        let a := ((s.closeClaim p handle).setEntry i e).setExt i { x with admTick := s.tick }
        exec (.claimReturn p handle) s =
          .next ((if e.be then a else a.queuePrefill p handle).notice x.subPart 2 0x07 e.tag [handle, 0, e.tokens, e.void])))

/-- REFUSE of a claim at the pommel ends that claim with REJECT_CAPACITY; a member of the girth passes a refusal up the tree unchanged.
RELEASE at a member frees the request, whose entry goes to FREE with its generation and whose extension is emptied, and goes on down the
tree; the release of a refused RESUME takes a RESUMING request back to PAUSED instead and gives up the spans that its claim allocated; at
the pommel, or of a handle that the member does not hold, a RELEASE changes nothing. (R163, R168, R171, R186, R256; derived) -/
def Obligations.RefusedAndReleasedClaims : Prop :=
  ∀ (s : State) (p handle : Nat), p < 16 →
    (∀ c, s.isPommel p = true → (s.girth p).claimFor handle = some c → exec (.refuse p handle) s = .next (s.claimFails p c 0x02)) ∧
    (s.isPommel p = false → exec (.refuse p handle) s = .next (s.rein p (.refuse handle))) ∧
    (∀ e undo, s.isPommel p = false → s.entryOf handle = some e →
      ((undo = false ∨ e.st ≠ .resuming) →
        exec (.release p handle undo) s = .next ((s.memberFree handle).rein p (.release handle undo)) ∧
        (s.memberFree handle).entry (handleIdx handle) = { gen := e.gen } ∧ (s.memberFree handle).extn (handleIdx handle) = {}) ∧
      (undo = true → e.st = .resuming →
        exec (.release p handle undo) s = .next (((s.setEntry (handleIdx handle) { e with st := .paused }).setExt (handleIdx handle)
          { s.extn (handleIdx handle) with
            spans := if (s.extn (handleIdx handle)).claimed then [] else (s.extn (handleIdx handle)).spans
            claimed := false }).rein p (.release handle undo)))) ∧
    (∀ undo, (s.isPommel p = true ∨ s.entryOf handle = none) → exec (.release p handle undo) s = .next s)

/-- A CLAIM at a member of a running girth whose spans can be had writes the member's entry with the claim's tier, slot and MAXLEN and ROW 0:
in ADMITTED with L 0 for a handle it does not hold, in PREFILL with L 0 for one it holds, and in RESUMING with its L for one that is
PAUSED here; it writes the extension with the spans, the inlay, and at the cantle alone the selection words, clears the wear counts of
that index but for a resume, asks for the saddlebag blocks of a resume, and passes the claim on; KV is unchanged. Where the spans cannot
be had it sends REFUSE and that is all. (R143, R163, R168, R169, R186, R218, R256; derived) -/
def Obligations.ClaimAtAMember : Prop :=
  ∀ (s : State) (p : Nat) (m : ClaimMsg), p < 16 → s.isPommel p = false → (s.girth p).record.isSome = true → (s.girth p).st = .running →
    let i := handleIdx m.handle
    let old := s.entryOf m.handle
    let paused := (old.map (fun e => decide (e.st = .paused))).getD false
    (∀ sp, s.claimSpans p m.handle m.tier m.rslot m.maxlen m.inlay paused = some sp →
      CompletesWith (exec (.claim p m) s) (fun t =>
        t.entry i = memberEntry p m (if paused then .resuming else if old.isSome then .prefill else .admitted)
          (if paused then (old.map (·.l)).getD 0 else 0) ∧
        (t.extn i).spans = sp ∧ (t.extn i).inlay = m.inlay ∧ (t.extn i).sel = (if s.isCantle p then m.sel else []) ∧
        (t.extn i).carried = some m ∧ t.wear = (if paused then s.wear else del i s.wear) ∧
        t.said = s.said ++
          (if paused = true ∧ (s.extn i).poolData = true ∧ (s.extn i).nblk ≠ 0 then [.poolRead p m.handle (s.extn i).nblk] else []) ++
          [.rein p (.claim m)] ∧ t.kv = s.kv)) ∧
    (s.claimSpans p m.handle m.tier m.rslot m.maxlen m.inlay paused = none → exec (.claim p m) s = .next (s.rein p (.refuse m.handle)))

/-- At a pommel that issues: BEAT_ISSUE before the cadence tick with a promised request of the row not back waits. At the cadence tick, or
with all of them back, the seated requests that are back ride, after those whose deadline has passed have ended, and best-effort rides
fill the free slots where the margin of the last beat allows it. With rides the beat number advances, the issue tick and margin are noted,
and the beat with its slots joins those issued; KV is unchanged. Without any the same holds but that no beat is listed, and the wheel may
come to rest. At a member whose beat message is complete, BEAT_START marks that beat started at this tick and logs an entry per slot, the
oldest leaving beyond 131,072; a request of it with no step in flight starts its step, with its positions, the BUDGET of its first slot
(with BRAKE while the device brakes beyond) and T_IN; one whose step awaits its commit has this step as its next. BEAT_OUT of a slot hands
its messages to their ports with the budget that is left and keeps those of other slots. (R148, R167, R177, R181, R189, R196, R252, R253,
R363, R444; derived) -/
def Obligations.BeatsLeaveAndStart : Prop :=
  (∀ (s : State) (p : Nat) (emb : List (List Block)), p < 16 → s.issues p = true →
    let g := s.girth p
    let back := fun h => s.backReady h (s.entry (handleIdx h))
    let row := (s.seated p (g.beatNo % g.wheel.k)).filter (fun h => s.mayRide p h (s.entry (handleIdx h)))
    let u := s.deadlineCheck (row.filter back)
    let seats := u.seatRides p (row.filter back)
    let fill := (g.margin.map (fun m => decide (g.wheel.tGap ≤ 8 * m))).getD true
    let rides := seats ++ (if fill then u.fillRides p g.beatNo (g.wheel.b - (seats.map (·.n)).sum) (u.bestEffort p) else [])
    (s.tick < s.cadence p → row.all back = false → exec (.beatIssue p emb) s = .next s) ∧
    ((s.cadence p ≤ s.tick ∨ row.all back = true) →
      (rides = [] → exec (.beatIssue p emb) s = .next ((u.setGirth p { u.girth p with
        t0 := some ((u.girth p).t0.getD u.tick), beatNo := g.beatNo + 1, lastIssue := some u.tick
        margin := some (s.cadence p - u.tick) }).wheelRest p)) ∧
      (rideSlots rides ≠ [] → CompletesWith (exec (.beatIssue p emb) s) (fun t =>
        (t.girth p).beatNo = g.beatNo + 1 ∧ (t.girth p).lastIssue = some s.tick ∧ (t.girth p).margin = some (s.cadence p - s.tick) ∧
        (t.girth p).issued = (u.girth p).issued ++ [{ j := g.beatNo, tick := s.tick, slots := rideSlots rides }] ∧ t.kv = s.kv)))) ∧
  (∀ (s : State) (p : Nat) (b : Beat) (bs : List Beat), p < 16 → s.isPommel p = false → s.runs p = true → (s.girth p).st = .running →
    ((s.part p).swap.map (·.held.isEmpty)).getD true = true → (s.hk.stop = true → p ∈ s.hk.drain) →
    (s.isCantle p = true → (s.ring p).tqWait.length < 1024) →
    startFirst (s.messageComplete p) (fun b => { b with started := some s.tick }) (s.part p).beats = some (b, bs) →
    (∀ x ∈ b.slots, x.2.1 < 2 ^ 32) →
    CompletesWith (exec (.beatStart p) s) (fun t =>
      (t.part p).beats = bs ∧ t.kv = s.kv ∧ t.tiles = s.tiles ∧
      (let l := (s.part p).stepLog ++ b.slots.map (fun x => (x.2.1, s.tick)); (t.part p).stepLog = l.drop (l.length - 131072)) ∧
      ∀ h e, s.entryOf h = some e → h ∈ b.slots.map (·.2.1) →
        let mine := b.slots.filter (fun x => x.2.1 = h)
        let bud := (mine.head?.map (·.2.2.2)).getD 0
        ((s.extn (handleIdx h)).inFlight = false →
          (t.entry (handleIdx h)).budget = (if s.braking = true ∧ s.pwr.beyond = true then bud ||| 2 ^ 29 else bud) ∧
          (t.entry (handleIdx h)).tIn = s.tick % 2 ^ 32 ∧ (t.extn (handleIdx h)).inFlight = true ∧
          (t.extn (handleIdx h)).stepPos = mine.length) ∧
        ((s.extn (handleIdx h)).inFlight = true → (t.extn (handleIdx h)).nextStep = some (mine.length, bud, s.tick % 2 ^ 32)))) ∧
  (∀ (s : State) (p slot : Nat), p < 16 → s.runs p = true →
    CompletesWith (exec (.beatOut p slot) s) (fun t =>
      (t.part p).egress = (s.part p).egress.filter (fun x => x.2.2.1.slot ≠ slot) ∧
      t.said = s.said ++ ((s.part p).egress.filter (fun x => x.2.2.1.slot = slot)).map (fun x =>
        .link x.1 (((s.girth p).record.map (·.ledger)).getD 0) x.2.1 { x.2.2.1 with budget := s.budgetLeaving p x.2.2.1.handle } x.2.2.2) ∧
      t.ledger = s.ledger ∧ t.kv = s.kv))

/-- At the pommel of a running girth, the verdict of a step in flight: one with FAULT_ABORT, then one that finds a cancel pending (CANCELLED),
then one of MISSED_DISCARDED (BRAKE voids the promise first) discards the step: L is unchanged and an active request ends with that
status, FAILED only for FAULT_ABORT. Every other one is delivered: a step of a request in DECODE moves L to L + accepted drafts + 1,
another to L + the step's positions; the tokens are added to TOKENS where the step was a decode step or the prompt is complete, and then
an EMBED request, or one whose last token is an end token or reaches MAXLEN, is DONE, another in DECODE; else its state stands. At a
member, COMMIT with a step in flight sets L to the new L where it lies between L and L plus the step's positions, takes a request whose
prompt is then complete to DECODE, ends the step (the next that waits here begins), leaves every other entry and goes on round the tree;
without a step in flight, or with an L outside, it only goes on. A verdict or commit of another girth epoch is discarded and counted on
its port. (R148, R149, R171, R197, R199, R210, R214, R226, R258; derived) -/
def Obligations.StepsAreCommitted : Prop :=
  (∀ (s : State) (p epoch : Nat) (v : VerdictMsg) (e : Entry), p < 16 → s.isPommel p = true →
    let h := v.handle
    let i := handleIdx h
    let x := s.extn i
    (epoch ≠ (s.girth p).epoch → exec (.verdict p epoch v) s = .next (s.staleOn (s.returnPort p))) ∧
    (epoch = (s.girth p).epoch → s.entryOf h = some e → e.part = p → (s.girth p).st = .running → x.inFlight = true → e.st.active = true →
      (v.status = 0x0A → exec (.verdict p epoch v) s = .next (s.discardStep p h true 0x0A)) ∧
      (v.status ≠ 0x0A → e.pend = .cancel → exec (.verdict p epoch v) s = .next (s.discardStep p h false 0x09)) ∧
      (v.status = 0x06 → e.pend ≠ .cancel →
        exec (.verdict p epoch v) s = .next ((if v.brake then s.voidPromise h 1 else s).discardStep p h false 0x06)) ∧
      (∀ failed st, ((s.discardStep p h failed st).entry i).l = e.l ∧ ((s.discardStep p h failed st).entry i).status = st ∧
        ((s.discardStep p h failed st).entry i).st = (if failed then .failed else .done)) ∧
      (v.status ≠ 0x0A → v.status ≠ 0x06 → e.pend ≠ .cancel → CompletesWith (exec (.verdict p epoch v) s) (fun t =>
        let newL := if e.st = .decode then e.l + v.a + 1 else e.l + x.stepPos
        let final := e.st = .decode ∨ e.prompt ≤ newL
        (t.entry i).l = newL ∧ (t.entry i).tokens = (if final then e.tokens + v.toks.length else e.tokens) ∧
        (t.entry i).st = (if final then (if e.embed = true ∨ endsWith e x v.toks = true then .done else .decode) else e.st))))) ∧
  (∀ (s : State) (p h newL epoch : Nat) (toks : List Nat) (e : Entry), p < 16 → s.entryOf h = some e → e.part = p → s.isPommel p = false →
    let i := handleIdx h
    let x := s.extn i
    (epoch ≠ (s.girth p).epoch → ∀ r q, (s.girth p).record = some r → r.upPort = some q →
      exec (.commit p h newL epoch toks) s = .next (s.staleOn q)) ∧
    (epoch = (s.girth p).epoch → (x.inFlight = false ∨ newL < e.l ∨ e.l + x.stepPos < newL) →
      exec (.commit p h newL epoch toks) s = .next (s.rein p (.commit h newL))) ∧
    (epoch = (s.girth p).epoch → x.inFlight = true → e.l ≤ newL → newL ≤ e.l + x.stepPos →
      CompletesWith (exec (.commit p h newL epoch toks) s) (fun t =>
        (t.entry i).l = newL ∧ (t.extn i).inFlight = x.nextStep.isSome ∧ (t.extn i).stepPos = (x.nextStep.map (·.1)).getD 0 ∧
        (t.entry i).st = (if e.st = .prefill ∧ (x.carried.map (fun m => m.plen + m.tokens)).getD 0 ≤ newL then .decode else e.st) ∧
        t.said = s.said ++ [.rein p (.commit h newL)] ∧ (∀ k, k ≠ i → t.entry k = s.entry k))))

/-- In a running girth PAUSE_MIGRATE of a request in DECODE with no step and no draft run in flight, at the pommel one whose pause is pending,
puts it in PAUSED, notes L as its LPTR and counts the pause; at the pommel PEND is cleared, ROW is 0xFF and T_REF the expiry of its time
to live. A migration that had to wait is taken up again for a PAUSED request, and once no activity is more urgent and the blocks fit its
pool they leave for that place. SADDLEBAG_WRITE_DONE of a migrating PAUSED request frees its spans and marks the saddlebag data complete;
with failed blocks the event of the first of them is raised, their number its detail, and the spans stay. RESUME_READ of a RESUMING
request, each of whose blocks reads clean, writes the saved data into its spans, sets L to LPTR and enters DECODE; where one does not, it
goes back to PREFILL with L = 0, and KV is unchanged. That the event names the first failing block is the model's choice (log 137). (R159,
R160, R161, R163, R171, R194, R288, R294; derived) -/
def Obligations.PausesAndTheirReads : Prop :=
  ∀ (s : State) (p h : Nat) (e : Entry), p < 16 → s.entryOf h = some e → e.part = p →
    let i := handleIdx h
    let x := s.extn i
    (∀ wf, (s.girth p).st = .running → e.st = .decode → x.inFlight = false → x.draftAt = none → (s.isPommel p = true → e.pend = .pause) →
      CompletesWith (exec (.pauseMigrate p h wf) s) (fun t =>
        t.entry i = (if s.isPommel p then { e with st := .paused, pend := .none, row := 0xFF, tRef := (s.tick + 25000 * x.ttlMs) % 2 ^ 64 }
          else { e with st := .paused }) ∧
        (t.extn i).lptr = e.l ∧ (t.extn i).pepoch = (x.pepoch + 1) % 2 ^ 16 ∧ t.kv = s.kv)) ∧
    (∀ wf, (s.girth p).st = .running → e.st = .paused → x.migWait = true →
      exec (.pauseMigrate p h wf) s = .next (s.migrate p h wf).busyMark ∧
      (∀ a, wf = false → s.beyondMigration p = false → 0 < s.saddleBlocks p h → s.poolFit p (s.saddleBlocks p h) = some a →
        ((s.migrate p h wf).extn i).pool = a ∧ ((s.migrate p h wf).extn i).nblk = s.saddleBlocks p h ∧
        ((s.migrate p h wf).extn i).migrating = true ∧ (s.migrate p h wf).said.length = s.said.length + s.saddleBlocks p h)) ∧
    (e.st = .paused → x.migrating = true →
      CompletesWith (exec (.saddlebagWriteDone p h []) s) (fun t => (t.extn i).spans = [] ∧ (t.extn i).saved = s.spanCells p h ∧
        (t.extn i).poolData = true ∧ (t.extn i).migrating = false ∧ t.ledger = s.ledger ∧ t.kv = s.kv) ∧
      (∀ k ks, exec (.saddlebagWriteDone p h (k :: ks)) s = .next
        ((s.saddleEvent p h 0x0022 1 k (ks.length + 1)).setExt i { x with migrating := false, nblk := 0 }).busyMark)) ∧
    (e.st = .resuming → ∀ blocks : List (Option BagRead),
      let due := (if x.poolData then s.saddleList p h else []).zipIdx
      let clean := due.all (fun b => bagOk h x.pepoch b.1 ((blocks[b.2]?).getD none))
      (clean = true → CompletesWith (exec (.resumeRead p h blocks) s) (fun t =>
        t.entry i = { e with l := x.lptr, st := .decode } ∧ t.kv = (s.restoreCells h x.saved).kv)) ∧
      (clean = false → CompletesWith (exec (.resumeRead p h blocks) s) (fun t =>
        (t.entry i).st = .prefill ∧ (t.entry i).l = 0 ∧ t.kv = s.kv)))

/-- For a class G request at a position without a draft, the select stage ends the step with candidate 0, whatever the seed and the position
(no draw is made); candidate 0 of a ranked list is a token of the list above which none of its tokens ranks: the largest value, the lower
token ID among equal ones. (R215) -/
def Obligations.GreedyTakesTheBestCandidate : Prop :=
  (∀ (sel : List Nat) (seed pos : Nat) (c : Ranked) (cs : List Ranked), decideSlot false sel seed pos none (c :: cs) = .final c.1) ∧
  (∀ (l : List Ranked) (c : Ranked) (cs : List Ranked), rankSort l = c :: cs → c ∈ l ∧ ∀ x ∈ l, ranksAbove x c = false) ∧
  (∀ (a b : Ranked), ranksAbove a b = true ↔ (ltX b.2 a.2 = true ∨ (ltX a.2 b.2 = false ∧ ltX b.2 a.2 = false ∧ a.1 < b.1)))

/-- At the cantle AWL_GATHER of a cluster of the logit map whose banks are full and agree, for a request that is no EMBED request, appends one
gather list for that cluster: the 768 + nlow largest logits and then the other biased tokens, and empties the banks; where a logit exceeds
binary32 the list is marked and NUM_OVERFLOW raised. AWL_SELECT at the cantle, with every cluster's list of the front slot there and its
step in flight with slots left, takes those lists away and decides the slot; in a DECODE step that no fault has marked, by its draft and
its candidates. DRAFT_ROUND at the pommel: with no round begun it issues the draft run over position LD; when the logits awaited have come
the banks are emptied, those below L only take the round to the next position, and those from L on give the token of the next position,
until d_eff tokens are there or one is an end token, when the round is done. DRAFT_RECORD of the girth's epoch, on a port that carries it,
is held at the cantle and relayed by another member; one of another epoch is counted. (R202, R203, R204, R205, R206, R220, R221, R226,
R228, R255, R258; derived) -/
def Obligations.SelectionTakesItsLists : Prop :=
  (∀ (s : State) (c p : Nat) (ts : TableSet) (bs : List (LogitEnt × Nat × EngResv)), c < 16 → p < 16 →
    (s.part p).table = some ts → s.runs p = true → s.isCantle p = true → bit (s.part p).clusters c = true →
    ts.logit.any (fun e => e.cluster = c) = true → s.logitBanks ts c = some bs →
    let hdrs := bs.flatMap (fun x => x.2.2.hdrs)
    let h := hdrs.headD default
    let x := s.extn (handleIdx h.handle)
    let raw := bs.flatMap (fun y => entryLogits ts.vocab y.1 y.2.2)
    let bad := raw.any (fun y => y.2.isNone)
    let all := rankSort (raw.map (fun y => (y.1, y.2.getD (0, 0))))
    let n := 768 + nlow (s.biasOf p x.sel)
    let list := all.take n ++ (all.drop n).filter (fun y => (s.biasOf p x.sel).any (fun b => b.1 = y.1))
    hdrs.all (fun k => hdrAgree k h) = true → (x.carried.map (·.embed)).getD false = false →
    CompletesWith (exec (.awlGather c p) s) (fun t =>
      (t.part p).gathered = (s.part p).gathered ++ [⟨c, h, bad, list.map (fun y => (y.1, toBits y.2))⟩] ∧
      (∀ y ∈ bs, (t.cluster c).eng 66 y.1.rbuf y.2.1 = {}) ∧ t.ledger = s.ledger ∧ t.kv = s.kv ∧
      (bad = true → t.ev = (s.raise 0x0002 2 (some p) 0 0 0 h.handle).ev) ∧ (bad = false → t.ev = s.ev))) ∧
  (∀ (s : State) (p : Nat) (ts : TableSet) (g0 : Gather) (gs ls : List Gather) (m : ClaimMsg) (e : Entry), p < 16 →
    let i := handleIdx g0.hdr.handle
    let x := s.extn i
    let cs := (ts.logit.map (·.cluster)).eraseDups
    (s.part p).table = some ts → (s.part p).gathered = g0 :: gs → slotLists cs g0 (g0 :: gs) = some ls → x.carried = some m →
    s.entryOf g0.hdr.handle = some e → s.runs p = true → s.isCantle p = true → x.inFlight = true → x.seen < x.stepPos →
    let u := (s.setExt i { x with seen := x.seen + 1 }).setPart p { s.part p with gathered := dropSlot g0 cs (g0 :: gs) }
    exec (.awlSelect p) s = .next (u.selectSlot p ts m g0.hdr ls) ∧
    (m.embed = false → x.selDone = false → ls.any (·.bad) = false → m.handle = g0.hdr.handle → m.handle ∉ (s.part p).abort → e.st = .decode →
      u.selectSlot p ts m g0.hdr ls = u.takeDecision p m (e.l + 1) (g0.hdr.pos + 1)
        (decideSlot m.classS m.sel m.seed (g0.hdr.pos + 1)
          (if g0.hdr.pos + 1 < e.l + x.stepPos then x.drafts[g0.hdr.pos - e.l]? else none)
          (candidates m.sel (!m.classS || bit (nthW m.sel 3) 10) (u.biasOf p m.sel) (u.workingWear i) (ls.flatMap (·.pairs)))))) ∧
  (∀ (s : State) (p h : Nat) (vec : List Block) (ts : TableSet) (e : Entry), p < 16 → (s.part p).table = some ts → s.isPommel p = true →
    s.runs p = true → s.drafting p h = true → s.entryOf h = some e →
    let i := handleIdx h
    let x := s.extn i
    (s.draftBanks ts = none → x.draftAt = none → CompletesWith (exec (.draftRound p h vec) s) (fun t =>
      (t.extn i).draftAt = some x.ld ∧ (t.part p).draftRuns = (s.part p).draftRuns + 1 ∧ t.ledger = s.ledger ∧ t.kv = s.kv)) ∧
    (∀ bs q, s.draftBanks ts = some bs →
      let hdrs := bs.flatMap (fun y => y.2.2.hdrs)
      let logits := bs.flatMap (fun y => entryLogits ts.vocab y.1 y.2.2)
      hdrs.all (fun k => hdrAgree k (hdrs.headD default)) = true → (hdrs.headD default).handle = h → (hdrs.headD default).pos = q →
      x.draftAt = some q → e.pend ≠ .cancel → logits.any (fun y => y.2.isNone) = false →
      CompletesWith (exec (.draftRound p h vec) s) (fun t => t.ledger = s.ledger ∧ t.kv = s.kv ∧
        (q < e.l → (t.extn i).draftAt = some (q + 1) ∧ (t.extn i).drafts = x.drafts) ∧
        (e.l ≤ q →
          let n := min e.draft (e.maxlen - e.l - 2)
          let y := draftTok e.classS x.sel e.seed (q + 1) (rankSort (logits.map (fun y => (y.1, y.2.getD (0, 0)))))
          let drafts := if x.drafts.length < n then x.drafts ++ [y] else x.drafts
          let isOver := n ≤ drafts.length ∨ isEnd x.sel y.1 = true
          (t.extn i).drafts = drafts ∧ (t.extn i).draftAt = (if isOver then none else some (q + 1)) ∧
          (isOver → (t.extn i).drafted1 = true))))) ∧
  (∀ (s : State) (port g epoch : Nat) (dr : DraftRec), port < 8 → s.partOfLedger g < 16 → bit (s.port port).girths g = true →
    let p := s.partOfLedger g
    (epoch ≠ (s.girth p).epoch → exec (.draftRecord port g epoch dr) s = .next (s.staleOn port)) ∧
    (epoch = (s.girth p).epoch → (s.girth p).st = .running → s.isPommel p = false →
      (∀ e, s.isCantle p = true → s.entryOf dr.handle = some e → exec (.draftRecord port g epoch dr) s =
        .next (s.setExt (handleIdx dr.handle) { s.extn (handleIdx dr.handle) with drafts := dr.toks })) ∧
      (s.isCantle p = false → exec (.draftRecord port g epoch dr) s = .next (s.sendDraft p dr) ∧
        (s.sendDraft p dr).said = s.said ++ [.draft p dr])))

/-- Inserting a token into the ranked list puts no token above one that ranks above it: in the list that rankSort makes, no element is
followed at once by one that ranks strictly above it, and it holds the same tokens as the list it was made from. (R204; derived) -/
def Obligations.CandidatesAreRanked : Prop :=
  ∀ (l : List Ranked), (∀ x, (rankSort l).count x = l.count x) ∧
    ∀ (pre : List Ranked) (a b : Ranked) (post : List Ranked), rankSort l = pre ++ a :: b :: post → ranksAbove b a = false

/-- For a tile that stands at the stitch: NOP moves the stitcher to NEXT; ALT to ALT_NEXT when its flag is 1 and to NEXT when it is 0, once
the flag is valid; RECV opens the reservation with its first entry, count, producers, E_ref register and format in the bank of the run, no
credit used, and moves on, unless the reservation's last use is not complete or still read, when it waits; WAIT moves on when its
reservation of this run is complete and else waits. BEAT_END of a main or draft run counts the run, notes the tile's end in its beat when
the run is a main one whose header has LAST, takes the oldest beat away once every tile has ended it, and the tile's next run is a draft
run if one is due, else a main one; BEAT_END of a housekeeping sequence leaves the run count. What follows every event of a tile is settle
(credits that fall due, stitches issued to the units, grants at the edge, vectors fed in): it leaves every tile's WRs, tally slots, output
blocks, E_ref registers, passes in flight, column maps, steps, disputes, run count and headers, the arrays, the ledger and every byte of
memory alone. (R73, R76, R85, R87, R88, R91, R93, R94, R222; derived) -/
def Obligations.StitcherGoesOn : Prop :=
  (∀ (s : State) (t nx : Nat), s.Stands t ⟨nx, .nop⟩ → exec (.nop t) s = .next ((s.moveTo t nx).settle t)) ∧
  (∀ (s : State) (t nx an cond j wkind wi plane iblk : Nat), s.Stands t ⟨nx, .alt an cond j wkind wi plane iblk⟩ →
    (∀ f, (s.tile t).altFlag cond wkind plane iblk = some f → exec (.alt t) s = .next ((s.moveTo t (if f then an else nx)).settle t)) ∧
    ((s.tile t).altFlag cond wkind plane iblk = none → exec (.alt t) s = .next s)) ∧
  (∀ (s : State) (t nx rbuf kind base count nprod vreg ifmt : Nat), s.Stands t ⟨nx, .recv rbuf kind base count nprod vreg ifmt⟩ →
    let x := s.tile t
    let r : Resv := { tallyKind := kind = 1, base := bankEntry x.runs base, count, nprod, vreg := bankVreg x.runs vreg, ifmt := ifmt = 1
                      run := x.runs, seq := x.seq, draft := x.kind = .draft
                      senders := [], granted := false, hdrs := 0, filled := [], eref := 0, done := false }
    (x.recvWaits (bankEntry x.runs rbuf) = false → exec (.recv t) s = .next ((s.setTile t { x with
      resv := put (bankEntry x.runs rbuf) r x.resv, seq := x.seq + 1, at_ := nx }).settle t)) ∧
    (x.recvWaits (bankEntry x.runs rbuf) = true → exec (.recv t) s = .next s)) ∧
  (∀ (s : State) (t nx rbuf : Nat), s.Stands t ⟨nx, .wait rbuf⟩ →
    (∀ r, find? (bankEntry (s.tile t).runs rbuf) (s.tile t).resv = some r →
      (r.run = (s.tile t).runs → r.done = true → exec (.wait t) s = .next ((s.moveTo t nx).settle t)) ∧
      ((r.run ≠ (s.tile t).runs ∨ r.done = false) → exec (.wait t) s = .next s)) ∧
    (find? (bankEntry (s.tile t).runs rbuf) (s.tile t).resv = none → exec (.wait t) s = .next s)) ∧
  (∀ (s : State) (t nx : Nat), s.Stands t ⟨nx, .beatEnd⟩ →
    let x := s.tile t
    let p := s.partOfTile t
    let q := s.part p
    let bs := if x.kind = .main ∧ ((x.hdrOf x.runs).map (·.last)).getD false = true then noteEnded t q.beats else q.beats
    (x.kind ≠ .hk → CompletesWith (exec (.beatEnd t) s) (fun u =>
      (u.tile t).runs = x.runs + 1 ∧ (u.tile t).kind = (if s.draftDue t then .draft else .main) ∧
      (u.part p).beats = (if (s.setPart p { q with beats := bs }).beatOver p then bs.drop 1 else bs))) ∧
    (x.kind = .hk → CompletesWith (exec (.beatEnd t) s) (fun u =>
      (u.tile t).runs = x.runs ∧ (u.tile t).kind = (if s.draftDue t then .draft else .main) ∧ (u.part p).beats = q.beats))) ∧
  (∀ (s : State) (t k : Nat),
    let a := (s.settle t).tile k
    let b := s.tile k
    a.wrs = b.wrs ∧ a.slots = b.slots ∧ a.outBuf = b.outBuf ∧ a.eref = b.eref ∧ a.flight = b.flight ∧ a.trace = b.trace ∧
    a.colMaps = b.colMaps ∧ a.steps = b.steps ∧ a.disputes = b.disputes ∧ a.runs = b.runs ∧ a.hdrs = b.hdrs ∧
    (s.settle t).ledger = s.ledger ∧ (s.settle t).arrays = s.arrays ∧ (s.settle t).kv = s.kv ∧ (s.settle t).spill = s.spill ∧
    (s.settle t).staging = s.staging)

/-- A PASS whose blocks are present, whose WR no queued stitch still reads and whose arrays are calibrated and programming no row: with no row
driven on its plane, or a block with E8 = 0xFF, it issues no pass and the stitcher moves on; where the two blocks of a wide window have
different exponents, or a target WR holds another exponent, FMT_INVALID is raised and it moves on; otherwise it puts one pass of that
plane over the named window in flight (on the tracing arrays for kind 3), gives every target WR the block's exponent, unchecked, and moves
on. PASS_CODES_READY takes the oldest pass in flight, or on the tracing arrays, away and adds its window results into the WR of every
array it named; of the tracing arrays the WR is marked checked with the last pass into it. The arrays, KV and the ledger are unchanged.
(R27, R29, R32, R33, R50, R53, R78, R79, R82, R94, R398; derived) -/
def Obligations.PassesIssueAndComplete : Prop :=
  (∀ (s : State) (t nx wkind widx h plane iblk wr arrays : Nat), s.Stands t ⟨nx, .pass wkind widx h plane iblk wr arrays⟩ →
    let x := s.tile t
    let i := bankEntry x.runs iblk
    let r := bankWr x.runs wr
    let b := x.inBlk i
    let b2 := x.inBlk (i + 1)
    let drive := x.passDrive wkind h i plane
    let bad := (s.fmtInvalid (s.partOfTile t) t x.at_ (x.handleOf x.runs)).moveTo t nx
    x.present x.runs i = true → (wkind = 2 → x.present x.runs (i + 1) = true) → x.wrRead arrays r = false →
    (∀ a ∈ maskList arrays, (s.arr (s.servingArray (arrayAddr t a))).prog = none ∧ s.calOk (s.servingArray (arrayAddr t a)) = true) →
    ((b.e8 = 255 ∨ (wkind = 2 ∧ b2.e8 = 255) ∨ zeroFlag drive = true) → exec (.pass t) s = .next ((s.moveTo t nx).settle t)) ∧
    (b.e8 ≠ 255 → (wkind = 2 → b2.e8 ≠ 255) → zeroFlag drive = false →
      (windowExp wkind b b2 = none → exec (.pass t) s = .next (bad.settle t)) ∧
      (∀ e, windowExp wkind b b2 = some e →
        ((∃ a ∈ maskList arrays, ∃ k, (getD Wr.empty (wrKey a r) x.wrs).exp = some k ∧ k ≠ e) → exec (.pass t) s = .next (bad.settle t)) ∧
        ((∀ a ∈ maskList arrays, ∀ k, (getD Wr.empty (wrKey a r) x.wrs).exp = some k → k = e) →
          CompletesWith (exec (.pass t) s) (fun u =>
            let p : PassRec := { run := x.runs, wkind, widx, h, plane, iblk := i, wr := r, arrays := maskList arrays
                                 base := (windowRows wkind widx h).1, drive, e8 := e, codes := [] }
            (u.tile t).flight = (if wkind = 3 then x.flight else x.flight ++ [p]) ∧
            (u.tile t).trace = (if wkind = 3 then x.trace ++ [p] else x.trace) ∧
            (∀ a ∈ maskList arrays, (getD Wr.empty (wrKey a r) (u.tile t).wrs).exp = some e ∧
              (getD Wr.empty (wrKey a r) (u.tile t).wrs).checked = false) ∧
            u.arrays = s.arrays ∧ u.kv = s.kv ∧ u.ledger = s.ledger))))) ∧
  (∀ (s : State) (t : Nat) (tracing : Bool) (err : Analog) (p : PassRec) (rest : List PassRec), t < 1024 → s.runs (s.partOfTile t) = true →
    (if tracing then (s.tile t).trace else (s.tile t).flight) = p :: rest →
    CompletesWith (exec (.passCodesReady t tracing err) s) (fun u =>
      (u.tile t).flight = (if tracing then (s.tile t).flight else rest) ∧ (u.tile t).trace = (if tracing then rest else (s.tile t).trace) ∧
      u.arrays = s.arrays ∧ u.kv = s.kv ∧ u.ledger = s.ledger ∧
      (p.arrays.Nodup → p.wr < 4 → ∀ a ∈ p.arrays,
        let codes := s.passCodes (arrayAddr t a) p.base p.drive err
        getD Wr.empty (wrKey a p.wr) (u.tile t).wrs =
          { (getD Wr.empty (wrKey a p.wr) (s.tile t).wrs).addPass (getD [] a (s.tile t).colMaps) (s.withCodes p (arrayAddr t a) codes) codes
            with checked := tracing && !(rest.any (fun q => q.wr = p.wr && q.arrays.contains a)) })))

/-- KCMP at the head of its queue, with no pass into its register in flight, marks the WR of every named array whose passes compare clean as
checked and leaves its values; a WR with a disagreement stays as it is, and its disputes open in the tile. PROOF waits while an array it
names programs a row; else it proves every array of its mask in turn over basic window WIDX and moves on. Of one array: the proof is
skipped without known sums, with a PVEC that is not the array's own, or before its first calibration; with none of these, and no injection
armed on it, the proof is clean when every driven plane's codes agree with the known sums, and otherwise a dispute of the detector PROOF
opens in the tile for every driven plane that disagrees. (R29, R80, R81, R82, R326, R349, R353, R398; derived) -/
def Obligations.ComparesAndProofs : Prop :=
  (∀ (s : State) (t wr arrays : Nat) (q : QEnt) (rest : List QEnt), t < 1024 → (s.tile t).kcmpQ = q :: rest → q.op = .kcmp wr arrays → wr < 2 →
    s.runs (s.partOfTile t) = true →
    ((s.tile t).flight.any (fun p => p.wr = bankWr q.run wr && p.arrays.any ((maskList arrays).contains ·))) = false →
    CompletesWith (exec (.kcmp t) s) (fun u => ∀ a ∈ maskList arrays,
      let w := getD Wr.empty (wrKey a (bankWr q.run wr)) (s.tile t).wrs
      let w' := getD Wr.empty (wrKey a (bankWr q.run wr)) (u.tile t).wrs
      (s.wrDisputes t a w = [] → w' = { w with checked := true }) ∧
      (s.wrDisputes t a w ≠ [] → w' = w ∧ ∀ d ∈ s.wrDisputes t a w, d ∈ (u.tile t).disputes))) ∧
  (∀ (s : State) (t nx pvec widx arrays : Nat) (err : Analog), s.Stands t ⟨nx, .proof pvec widx arrays⟩ →
    ((∃ a ∈ maskList arrays, (s.arr (s.servingArray (arrayAddr t a))).prog ≠ none) → exec (.proof t err) s = .next s) ∧
    ((∀ a ∈ maskList arrays, (s.arr (s.servingArray (arrayAddr t a))).prog = none) → exec (.proof t err) s =
      .next ((((maskList arrays).foldl (fun s a => s.proofArray t a pvec widx (s.tile t).runs err) s).moveTo t nx).settle t))) ∧
  (∀ (s : State) (t a pvec k run : Nat) (err : Analog),
    let addr := arrayAddr t a
    let off := fun j => s.proofCols addr (s.passCodes addr (128 * k) (blockDrive (proofBlock pvec) j) err) (s.proofExpect addr k j)
    let driven := fun j => zeroFlag (blockDrive (proofBlock pvec) j) = false
    let skipped := (s.arr addr).sumsOk = false ∨ (s.arr addr).pb ≠ pvec ∨ s.calOk (s.servingArray addr) = false
    (skipped → s.proofArray t a pvec k run err = s) ∧
    (¬ skipped → s.ev.injProof.filter (fun y => y.1 = addr) = none →
      ((∀ j, j < 7 → driven j → off j = []) → s.proofArray t a pvec k run err = s.proofClean addr k) ∧
      (∀ j, j < 7 → driven j → off j ≠ [] → ∃ d ∈ ((s.proofArray t a pvec k run err).tile t).disputes,
        d.det = .proof ∧ d.array = a ∧ d.pass.plane = j ∧ d.pass.run = run ∧ d.cols = (off j).map (·.1))))

/-- When their conditions of R94 hold: TALLY drains the checked WRs of every named array (of the tracing arrays 62 and 63, those with no pass
left) into the tally slots of its run with the E_ref register VREG. SKIVE makes output block OBLK of the run from its tally slot and the
steps of its row, sets the tile's FB flag to the block's and releases the slot; a magnitude overflow ends the request at the end of the
beat. SEND with every destination's grant leaves its queue with the run's header: E_REF the largest E8 of its output blocks, or the E_ref
register VREG for a tally slot or forwarded input blocks; a tally slot is released. On PATH 7 the message goes to its port's edge router
and uses up the grant of its port and DBUF, on every other path it is launched to its members. BLOCKS holding COUNT is the model's choice
(log 128), and so is an output block that no SKIVE has written (a free value, log 3). (R54, R58, R61, R62, R74, R82, R83, R84, R94, R124,
R254; derived) -/
def Obligations.TalliesAreSkivedAndSent : Prop :=
  (∀ (s : State) (t tslot wr vreg arrays : Nat) (q : QEnt) (rest : List QEnt), t < 1024 → (s.tile t).tallyQ = q :: rest →
    q.op = .tally tslot wr vreg arrays → s.runs (s.partOfTile t) = true →
    (∀ a ∈ maskList arrays, if a < 62 then (getD Wr.empty (wrKey a (bankWr q.run wr)) (s.tile t).wrs).checked = true
      else (s.tile t).trace.any (fun p => p.wr = bankWr q.run wr && p.arrays.contains a) = false) →
    (s.tile t).vregReady q.run q.seq (bankVreg q.run vreg) = true →
    ((s.tile t).tallySlots q.run tslot arrays).any ((s.tile t).slotRead q.seq) = false →
    exec (.tally t) s = .next (((maskList arrays).foldl (fun s' a => s'.tallyArray (s.partOfTile t) t q.idx q.run tslot
      (getD 0 (bankVreg q.run vreg) (s.tile t).eref) a (bankWr q.run wr)) (s.setTile t { s.tile t with tallyQ := rest })).settle t)) ∧
  (∀ (s : State) (t tslot mode fmt eSt satMax zeroMax oblk steprow : Nat) (q : QEnt) (rest : List QEnt), t < 1024 →
    (s.tile t).skiveQ = q :: rest → q.op = .skive tslot mode fmt eSt satMax zeroMax oblk steprow → s.runs (s.partOfTile t) = true →
    (s.tile t).slotPending q.seq (bankEntry q.run tslot) = false → (s.tile t).tallyResvDone q.run q.seq (bankEntry q.run tslot) = true →
    (s.tile t).slotRead q.seq (bankEntry q.run tslot) = false → (s.tile t).outRead q.seq (bankEntry q.run oblk) = false →
    let k := skive (mode = 1) (fmt = 1) eSt satMax zeroMax ((s.tile t).skiveLanes (bankEntry q.run tslot) steprow)
    CompletesWith (exec (.skive t) s) (fun u =>
      find? (bankEntry q.run oblk) (u.tile t).outBuf = some k.blk ∧ (u.tile t).fb = k.blk.fb ∧
      (u.tile t).slots = del (bankEntry q.run tslot) (s.tile t).slots ∧ (u.tile t).wrs = (s.tile t).wrs ∧
      (k.overflow = true → (s.tile t).handleOf q.run ∈ (u.part (s.partOfTile t)).abort) ∧ u.arrays = s.arrays ∧ u.kv = s.kv)) ∧
  (∀ (s : State) (t src skind count path dest dbuf mcast part vreg first : Nat) (q : QEnt) (rest : List QEnt) (ts : TableSet) (h : VecHdr), t < 1024 →
    (s.tile t).sendQ = q :: rest → q.op = .send src skind count path dest dbuf mcast part vreg first →
    let x := s.tile t
    let p := s.partOfTile t
    s.runs p = true → (s.part p).table = some ts → x.hdrOf q.run = some h → x.sendReady q = true → s.sendWaits t q = [] →
    let i := bankEntry q.run src
    let blks := if skind = 0 then s.outBlocks x i count else ((List.range count).map (fun k => x.inBlk (i + k)), s)
    let lanes := (List.range 128).map (fun k => (getD Slot.empty i x.slots).lanes.getD k 0)
    let body : Payload := if skind = 1 then .tally lanes else .blocks blks.1
    let hdr := { h with eref := if skind = 0 then (blks.1.map (·.e8)).foldl max 0 else getD 0 (bankVreg q.run vreg) x.eref
                        blocks := count, part := decide (part = 1), first := first }
    let u := blks.2.setTile t { x with sendQ := rest, slots := if skind = 1 then del i x.slots else x.slots }
    (path = 7 → exec (.send t) s = .next (State.settle
      ((u.setGirth p { u.girth p with grants := (u.girth p).grants.erase (dest % 16, dbuf) }).setPart p
        { u.part p with egress := (u.part p).egress ++ [(dest % 16, dbuf, hdr, body)] }) t)) ∧
    (path ≠ 7 → exec (.send t) s = .next (State.settle (u.launch p (draftSender q.draft (stitchSender t q.idx))
        (if mcast = 1 ∧ path > 3 then dest else 1024) (pathChannel path) (if path > 4 then some ⟨t / 64, false⟩ else none) hdr body
        (sendMembers ts.groups t path dest dbuf mcast)) t)))

/-- INLAY asks the cluster's inlay engine for a request that binds an inlay, and commits at once, leaving its queue, for one that binds none.
INLAY_ENGINE_COMMIT ends the oldest INLAY of its cluster when its blocks and its E_ref register are ready and no earlier stitch reads the
slot: the differences of its segment are each aligned with the exponent of the block that holds their element, summed by lane and added
into the tally slot, and those below the span are counted; where the slot holds another E_ref, with no other containment in progress, a
restart of the partition is due with cause TALLY. With no other containment in progress, FAB_STALL of a ready SEND that lacks a grant
makes a restart of the partition due with cause FABRIC, LKIND 3 and the tile. (R58, R59, R86, R94, R125, R127, R341, R366; derived) -/
def Obligations.InlaysAndStalls : Prop :=
  (∀ (s : State) (t : Nat) (q : QEnt) (h : VecHdr), t < 1024 →
    (s.tile t).inlayQ.find? (fun q => !(s.cluster (t / 64)).inlayQ.contains (t, q.seq)) = some q → s.runs (s.partOfTile t) = true →
    (s.tile t).hdrOf q.run = some h →
    (∀ n, (s.extn (handleIdx h.handle)).inlay = some n →
      exec (.inlay t) s = .next (s.setCluster (t / 64) { s.cluster (t / 64) with inlayQ := (s.cluster (t / 64)).inlayQ ++ [(t, q.seq)] })) ∧
    ((s.extn (handleIdx h.handle)).inlay = none →
      exec (.inlay t) s = .next ((s.setTile t { s.tile t with inlayQ := (s.tile t).inlayQ.filter (fun y => y.seq ≠ q.seq) }).settle t))) ∧
  (∀ (s : State) (c t seq tslot seg iblk vreg maxnz : Nat) (q : QEnt) (rest : List (Nat × Nat)) (h : VecHdr), c < 16 →
    (s.cluster c).inlayQ = (t, seq) :: rest → (s.tile t).inlayQ.find? (fun q => q.seq = seq) = some q → q.op = .inlay tslot seg iblk vreg maxnz →
    let x := s.tile t
    let p := s.partOfTile t
    x.hdrOf q.run = some h → s.runs p = true → ((List.range 4).all (fun k => x.present q.run (bankEntry q.run iblk + k))) = true →
    x.vregReady q.run seq (bankVreg q.run vreg) = true → x.slotRead seq (bankEntry q.run tslot) = false →
    let eref := getD 0 (bankVreg q.run vreg) x.eref
    let ds := (getD [] ((s.extn (handleIdx h.handle)).inlay.getD 0) (s.part p).inlays).filter (fun d => d.tile = t && d.seg = seg)
    let terms := ds.map (fun d => (d.lane, x.inlayTerm eref (bankEntry q.run iblk) d))
    let lanes := (List.range 128).map (fun l => (terms.map (fun y => match y.2 with
      | .add a => if y.1 = l then a else 0
      | _ => 0)).sum)
    CompletesWith (exec (.inlayEngineCommit c) s) (fun u =>
      (u.cluster c).inlayQ = rest ∧ u.arrays = s.arrays ∧ u.ledger = s.ledger ∧
      (u.part p).spanUnder = satAdd 32 (s.part p).spanUnder (terms.countP (fun y => y.2 = .underflow)) ∧
      (∀ sl, (getD Slot.empty (bankEntry q.run tslot) x.slots).add eref lanes = some sl → find? (bankEntry q.run tslot) (u.tile t).slots = some sl) ∧
      ((getD Slot.empty (bankEntry q.run tslot) x.slots).add eref lanes = none → s.containment = false →
        (u.part p).restarting = some (1, 1, t * 64)))) ∧
  (∀ (s : State) (t : Nat) (q : QEnt) (rest : List QEnt), t < 1024 → (s.tile t).sendQ = q :: rest → s.runs (s.partOfTile t) = true →
    s.containment = false → (s.tile t).sendReady q = true → s.sendWaits t q ≠ [] →
    CompletesWith (exec (.fabStall t) s) (fun u => (u.part (s.partOfTile t)).restarting = some (6, 3, t) ∧ u.tiles = s.tiles))

/-- While the device is awake: a flit with an uncorrectable error on the rein channel makes a chip reset with cause 6 due. The next flit of a
copy goes as far as the routers' buffers have room, and waits where they have none; at its member a flit of an older epoch only counts as
stale; one with an error, with no other containment in progress, makes the partition's restart due with cause FABRIC and its cluster; one
that ends no piece (header, block or tallies) changes nothing but the copy; and one that ends a copy's last block, for a free entry of an
open reservation of a tile, puts it into that input-buffer entry, and the copy is gone. A number beyond the copies names a KV write:
without an error it has arrived and no byte changes; with one, in its epoch and before its step's commit, every byte of it reads as it did
before the write, and every other byte as now. SLICE_REFRESH in RUN, IDLE or REST notes the tick of the bank's refresh and changes nothing
else. The numbering of copies and KV writes is the model's (log 139). (R85, R110, R114, R115, R116, R123, R126, R127, R128, R148, R369;
derived) -/
def Obligations.PiecesAreDelivered : Prop :=
  (∀ (s : State) (n : Nat), s.awake = true →
    exec (.fabricFlitArrive n (some .rein)) s = .next (s.dueReset 6 0) ∧
    (∀ (ue : Option Channel) (cp : Copy), ue ≠ some .rein → s.fabric[n]? = some cp →
      let m := s.meshNext cp
      (m.2 = false → exec (.fabricFlitArrive n ue) s = .next m.1) ∧
      (m.2 = true → exec (.fabricFlitArrive n ue) s = .next
        ({ (m.1.flitIn cp ue.isSome).1 with fabric := replaceCopy m.1.fabric n (m.1.flitIn cp ue.isSome).2 } : State).meshPrune) ∧
      (m.2 = true → ue = none → cp.epoch = (s.part cp.part).epoch → cp.drop = false → cp.hdrIn = true → cp.dest.port < 64 →
        ∀ (b : Block) (r : Resv), cp.body = .blocks [b] → cp.bytes + cp.pieceBytes ≤ 64 * (cp.flits + 1) →
        let t := cp.dest.cluster * 64 + cp.dest.port
        let i := r.base + cp.hdr.first + (cp.index - 1)
        find? cp.dest.rbuf (s.tile t).resv = some r → r.done = false → r.tallyKind = false → i < r.base + r.count →
        (s.tile t).filledInRun r.run i = false → b.e8 ≠ 255 → (b.n8 = true → r.ifmt = true) →
        CompletesWith (exec (.fabricFlitArrive n none) s) (fun u =>
          find? i (u.tile t).inBuf = some { blk := b, rsv := cp.dest.rbuf } ∧ u.fabric = s.fabric.eraseIdx n ∧ u.parts = s.parts ∧
          u.arrays = s.arrays ∧ u.kv = s.kv))) ∧
    (∀ (ue : Option Channel) (w : KvWr), ue ≠ some .rein → s.fabric.length ≤ n → s.kvWr[n - s.fabric.length]? = some w →
      (ue = none → CompletesWith (exec (.fabricFlitArrive n ue) s) (fun u => u.kvWr = s.kvWr.eraseIdx (n - s.fabric.length) ∧ u.kv = s.kv)) ∧
      (ue ≠ none → w.epoch = (s.part w.part).epoch → Memory.wf s.kv = true → (w.was.map (·.1)).Nodup →
        (s.cluster w.cluster).wrote.contains (w.handle, w.layer, w.pos) = true →
        CompletesWith (exec (.fabricFlitArrive n ue) s) (fun u => (∀ x ∈ w.was, Memory.read u.kv x.1 = x.2) ∧
          (∀ a, a ∉ w.was.map (·.1) → Memory.read u.kv a = Memory.read s.kv a))))) ∧
  (∀ (s : State) (cp : Copy) (ue : Bool),
    (cp.epoch ≠ (s.part cp.part).epoch → s.flitIn cp ue = (s.countStale cp.part, ({ cp with flits := cp.flits + 1 } : Copy).open?)) ∧
    (cp.epoch = (s.part cp.part).epoch → ue = true → s.containment = false →
      ((s.flitIn cp ue).1.part cp.part).restarting = some (6, 3, cp.dest.cluster)) ∧
    (cp.epoch = (s.part cp.part).epoch → ue = false → cp.drop = false → 64 * (cp.flits + 1) < cp.bytes + cp.pieceBytes →
      (s.flitIn cp ue).1 = s)) ∧
  (∀ (s : State) (c bank : Nat), c < 16 → bank < 64 → (s.pwr.st = .run ∨ s.pwr.st = .idle ∨ s.pwr.st = .rest) →
    exec (.sliceRefresh c bank) s =
      .next (s.setCluster c { s.cluster c with refreshed := put bank s.tick (s.cluster c).refreshed }))

/-- When the descriptor at the head of a cluster's burnisher queue has the command's operation and can run: inputs whose headers disagree
fault the partition with cause 2 (HDR_MISMATCH); else, where its vectors lie in the 16 MiB spill region, ADD, RMSNORM, LNORM, ACT, GATE,
ROPE, SCALE and ROUTE use their banks up, raise NUM_OVERFLOW once for every block that cannot be emitted and send the blocks of their
values (addValues, rmsValues and so on, the model's reading of R134) to the group; ADD with WB also writes the sum at ADDR, and STORE
writes the input at ADDR and emits nothing. (R56, R62, R92, R103, R132, R133, R134, R135, R136, R156; derived) -/
def Obligations.BurnisherComputesItsOperation : Prop :=
  ∀ (s : State) (c op : Nat) (x : BurnIn), c < 16 → s.burnReady c op = some x →
    let fired := fun (vals : List (Option F32)) (n : Nat) (u : State) =>
      ((u.burnUsed x).numOverflow x.p x.hdr.handle (emitVec x.desc.ofmt vals n).2).engEmit x.p 64 c x.d x.desc.group x.draft
        (getD [] x.desc.group x.ts.groups) x.hdr (emitVec x.desc.ofmt vals n).1
    (x.agree = false → ∀ i ∈ [(1, Instr.add c), (2, .rmsnorm c), (3, .lnorm c), (4, .act c), (5, .gate c), (6, .rope c), (7, .scale c), (8, .route c),
        (9, .store c)], i.1 = op → exec i.2 s = .next (s.partFault x.p 2 3 (c + 2 ^ 4 * 64))) ∧
    (x.agree = true →
      (op = 1 → x.desc.addr + 4 * (128 * x.n) ≤ 2 ^ 24 →
        exec (.add c) s = .next (fired (addValues s x) x.n
          (if x.desc.wb then s.spillStore x.c x.desc.addr (addValues s x) else s))) ∧
      (op = 2 → x.desc.addr + 4 * (128 * x.n) ≤ 2 ^ 24 → exec (.rmsnorm c) s = .next (fired (rmsValues s x) x.n s)) ∧
      (op = 3 → x.desc.addr + 8 * (128 * x.n) ≤ 2 ^ 24 → exec (.lnorm c) s = .next (fired (lnValues s x) x.n s)) ∧
      (op = 4 → exec (.act c) s = .next (fired (actValues s x) x.n s)) ∧
      (op = 5 → exec (.gate c) s = .next (fired (gateValues s x) x.n s)) ∧
      (op = 6 → exec (.rope c) s = .next (fired (ropeValues s x) x.n s)) ∧
      (op = 7 → exec (.scale c) s = .next (fired (scaleValues s x) x.n s)) ∧
      (op = 8 → exec (.route c) s = .next (fired (routeValues s x) 2 s)) ∧
      (op = 9 → x.desc.addr + 4 * (128 * x.n) ≤ 2 ^ 24 →
        exec (.store c) s = .next (((s.spillStore x.c x.desc.addr (vecF x.a)).burnUsed x).numOverflow x.p x.hdr.handle
          (emitVec x.desc.ofmt (vecF x.a) x.n).2)))

/-- A firing of the burnisher leaves KV, staging memory, the ledger and the arrays alone. It stores to the spill region only with STORE, or
ADD with WB: then, with the spill memory in its canonical form, only the 4-byte values from ADDR on, in its own cluster's region; every
byte of the spill regions outside these, and every byte for an operation that stores nothing, reads as before. (R103, R134; derived) -/
def Obligations.BurnisherStoresOnlyItsVector : Prop :=
  ∀ (s u : State) (c : Nat) (i : Instr), c < 16 →
    i ∈ [Instr.add c, .rmsnorm c, .lnorm c, .act c, .gate c, .rope c, .scale c, .route c, .store c] → exec i s = .next u →
    u.kv = s.kv ∧ u.staging = s.staging ∧ u.ledger = s.ledger ∧ u.arrays = s.arrays ∧
    (Memory.wfZ s.spill = true → ∀ x op, s.burnReady c op = some x → ((i = .add c ∧ op = 1 ∧ x.desc.wb = true) ∨ (i = .store c ∧ op = 9)) →
      ∀ a, (a < spillKey x.c x.desc.addr ∨ spillKey x.c x.desc.addr + 4 * (128 * x.n) ≤ a) →
        Memory.readZ u.spill a = Memory.readZ s.spill a) ∧
    ((∀ x, s.burnReady c 1 = some x → i = .add c → x.desc.wb = false) → i ≠ .store c → u.spill = s.spill)

/-- When the descriptor at the head of a cluster's attention queue has the command's operation and can run, its headers agree, its handle is
an entry of the partition, and no commit that R148 has it wait for is due: ATTN, with a region for its layer, at a position below MAXLEN
whose earlier positions from L on (LD in a draft run) are written, writes its keys and values and emits attention over the window; STLOAD
emits the working copy if the step has stored one, else the committed copy; STSTORE at the position that is due writes the working copy,
notes the position and sends its blocks to the slice; DISPATCH sends x to the members of the selected experts and zero blocks to the
others, and raises NUM_OVERFLOW for blocks that cannot be emitted only where an expert is selected; COMBINE emits the gated sum. (R142,
R143, R146, R148, R150, R151, R154, R155, R156, R157, R158, R220; derived) -/
def Obligations.AttentionWritesAndReads : Prop :=
  ∀ (s : State) (c op : Nat) (x : AttnIn) (e : Entry), c < 16 → s.attnReady c op = some x → x.agree = true → s.attnEntry x = some e →
    let ex := s.extn (handleIdx x.hdr.handle)
    let l := if x.draft then ex.ld else e.l
    let n := x.desc.nx + 1
    let last := s.storedAt c x.hdr.handle x.desc.layer
    let emitted := fun (vals : List (Option F32)) (k : Nat) (u : State) =>
      ((u.attnUsed x).numOverflow x.p x.hdr.handle (emitVec x.desc.ofmt vals k).2).attnEmit x (emitVec x.desc.ofmt vals k).1
    (∀ region, s.layerRegion x.ts c x.hdr.handle x.desc.layer = some region →
      (op = 1 → (x.draft = true ∨ ex.commitDue e.l x.hdr.pos (s.wroteAt c x.hdr.handle x.desc.layer x.hdr.pos) = false) →
        x.hdr.pos < e.maxlen → l ≤ x.hdr.pos → (∀ q, l ≤ q → q < x.hdr.pos → s.wroteAt c x.hdr.handle x.desc.layer q = true) →
        let w := s.attnWrite x region (spanLen e.maxlen)
        exec (.attn c) s = .next (emitted (w.attnValues x region (spanLen e.maxlen)
          (if x.desc.win = 0 then 0 else x.hdr.pos + 1 - x.desc.win)) (x.desc.g * x.nb) w)) ∧
      (op = 2 → ex.commitDue e.l x.hdr.pos ((last.map (fun q => decide (x.hdr.pos ≤ q))).getD false) = false →
        exec (.stload c) s = .next ((s.attnUsed x).attnEmit x ((List.range n).map (fun b =>
          s.kvRead (region + (stateOff (if last.isSome then 1 else 0) b).1) (region + (stateOff (if last.isSome then 1 else 0) b).2))))) ∧
      (op = 3 → ex.commitDue e.l x.hdr.pos false = false → x.hdr.pos < e.maxlen → x.hdr.pos = (last.map (· + 1)).getD e.l →
        CompletesWith (exec (.ststore c) s) (fun u =>
          u.kv = ((List.range n).foldl (fun s b =>
            s.kvWrite (region + (stateOff 1 b).1) (region + (stateOff 1 b).2) (x.x.getD b (zeroBlock true))) s).kv ∧
          (u.cluster c).stored.head? = some (x.hdr.handle, x.desc.layer, x.hdr.pos) ∧ u.kvWr.length = s.kvWr.length + n ∧
          u.spill = s.spill ∧ u.ledger = s.ledger ∧ u.tiles = s.tiles))) ∧
    (op = 4 →
      let out := emitVec x.desc.ofmt ((elemsX x.x 0 (128 * n)).map some) n
      let some_ := (List.range (x.desc.nexp + 1)).any (gateOn x.q)
      exec (.dispatch c) s = .next ((List.range (x.desc.nexp + 1)).foldl (fun u k =>
        match (getD [] (x.desc.group + k / 64) x.ts.groups)[k % 64]? with
        | some m => u.engEmit x.p 65 c x.d (x.desc.group + k / 64) x.draft [m] x.hdr
            (if gateOn x.q k then out.1 else List.replicate n (zeroBlock x.desc.ofmt))
        | none => u) ((s.attnUsed x).numOverflow x.p x.hdr.handle (if some_ then out.2 else 0)))) ∧
    (op = 5 → exec (.combine c) s = .next (emitted (combineValues x) n s))

/-- Writing a block of N8 elements into a key-value or state record and reading it back at the same place gives its exponent and elements (a
block with exponent 0 reads as zero elements); every KV byte outside the 128 element bytes and the exponent byte reads as before, and
nothing else of the device changes but KV. (R142, R143, R146, R154, R155; derived) -/
def Obligations.KvChangesOnlyInItsRegion : Prop :=
  ∀ (s : State) (elem exp : Nat) (b : Block), b.e8 < 256 → b.elems.length = 128 → (exp < elem ∨ elem + 128 ≤ exp) →
    (∀ a, a ≠ exp → (a < elem ∨ elem + 128 ≤ a) → Memory.readFree (s.kvWrite elem exp b).kv a = Memory.readFree s.kv a) ∧
    ((s.kvWrite elem exp b).kvRead elem exp).e8 = b.e8 ∧
    ((s.kvWrite elem exp b).kvRead elem exp).elems = (if b.e8 = 0 then List.replicate 128 0 else b.elems) ∧
    s.kvWrite elem exp b = { s with kv := (s.kvWrite elem exp b).kv }

/-- An ATTN or STSTORE that is ready, waits for no commit and is at or beyond MAXLEN writes no KV byte, and its request ends FAULT_ABORT at
the end of the beat. With no other containment in progress, one below MAXLEN that skips an unwritten position (from L on, or from LD for
an ATTN of a draft run), lies before that pointer, or, for an STSTORE, is not at the position that is due, makes a restart of its
partition with cause 7 due and writes no KV byte. That a firing which is both raises KV_RANGE alone is the model's choice (log 132).
(R147, R148, R155, R220, R365; derived) -/
def Obligations.MissingPositionsAndRanges : Prop :=
  ∀ (s : State) (c op : Nat) (x : AttnIn) (e : Entry), c < 16 → s.attnReady c op = some x → x.agree = true → s.attnEntry x = some e →
    let ex := s.extn (handleIdx x.hdr.handle)
    let l := if x.draft then ex.ld else e.l
    let due := ((s.storedAt c x.hdr.handle x.desc.layer).map (· + 1)).getD e.l
    let loc := c + 2 ^ 8 * x.desc.layer
    (op = 1 → (x.draft = true ∨ ex.commitDue e.l x.hdr.pos (s.wroteAt c x.hdr.handle x.desc.layer x.hdr.pos) = false) →
      (e.maxlen ≤ x.hdr.pos → CompletesWith (exec (.attn c) s) (fun u => x.hdr.handle ∈ (u.part x.p).abort ∧ u.kv = s.kv)) ∧
      (x.hdr.pos < e.maxlen → s.containment = false →
        (x.hdr.pos < l ∨ ∃ q, l ≤ q ∧ q < x.hdr.pos ∧ s.wroteAt c x.hdr.handle x.desc.layer q = false) →
        CompletesWith (exec (.attn c) s) (fun u => (u.part x.p).restarting = some (7, 3, loc) ∧ u.kv = s.kv))) ∧
    (op = 3 → s.layerRegion x.ts c x.hdr.handle x.desc.layer ≠ none → ex.commitDue e.l x.hdr.pos false = false →
      (e.maxlen ≤ x.hdr.pos → CompletesWith (exec (.ststore c) s) (fun u => x.hdr.handle ∈ (u.part x.p).abort ∧ u.kv = s.kv)) ∧
      (x.hdr.pos < e.maxlen → s.containment = false → x.hdr.pos ≠ due →
        CompletesWith (exec (.ststore c) s) (fun u => (u.part x.p).restarting = some (7, 3, loc) ∧ u.kv = s.kv)))

/-- While the device serves, COMMAND_FETCH of an enabled ring with an entry and fewer than 64 commands in flight reads the 64-byte packet at
SQ_BASE + 64 · head, appends it as the newest command and advances the head; a read error sets FETCH and raises RING_ERR, and the entry
stays. UNSUPPORTED_OPCODE replies UNSUPPORTED to a next command whose opcode is not listed. CQ_WRITE with a free CQ entry takes the oldest
pending entry, writes its 32 bytes with the phase at CQ_BASE + 32 · tail and advances the tail, the phase turning on wrap, and its vector
is due where no holdoff runs. MSIX_RAISE sends a due vector once, and one whose holdoff has ended with entries written since, and brings
the device out of REST. (R271, R277, R278, R280, R282, R284, R287, R290, R291, R295, R417, R437; derived) -/
def Obligations.RingsFetchAndPost : Prop :=
  (∀ (s : State) (b : Nat) (h : HostMem), b < 17 → s.serves = true → (s.ring b).en = true → (s.ring b).sqHead ≠ (s.ring b).sqTail →
    s.inflight b < 64 →
    let a := (s.ring b).sqBase + 64 * (s.ring b).sqHead
    CompletesWith (exec (.commandFetch b h false) s) (fun t =>
      t.host.fetched = s.host.fetched ++
        [{ src := .ring b, words := (List.range 16).map (wordAt (s.readMem h a 64)), running := false, lost := false }] ∧
      t.ring b = { s.ring b with sqHead := ((s.ring b).sqHead + 1) % 2 ^ (s.ring b).sqLog2 } ∧ (∀ k, k ≠ b → t.ring k = s.ring k) ∧
      t.ledger = s.ledger ∧ t.out = (s.asks a 64).out) ∧
    CompletesWith (exec (.commandFetch b h true) s) (fun t =>
      t.ring b = { s.ring b with fetchErr := true } ∧ t.host.fetched = s.host.fetched ∧ t.out = s.out ∧
      t.ev.log = (s.raise 0x0051 1 none 3 b (({ s.ring b with fetchErr := true } : Ring).errBits)).ev.log)) ∧
  (∀ (s : State) (b : Nat) (c : Fetched), b < 17 → s.serves = true → s.nextOf b [] s.host.fetched = some c → opListed (pktOp c.words) = false →
    exec (.unsupportedOpcode b) s = .next (s.reply c.src c.words 0x0E)) ∧
  (∀ (s : State) (b : Nat) (e : List Nat) (rest : List (List Nat)), b < 17 → (s.ring b).cqWait = e :: rest → s.hostRuns = true →
    (s.ring b).en = true → ringFree (s.ring b).cqLog2 (s.ring b).cqHead (s.ring b).cqTail = true →
    let w := s.writeMem ((s.ring b).cqBase + 32 * (s.ring b).cqTail) (wordBytes (withPhase (s.ring b).cqPhase 0 e))
    let n := ((s.ring b).cqTail + 1) % 2 ^ (s.ring b).cqLog2
    CompletesWith (exec (.cqWrite b) s) (fun t =>
      t.out = w.out ∧ t.staging = w.staging ∧ (t.ring b).cqWait = rest ∧ (t.ring b).cqTail = n ∧
      (t.ring b).cqPhase = (if n = 0 then !(s.ring b).cqPhase else (s.ring b).cqPhase) ∧
      (s.vecReady (s.ring b).holdUs (s.ring b).cqRaised = true → cqVector b ∈ t.host.vecRaised) ∧ t.ledger = s.ledger)) ∧
  (∀ (s : State) (v : Nat), v < 36 →
    let u := s.leaveRest
    (v ∈ s.host.vecRaised → exec (.msixRaise v) s =
      .next (({ u with host := { u.host with vecRaised := u.host.vecRaised.filter (· ≠ v) } }).emit (.msix v))) ∧
    (∀ b, v ∉ s.host.vecRaised → vectorRing v = some (b, false) → (s.ring b).cqNew = true →
      s.vecReady (s.ring b).holdUs (s.ring b).cqRaised = true → exec (.msixRaise v) s =
      .next (((s.setRing b { s.ring b with cqNew := false, cqRaised := some s.tick }).leaveRest).emit (.msix v))) ∧
    (∀ b, v ∉ s.host.vecRaised → vectorRing v = some (b, true) → (s.ring b).tqNew = true →
      s.vecReady (s.ring b).holdUs (s.ring b).tqRaised = true → exec (.msixRaise v) s =
      .next (((s.setRing b { s.ring b with tqNew := false, tqRaised := some s.tick }).leaveRest).emit (.msix v))))

/-- At the cantle, with the TQ enabled and an entry free: the next record of a step that is not late, or whose request has LATE_OK, leaves the
queue, the tail advances, the history bytes are written at the record's history address and then the 16-byte TQ entry with LATE, BRAKE and
the phase in its word 1 at TQ_BASE + 16 · tail, and the record that ends its step sends the step's verdict. The first record of a step
that is late for a request with LATE_OK = 0 posts nothing; the records of its step leave the queue and its verdict goes out with no token
and DEADLINE_MISSED. (R174, R177, R197, R291, R292; derived) -/
def Obligations.TokenRecordsArePosted : Prop :=
  ∀ (s : State) (p : Nat) (r : TokRec) (rest : List TokRec), p < 16 → (s.ring p).tqWait = r :: rest → s.hostRuns = true → s.runs p = true →
    (s.ring p).en = true → ringFree (s.ring p).tqLog2 (s.ring p).tqHead (s.ring p).tqTail = true →
    let k := s.ring p
    let x := s.extn (handleIdx r.handle)
    let braked := s.stepBraked r.handle
    let late := if r.first then s.stepMissed p r.handle else x.late1
    let lateOk := (x.carried.map (·.lateOk)).getD false
    let w1 := nthW r.words 1 + 2 ^ 18 * b2n late + (if braked = true ∧ bit (nthW r.words 1) 20 = false then 2 ^ 20 else 0)
    ((r.first = false ∨ late = false ∨ lateOk = true) →
      CompletesWith (exec (.tokenRecordPost p) s) (fun t =>
        (t.ring p).tqWait = rest ∧ (t.ring p).tqTail = (k.tqTail + 1) % 2 ^ k.tqLog2 ∧
        t.said = ((s.writeMem r.histAddr r.histData).writeMem (k.tqBase + 16 * k.tqTail)
          (wordBytes (withPhase k.tqPhase 1 (r.words.set 1 w1)))).said ++
          (match r.verdict with
            | some v => [.verdict p { v with late, brake := v.brake || braked }]
            | none => []) ∧
        t.ledger = s.ledger ∧ t.kv = s.kv)) ∧
    (r.first = true → late = true → lateOk = false →
      CompletesWith (exec (.tokenRecordPost p) s) (fun t =>
        (t.ring p).tqWait = dropStep (r :: rest) ∧ (t.ring p).tqTail = k.tqTail ∧ (t.extn (handleIdx r.handle)).missed = true ∧
        t.said = s.said ++ (match stepVerdict (r :: rest) with
          | some v => [.verdict p { v with a := 0, toks := [], late := true, status := 0x06, brake := v.brake || braked }]
          | none => []) ∧
        t.ledger = s.ledger ∧ t.kv = s.kv))

/-- A write that reaches its register acts on the device as the write finds it (an access outside the always-on regions has taken it out of
REST). RING_ENABLE of a disabled ring with good bases and, for a partition's block, a defined partition sets EN and every index to 0 and
both write phases to 1; without the partition it sets NOPART, with a bad base BAD_CFG; of an enabled ring it changes nothing. RING_DISABLE
with nothing in flight and no request active clears EN, and else sets EN_BUSY. A doorbell of an enabled ring whose index lies in the ring
and does not pass the other side's index moves the SQ tail, CQ head or TQ head there; any other sets DB_RANGE and moves nothing. The
management block has no TQ doorbell: that access is logged. (R277, R278, R279, R281, R437; derived) -/
def Obligations.RingRegistersAct : Prop :=
  ∀ (s : State) (b v : Nat) (tr : Bool), b < 17 →
    (s.Reaches (ringOff b 0x1C) 2 tr →
      let u := s.touch (ringOff b 0x1C)
      let r := u.ring b
      let bases := baseOk r.sqBase = true ∧ baseOk r.cqBase = true ∧ baseOk r.tqBase = true
      (r.en = false → (b = 16 ∨ (u.part b).defined = true) → bases → exec (.ringEnable b tr) s = .next (u.setRing b { r with
        en := true, sqHead := 0, sqTail := 0, cqHead := 0, cqTail := 0, tqHead := 0, tqTail := 0, cqPhase := true, tqPhase := true })) ∧
      (r.en = false → b ≠ 16 → (u.part b).defined = false → exec (.ringEnable b tr) s = .next (u.ringErr b 4)) ∧
      (r.en = false → (b = 16 ∨ (u.part b).defined = true) → ¬ bases → exec (.ringEnable b tr) s = .next (u.ringErr b 1)) ∧
      (r.en = true → exec (.ringEnable b tr) s = .next u) ∧
      (r.en = true → u.inflight b = 0 → (b < 16 → u.ringUsed b = false) →
        exec (.ringDisable b tr) s = .next (u.setRing b { r with en := false })) ∧
      (r.en = true → (u.inflight b ≠ 0 ∨ (b < 16 ∧ u.ringUsed b = true)) → exec (.ringDisable b tr) s = .next (u.ringErr b 3)) ∧
      (r.en = false → exec (.ringDisable b tr) s = .next u)) ∧
    (s.Reaches (dbOff b 0) 3 tr →
      let u := s.touch (dbOff b 0)
      let r := u.ring b
      let i := v % 2 ^ 16
      let ok := r.en = true ∧ i < 2 ^ r.sqLog2 ∧ ringDist r.sqLog2 r.sqTail i ≤ 2 ^ r.sqLog2 - 1 - ringDist r.sqLog2 r.sqHead r.sqTail
      (ok → exec (.sqDb b v tr) s = .next (u.setRing b { r with sqTail := i })) ∧ (¬ ok → exec (.sqDb b v tr) s = .next (u.ringErr b 0))) ∧
    (s.Reaches (dbOff b 1) 3 tr →
      let u := s.touch (dbOff b 1)
      let r := u.ring b
      let i := v % 2 ^ 16
      let ok := r.en = true ∧ i < 2 ^ r.cqLog2 ∧ ringDist r.cqLog2 r.cqHead i ≤ ringDist r.cqLog2 r.cqHead r.cqTail
      (ok → exec (.cqDb b v tr) s = .next (u.setRing b { r with cqHead := i })) ∧ (¬ ok → exec (.cqDb b v tr) s = .next (u.ringErr b 0))) ∧
    (s.Reaches (dbOff b 2) 3 tr →
      let u := s.touch (dbOff b 2)
      let r := u.ring b
      let i := v % 2 ^ 16
      let ok := r.en = true ∧ i < 2 ^ r.tqLog2 ∧ ringDist r.tqLog2 r.tqHead i ≤ ringDist r.tqLog2 r.tqHead r.tqTail
      (ok → exec (.tqDb b v tr) s = .next (u.setRing b { r with tqHead := i })) ∧ (¬ ok → exec (.tqDb b v tr) s = .next (u.ringErr b 0))) ∧
    (s.barOn = true → exec (.tqDb 16 v tr) s = .next ((s.touch (dbOff 16 2)).logAccess (dbOff 16 2) 3 1 true))

/-- A message sent takes the device out of REST. MBX_SEND that reaches an empty mailbox holds the sixteen staging words and notes the tick;
with a message held it sets REJECT, an AER error follows and the held message stays. MBX_WITHDRAW empties the mailbox. MBX_TAKE of a
mirror's message (with the trusted stream where the mirror is a secure one's) returns its last word and empties the mirror; without the
trusted stream it reads zero and is logged; a mirror no message has been taken from reads 0 while empty, and one that is empty again an
open value (log 3). MBX_COMMAND_TAKE takes a held message out and carries it out when the firmware runs and the mirror is empty.
MBX_TIMEOUT of a message held TMO_MS sets TIMEOUT, once for each message, and makes vector 2 due. ON_DIE_MBX_WRITE to an empty on-die
mailbox stores the words, and to a full one answers a bus error and stores nothing. (R101, R102, R301, R302, R303, R304, R305, R437;
derived) -/
def Obligations.MailboxesHoldOneMessage : Prop :=
  (∀ (s : State) (m : Nat) (tr : Bool), m < 4 → s.Reaches (mbxOff m 0x40) 2 tr →
    let u := s.leaveRest
    ((u.mbx m).held = none → exec (.mbxSend m tr) s = .next (u.setMbx m { u.mbx m with
      held := some (padW 16 (u.mbx m).staging), since := u.tick, tmoDone := false })) ∧
    ((u.mbx m).held ≠ none →
      CompletesWith (exec (.mbxSend m tr) s) (fun t =>
        t.mbx m = { u.mbx m with reject := true } ∧ t.out = s.out ++ [.aer (mbxOff m 0x40)])) ∧
    exec (.mbxWithdraw m tr) s = .next (s.setMbx m { s.mbx m with held := none })) ∧
  (∀ (s : State) (m : Nat) (tr : Bool), 4 ≤ m → m < 8 → s.barOn = true →
    ((6 ≤ m ∨ (s.trusted = true ∧ tr = true)) →
      (∀ ws, (s.mbx m).held = some ws → exec (.mbxTake m tr) s =
        .next ((s.emit (.readData (mbxOff m 0x3C) (nthW ws 15))).setMbx m { s.mbx m with held := none, taken := true })) ∧
      ((s.mbx m).held = none → (s.mbx m).taken = false → exec (.mbxTake m tr) s = .next (s.emit (.readData (mbxOff m 0x3C) 0))) ∧
      ((s.mbx m).held = none → (s.mbx m).taken = true →
        CompletesWith (exec (.mbxTake m tr) s) (fun t => ∃ n, n < 2 ^ 32 ∧ t.out = s.out ++ [.readData (mbxOff m 0x3C) n]))) ∧
    (m < 6 → (s.trusted = false ∨ tr = false) →
      exec (.mbxTake m tr) s = .next ((s.emit (.readData (mbxOff m 0x3C) 0)).logAccess (mbxOff m 0x3C) 2 2 false))) ∧
  (∀ (s : State) (m : Nat) (h : HostMem) (w : List Nat), m < 4 → (s.mbx m).held = some w → s.mbxRuns = true → (s.mbx (m + 4)).held = none →
    exec (.mbxCommandTake m h) s = .next ((s.setMbx m { s.mbx m with held := none }).mbxCommand m w)) ∧
  (∀ (s : State) (m : Nat), m < 8 → (s.mbx m).held ≠ none →
    ((s.mbx m).tmoDone = false → (s.mbx m).since + 25000 * max 1 s.host.tmoMs ≤ s.tick →
      CompletesWith (exec (.mbxTimeout m) s) (fun t => t.mbx m = { s.mbx m with timeout := true, tmoDone := true } ∧
        2 ∈ t.host.vecRaised ∧ t.out = s.out)) ∧
    ((s.mbx m).tmoDone = true → exec (.mbxTimeout m) s = .next s)) ∧
  (∀ (s : State) (c : Nat) (up : Bool) (ws : List Nat), c < 16 →
    (find? (2 * c + (if up then 0 else 1)) s.host.onDie = none →
      exec (.onDieMbxWrite c up ws) s =
        .next { s with host := { s.host with onDie := put (2 * c + (if up then 0 else 1)) ws s.host.onDie } }) ∧
    (find? (2 * c + (if up then 0 else 1)) s.host.onDie ≠ none → exec (.onDieMbxWrite c up ws) s = .next (s.emit .busError)))

/-- A write that reaches a register outside the debug region has the effect of writeReg on the value cut to its width; PERIOD_WRITE, INJECT_*
(nothing in confidential mode), LW_ENABLE, LW_RETRAIN and DORMANT_REQUEST are such writes. An access that reaches no register is logged
with its cause, a read of that kind returns zero, and a write outside the trusted stream while one is required is discarded. RC_READ of a
register outside the debug region, but for a secure mailbox's outside the trusted stream, which reads zero and is logged, returns the
value that State gives it (readReg), and of ACC_CNT, BRK_CNT and NOTICE_LOST the count, which it clears; MODE, PWR_STAT, CLK_STAT and
FP_SAFE read as their fields. A register value that the manual leaves open, and DATA15 of a mirror, are not claimed here. (R6, R7, R8, R9,
R275, R276, R303, R385, R418, R428, R436, R445; derived) -/
def Obligations.RegisterAccessesAct : Prop :=
  (∀ (s : State) (off size v : Nat) (tr : Bool), s.Reaches off size tr → inDebug off = false →
    exec (.registerWrite off size v tr) s = .next ((s.touch off).writeReg off (v % 2 ^ (8 * 2 ^ size)))) ∧
  (∀ (s : State) (off size v c : Nat) (wr tr : Bool), s.barOn = true → inDebug off = false → (s.touch off).accessCause off size tr = some c →
    exec (.registerWrite off size v tr) s = .next ((s.touch off).logAccess off size c true) ∧
    exec (.accessErr off size wr tr) s = .next ((if wr then s.touch off else (s.touch off).emit (.readData off 0)).logAccess off size c wr)) ∧
  (∀ (s : State) (off size v : Nat), s.barOn = true → inDebug off = false → (s.touch off).accessCause off size false = none →
    (s.touch off).trusted = true → teeOpen off = false → exec (.registerWrite off size v false) s = .next ((s.touch off).teeRefuse off)) ∧
  (∀ (s : State) (v a c : Nat) (tr : Bool),
    (s.Reaches 0x40000 2 tr → exec (.periodWrite v tr) s = .next ((s.touch 0x40000).writeHkCtrl v)) ∧
    (s.Reaches 0x30040 2 tr →
      (s.host.conf = false →
        CompletesWith (exec (.injectKeep a c tr) s) (fun t => t.ev.injKeep = some (a % 2 ^ 16, c % 2 ^ 8)) ∧
        CompletesWith (exec (.injectProof a c tr) s) (fun t => t.ev.injProof = some (a % 2 ^ 16, c % 2 ^ 8)) ∧
        CompletesWith (exec (.injectCe a c tr) s) (fun t => t.ev.injCe = some (a % 2 ^ 16))) ∧
      (s.host.conf = true → ∀ i ∈ [Instr.injectKeep a c tr, .injectProof a c tr, .injectCe a c tr], exec i s = .next (s.touch 0x30040)))) ∧
  (∀ (s : State) (p : Nat) (on tr : Bool), p < 8 → s.Reaches (portOff p 0) 2 tr →
    exec (.lwEnable p on tr) s = .next ((s.touch (portOff p 0)).portEnable p on) ∧
    exec (.lwRetrain p tr) s = .next ((s.touch (portOff p 0)).portRetrain p)) ∧
  (∀ (s : State) (tr : Bool), s.Reaches 0x60000 2 tr → exec (.dormantRequest tr) s = .next s.askDormant) ∧
  (∀ (s : State) (tr : Bool), s.barOn = true →
    exec (.rcRead 0x30 tr) s = .next { s.emit (.readData 0x30 s.host.accCnt) with host := { s.host with accCnt := 0 } } ∧
    exec (.rcRead 0x6001C tr) s = .next { s.emit (.readData 0x6001C s.pwr.brkCnt) with pwr := { s.pwr with brkCnt := 0 } } ∧
    exec (.rcRead 0x12C tr) s = .next ((s.emit (.readData 0x12C (s.ring 16).noticeLost)).setRing 16 { s.ring 16 with noticeLost := 0 }) ∧
    (∀ p, p < 16 → let u := s.touch (ringOff p 0x2C)
      exec (.rcRead (ringOff p 0x2C) tr) s =
        .next ((u.emit (.readData (ringOff p 0x2C) (u.ring p).noticeLost)).setRing p { u.ring p with noticeLost := 0 })) ∧
    (∀ off, inDebug off = false → inSecureMbx off = true → regWidth off ≠ none → (s.trusted = false ∨ tr = false) →
      exec (.rcRead off tr) s = .next ((s.emit (.readData off 0)).logAccess off 2 2 false)) ∧
    (∀ off v, inDebug off = false → (inSecureMbx off = true → s.trusted = true ∧ tr = true) → regWidth off ≠ none →
      off ≠ 0x30 → off ≠ 0x6001C → off ≠ 0x12C → ¬ (off / 0x10000 = 8 ∧ off % 0x1000 = 0x2C) → (0x20400 ≤ off → off < 0x20800 → off % 0x100 ≠ 0x3C) →
      (s.touch off).readReg off = some v → exec (.rcRead off tr) s = .next ((s.touch off).emit (.readData off v))) ∧
    s.readReg 0x14 = some (b2n s.host.conf + 2 * b2n s.sec.tenant.isSome + 4 * b2n s.trusted +
      8 * b2n s.host.loaded + 16 * s.host.linkW + 256 * s.host.linkGts) ∧
    s.readReg 0x60004 = some ((match s.pwr.st with | .idle => 1 | .rest => 2 | _ => 0) +
      8 * b2n s.braking + 16 * b2n s.pwr.beyond + 32 * b2n (s.pwr.capClk < 800) + 64 * b2n (s.pwr.filter = .toggle)) ∧
    s.readReg 0x6000C = some (s.pwr.aclk + 2048 * s.pwr.aclk + 2 ^ 21 * b2n s.pwr.pllLock +
      2 ^ 22 * b2n s.pwr.cxlRef + 2 ^ 23 * b2n s.pwr.lref0 + 2 ^ 24 * b2n s.pwr.lref1) ∧
    (∀ p ts, p < 16 → (s.part p).table = some ts → s.readReg (0x60100 + 4 * p) = some
        (min s.pwr.clkFloor (ts.w.getD 0 0 * s.pwr.clkFloor / (ts.w.getD 0 0 + s.pwr.allowUs * (s.pwr.clkFloor - aBrkOf s.pwr.brakeW))))))

/-- Writing a register: a 1 in ERR_SUM, HK_EV, PWR_EV or LW_ERR clears that bit unless an event has set it in the same tick, and a 0 leaves
it; SQ_BASE, CQ_BASE and (of a partition's block) TQ_BASE of a disabled ring take the address with bits [11:0] zero, and of an enabled one
BAD_CFG is set; MASK keeps bits [23:18] set; an accepted CLK_FLOOR is a multiple of 25 from 100 to 800 and any other value is ignored; a
write to a read-only register (IDENT at offset 0) changes nothing. (R8, R10, R244, R276, R278, R279, R385, R436, R437; derived) -/
def Obligations.RegisterBitsActByTheirCodes : Prop :=
  ∀ (s : State) (v : Nat),
    (∀ i, i < 32 →
      bit (s.writeReg 0x30000 v).ev.errSum i = (bit s.ev.errSum i && !(bit v i && !s.ev.fresh.contains (0x30000, i))) ∧
      bit (s.writeReg 0x40018 v).hk.ev i = (bit s.hk.ev i && !(bit v i && !s.ev.fresh.contains (0x40018, i))) ∧
      bit (s.writeReg 0x60024 v).pwr.ev i = (bit s.pwr.ev i && !(bit v i && !s.ev.fresh.contains (0x60024, i))) ∧
      (∀ p, p < 8 → bit ((s.writeReg (portOff p 8) v).port p).err i =
        (bit (s.port p).err i && !(bit v i && !s.ev.fresh.contains (portOff p 8, i))))) ∧
    (∀ b, b < 17 →
      ((s.ring b).en = false →
        s.writeReg (ringOff b 0x00) v = s.setRing b { s.ring b with sqBase := v / 2 ^ 12 * 2 ^ 12 } ∧
        s.writeReg (ringOff b 0x08) v = s.setRing b { s.ring b with cqBase := v / 2 ^ 12 * 2 ^ 12 } ∧
        (b < 16 → s.writeReg (ringOff b 0x10) v = s.setRing b { s.ring b with tqBase := v / 2 ^ 12 * 2 ^ 12 })) ∧
      ((s.ring b).en = true → s.writeReg (ringOff b 0x00) v = s.ringErr b 1 ∧ s.writeReg (ringOff b 0x08) v = s.ringErr b 1 ∧
        (b < 16 → s.writeReg (ringOff b 0x10) v = s.ringErr b 1))) ∧
    (s.writeReg 0x40004 v).hk.mask = v ||| 0x00FC0000 ∧
    ((bits v 9 0 % 25 = 0 ∧ 100 ≤ bits v 9 0 ∧ bits v 9 0 ≤ 800) → (s.writeReg 0x60008 v).pwr.clkFloor = bits v 9 0) ∧
    (¬ (bits v 9 0 % 25 = 0 ∧ 100 ≤ bits v 9 0 ∧ bits v 9 0 ≤ 800) → s.writeReg 0x60008 v = s) ∧
    s.writeReg 0x0 v = s

/-- With BAR0 answering and the rails valid, an access to a line of the HDM-DB window takes the device out of REST; a write stores the line's
64 bytes at 64 times the line number, and every other staging byte reads as before; a read returns the line's bytes. JTAG's IDCODE shifts
out 0x1C160A4B, BYPASS changes nothing, and SAMPLE shifts out its pins, whose values are open (log 3); any other instruction does nothing
in confidential mode, or while the port is closed, and is refused as debugUnit otherwise, since the manual describes none. (R269, R272,
R273, R428, R437, R470; derived) -/
def Obligations.WindowAndJtag : Prop :=
  (∀ (s : State) (line : Nat) (bs : List Byte), line < 2 ^ 28 → bs.length = 64 → s.barOn = true → s.pwr.phase ≠ 0 →
    CompletesWith (exec (.stagingWindowAccess line (some bs)) s) (fun t =>
      (∀ a, (a < 64 * line ∨ 64 * line + 64 ≤ a) → Memory.readFree t.staging a = Memory.readFree s.staging a) ∧
      (∀ i, i < 64 → Memory.readFree t.staging (64 * line + i) = bs.getD i 0) ∧
      t = { s.leaveRest with staging := t.staging })) ∧
  (∀ (s : State) (line : Nat), line < 2 ^ 28 → s.barOn = true → s.pwr.phase ≠ 0 →
    exec (.stagingWindowAccess line none) s =
      .next (s.leaveRest.emit (.stagingLine line ((List.range 64).map (fun i => Memory.readFree s.staging (64 * line + i)))))) ∧
  (∀ (s : State) (ir : Nat),
    exec (.jtagInstruction 0) s = .next (s.emit (.jtag 0x1C160A4B)) ∧ exec (.jtagInstruction 1) s = .next s ∧
    CompletesWith (exec (.jtagInstruction 2) s) (fun t => ∃ n, t.out = s.out ++ [.jtag n]) ∧
    (2 < ir → (s.host.conf = true ∨ s.sec.jtag = false) → exec (.jtagInstruction ir) s = .next s) ∧
    (2 < ir → s.host.conf = false → s.sec.jtag = true → exec (.jtagInstruction ir) s = .refused .debugUnit))

/-- In turn: EVENT_READ of m records (1-1,024) at an address that may be named writes the oldest m logged events there, takes them out of the
log, clears the count of dropped ones and replies OK with the counts. STATUS_READ of a listed record writes as many of its bytes as asked
for and replies OK; another SEL replies REJECT_PARAM. PARTITION_SET, without a girth or an active request, of no cluster or of a rectangle
that no other partition holds, with at most 16 aligned pool ranges, sets the partition's clusters, TTL and pools, leaves its table set and
every other partition's clusters, and replies OK. POWER_CAP_SET within its ranges takes effect at once and replies OK, unless it lowers
ALLOW_US or A_BRK while a promised request admitted earlier is active: then it waits, and the commands behind it go on. (R3, R120, R272,
R293, R298, R299, R300, R446; derived) -/
def Obligations.RecordReadsAndSettings : Prop :=
  ∀ (s : State) (b : Nat) (src : CmdSrc) (w : List Nat) (h : HostMem),
    let p := pktPart w
    (s.InTurn b 0x40 src w → nthW w 4 ≠ 0 → nthW w 4 ≤ 1024 → addrOk (dword w 2) (32 * nthW w 4) = true →
      let u := s.writeMem (dword w 2) ((s.ev.log.take (nthW w 4)).flatMap (fun e => wordBytes e.words))
      exec (.eventRead b) s = .next (({ u with ev := { u.ev with log := s.ev.log.drop (nthW w 4), dropped := 0 } } : State).reply src w 0x00
        [(s.ev.log.take (nthW w 4)).length, s.ev.dropped, (s.ev.log.drop (nthW w 4)).length])) ∧
    (s.InTurn b 0x41 src w →
      (s.statusWords p (nthW w 2) = none → exec (.statusRead b) s = .next (s.reply src w 0x04)) ∧
      (∀ ws, s.statusWords p (nthW w 2) = some ws → addrOk (dword w 3) (nthW w 5) = true →
        exec (.statusRead b) s = .next ((s.writeMem (dword w 3) ((wordBytes ws).take (nthW w 5))).reply src w 0x00
          [((wordBytes ws).take (nthW w 5)).length]))) ∧
    (∀ pools, s.InTurn b 0x20 src w → (s.girth p).st = .unset → s.activeOf p = [] → nthW w 6 ≤ 16 →
      addrOk (dword w 4) (16 * nthW w 6) = true →
      (nthW w 2 = 0 ∨ (isRect (nthW w 2) = true ∧ ∀ k, k < 16 → k ≠ p → (s.part k).clusters &&& nthW w 2 = 0)) →
      poolList (s.readMem h (dword w 4) (16 * nthW w 6)) (nthW w 6) = some pools →
      CompletesWith (exec (.partitionSet b h) s) (fun t =>
        (t.part p).clusters = nthW w 2 ∧ (t.part p).ttlMs = nthW w 3 ∧ (t.part p).pools = pools ∧ (t.part p).table = (s.part p).table ∧
        (∀ k, k ≠ p → (t.part k).clusters = (s.part k).clusters) ∧
        (∀ r, src = .ring r → (t.ring r).cqWait = (s.ring r).cqWait ++ [replyEntry w 0x00 []]))) ∧
    (s.InTurn b 0x88 src w → 150 ≤ nthW w 2 → nthW w 2 ≤ 550 → 50 ≤ nthW w 3 → nthW w 3 ≤ nthW w 2 → nthW w 4 ≤ 10000 →
      let waits := (nthW w 4 < s.pwr.allowUs ∨ aBrkOf (nthW w 3) < s.aBrk) ∧ s.promisedBefore s.tick = true
      (¬ waits → exec (.powerCapSet b) s = .next ((({ s with pwr := { s.pwr with
        capW := nthW w 2, brakeW := nthW w 3, allowUs := nthW w 4 } } : State).request).reply src w 0x00)) ∧
      (waits → exec (.powerCapSet b) s = .next ((({ s with pwr := { s.pwr with
        capWait := s.pwr.capWait ++ [{ src, words := w, tick := s.tick }] } } : State).startCmd src w).stallCmd src w)))

/-- In turn: a girth record that passes R234's checks on a partition whose girth is unset or STOPPED puts the girth into SET with that record,
forgets the girth's hellos on its ports and replies CONFIG_DIGEST. GIRTH_START at a pommel that can start, with no round open, opens the
round and sends step 1. In step 1 a member that can start passes the request on, gathers its children's minima and boots, and sends its
own up once every child has reported; one that cannot start refuses. At the pommel the last report of step 1 opens step 2 with B and the
minima, step 3 merges a subtree's figures, step 4 takes a new housekeeping floor, and a refusal fails the round. At a member step 3 merges
a subtree's figures, step 5 takes a link's hop bound, and both report once all has come; step 6 fails the round where the peer's SEND
arrives beyond the entry's XIN. GIRTH_GO with every stage and child reported computes the wheel, enters RUNNING with epoch 0, sends GO
with T_gap and replies; a LINKED or STOPPED member takes it. A round of more than 100 ms fails. GIRTH_STOP at the pommel of a girth not
RUNNING, or without members to wait for, ends the active requests and replies their number; of a RUNNING one, or at a member of a RUNNING
or HELD one, the reply waits. The steps of the round are the model's form (log 39). (R166, R180, R192, R200, R234, R235, R248, R249, R250,
R257, R298; derived) -/
def Obligations.GirthsAreSetStartedAndStopped : Prop :=
  (∀ (s : State) (b : Nat) (h : HostMem) (src : CmdSrc) (w : List Nat), s.InTurn b 0x21 src w → addrOk (dword w 2) (nthW w 4) = true →
    nthW w 4 ≤ 64 + 16 * 256 + 8 * 1024 →
    let bs := s.readMem h (dword w 2) (nthW w 4)
    let r := parseRecord bs
    recordShape bs = true → r.ok = true → bits (wordAt bs 0) 7 4 = pktPart w → r.deviceAt r.gpos = s.host.devId →
    s.girths.any (fun x => x.1 ≠ pktPart w && (x.2.record.map (·.ledger)) == some r.ledger) = false → (s.part (pktPart w)).defined = true →
    ((s.girth (pktPart w)).record = none ∨ (s.girth (pktPart w)).st = .stopped) → s.portClash (pktPart w) r = false →
    ((s.part (pktPart w)).table.map (fun ts => ts.strayPort r)).getD false = false →
    CompletesWith (exec (.girthSet b h) s) (fun t =>
      t.girth (pktPart w) = { st := .set, record := some r, model := (s.girth (pktPart w)).model } ∧ t.ledger = s.ledger ∧
      (∀ l ∈ r.mine, (t.port l.port).girths = (s.port l.port).girths &&& (0xFFFF - 2 ^ r.ledger)) ∧
      t.out = (s.asks (dword w 2) (nthW w 4)).out ∧
      (∀ k, src = .ring k → (t.ring k).cqWait = (s.ring k).cqWait ++
        [replyEntry w 0x00 [leNat (r.digest.take 4), leNat (r.digest.drop 4)]]))) ∧
  (∀ (s : State) (b : Nat) (src : CmdSrc) (w : List Nat), s.InTurn b 0x22 src w → s.isPommel (pktPart w) = true → s.canStart (pktPart w) = true →
    (s.girth (pktPart w)).round = none →
    CompletesWith (exec (.girthStart b) s) (fun t =>
      (t.girth (pktPart w)).round = some s.tick ∧ (t.girth (pktPart w)).roundSrc = some src ∧ (t.girth (pktPart w)).roundPkt = w ∧
      (t.girth (pktPart w)).st = (s.girth (pktPart w)).st ∧
      t.said = s.said ++ [.round (pktPart w) 1 [] 64 (2 ^ 20) 255 0 true 0 []])) ∧
  (∀ (s : State) (p tGap : Nat) (r : Record), p < 16 → (s.girth p).record = some r →
    (s.isPommel p = true → (s.girth p).round ≠ none → (s.girth p).figs.length = r.stages → r.childPorts.length ≤ (s.girth p).kidsIn →
      let wh := s.newWheel p
      CompletesWith (exec (.girthGo p tGap) s) (fun t =>
        (t.girth p).st = .running ∧ (t.girth p).epoch = 0 ∧ (t.girth p).wheel = wh ∧ (t.girth p).round = none ∧ .go p wh.tGap ∈ t.out ∧
        (∀ k, (s.girth p).roundSrc = some (.ring k) →
          replyEntry (s.girth p).roundPkt 0x00 [wh.k, wh.b, wh.tGap, wh.c, wh.tRing, wh.hRet] ∈ (t.ring k).cqWait))) ∧
    (s.isPommel p = false → ((s.girth p).st = .linked ∨ (s.girth p).st = .stopped) →
      CompletesWith (exec (.girthGo p tGap) s) (fun t =>
        (t.girth p).st = .running ∧ (t.girth p).epoch = 0 ∧ (t.girth p).wheel.tGap = tGap ∧ .go p tGap ∈ t.out)) ∧
    (∀ t0, s.isPommel p = true → (s.girth p).round = some t0 → t0 + 2500000 < s.tick →
      exec (.startRoundTimeout p) s = .next (s.failRound p 0xFF))) ∧
  (∀ (s : State) (p slots rp rc hret gpos : Nat) (st : List Figures) (boots : List (Nat × Nat)) (r : Record) (ts : TableSet), p < 16 →
    (s.girth p).record = some r → (s.part p).table = some ts →
    let g := s.girth p
    (s.isPommel p = false →
      (s.canStart p = false → ∀ ok, exec (.startRoundFigures p 1 st slots rp rc hret ok gpos boots) s =
        .next (s.figures p (.round p 1 [] slots rp rc 0 false r.gpos [(r.gpos, s.host.boot)]) .up)) ∧
      (s.canStart p = true →
        CompletesWith (exec (.startRoundFigures p 1 st slots rp rc hret true gpos []) s) (fun t =>
          (t.girth p).b = ts.beatSlots ∧ (t.girth p).resPos = ts.resPos ∧ (t.girth p).resCount = ts.resCount ∧ (t.girth p).kidsIn = 0 ∧
          t.said = s.said ++ [.round p 1 [] slots rp rc 0 true 0 []] ++
            (if r.childPorts = [] then [.round p 1 [] ts.beatSlots ts.resPos ts.resCount 0 true 0 [(r.gpos, s.host.boot)]] else [])) ∧
        (boots ≠ [] → CompletesWith (exec (.startRoundFigures p 1 st slots rp rc hret true gpos boots) s) (fun t =>
          (t.girth p).b = min g.b slots ∧ (t.girth p).resPos = min g.resPos rp ∧ (t.girth p).resCount = min g.resCount rc ∧
          (t.girth p).kidsIn = g.kidsIn + 1 ∧ (t.girth p).boots = g.boots ++ boots ∧
          t.said = s.said ++ (if g.kidsIn + 1 < r.childPorts.length then [] else
            [.round p 1 [] (min g.b slots) (min g.resPos rp) (min g.resCount rc) 0 true 0 ((r.gpos, s.host.boot) :: (g.boots ++ boots))])))) ∧
      exec (.startRoundFigures p 3 st slots rp rc hret true gpos boots) s = .next ((s.setGirth p { g with
        figs := mergeAll st g.figs, hRet := max g.hRet hret, kidsIn := g.kidsIn + 1 }).reportFigures p r) ∧
      (∀ ok, exec (.startRoundFigures p 5 st slots rp rc hret ok gpos boots) s =
        .next ((s.setGirth p { g with hopRx := put slots hret g.hopRx }).reportFigures p r)) ∧
      (∀ ok e, e ∈ ts.ingress → e.kind = 1 → e.port = slots → e.dbuf = rp → e.xin < hret →
        exec (.startRoundFigures p 6 st slots rp rc hret ok gpos boots) s = .next (s.figures p (.round p 3 [] 0 0 0 0 false r.gpos []) .up))) ∧
    (s.isPommel p = true →
      (∀ f ok, st.head? = some f → exec (.startRoundFigures p 4 st slots rp rc hret ok gpos boots) s =
        .next ((s.setGirth p { g with floors := put gpos (f.hkPerm, f.hkChunk) g.floors }).wheelRest p)) ∧
      (g.round ≠ none →
        (∀ k, k ≠ 4 → exec (.startRoundFigures p k st slots rp rc hret false gpos boots) s = .next (s.failRound p gpos)) ∧
        (g.figs = [] → r.childPorts.length ≤ g.kidsIn + 1 →
          CompletesWith (exec (.startRoundFigures p 1 st slots rp rc hret true gpos boots) s) (fun t =>
            (t.girth p).b = min g.b slots ∧ (t.girth p).kidsIn = 0 ∧ (t.girth p).boots = g.boots ++ boots ∧ (t.girth p).figs.length = 1 ∧
            .round p 2 [] (min g.b slots) (min g.resPos rp) (min g.resCount rc) 0 true 0 [] ∈ t.out)) ∧
        (g.figs ≠ [] → exec (.startRoundFigures p 3 st slots rp rc hret true gpos boots) s =
          .next (s.setGirth p { g with figs := mergeAll st g.figs, hRet := max g.hRet hret, kidsIn := g.kidsIn + 1 }))))) ∧
  (∀ (s : State) (b : Nat) (src : CmdSrc) (w : List Nat) (r : Record), s.InTurn b 0x23 src w → (s.girth (pktPart w)).record = some r →
    (s.girth (pktPart w)).round = none →
    let p := pktPart w
    let n := (s.activeOf p).length
    let end_ := if (s.girth p).st = .stopped then s else s.stopGirth p 5 false 0x09
    (s.isPommel p = true → (s.girth p).stops = [] → ((s.girth p).st ≠ .running ∨ r.childPorts = []) →
      exec (.girthStop b) s = .next (end_.reply src w 0x00 [n]) ∧ (end_.girth p).st = .stopped) ∧
    (s.isPommel p = true → (s.girth p).st = .running → r.childPorts ≠ [] →
      CompletesWith (exec (.girthStop b) s) (fun t =>
        (t.girth p).st = .stopped ∧ (t.girth p).stops = (s.girth p).stops ++ [(src, w, n)] ∧ .rein p (.stop .girthStop) ∈ t.out)) ∧
    (s.isPommel p = false → ((s.girth p).st = .running ∨ (s.girth p).st = .held) →
      CompletesWith (exec (.girthStop b) s) (fun t =>
        t.girth p = { s.girth p with stops := (s.girth p).stops ++ [(src, w, n)] } ∧ t.said = s.said ++ [.rein p (.stop .girthStop)])) ∧
    (s.isPommel p = false → (s.girth p).st ≠ .running → (s.girth p).st ≠ .held →
      exec (.girthStop b) s = .next ((s.reinUp p (.stop .girthStop)).reply src w 0x00 [n])))

/-- At the pommel of a RUNNING girth PEER_DOWN, or a beat not back within 2 · C and the announced swap bound, enters HELD with every
reservation closed; a member passes PEER_DOWN and LINK_UP up the tree. FLUSH makes a RUNNING member HELD and goes on down. CHECK back at
the pommel with every member's report marks the hold checked, and voids every promise where a member's state is lost or its BOOT has
changed; a member that takes CHECK passes it on and reports its GPOS, BOOT, girth state and whether it is HELD. RELEASE_HALT of a checked
hold with no link down takes the next epoch and RUNNING; a HELD member, or one that was restarted and is LINKED again, takes the epoch
given. A member HELD for HALTER_MS stops, and the commands that waited for its stop reply. (R256, R261, R262, R263, R264, R266, R268;
derived) -/
def Obligations.HalterHoldsAndReleases : Prop :=
  ∀ (s : State) (p : Nat) (r : Record), p < 16 → (s.girth p).record = some r →
    (∀ gpos, s.isPommel p = true → (s.girth p).st = .running →
      CompletesWith (exec (.peerDown p gpos) s) (fun t => (t.girth p).st = .held ∧ (t.girth p).closed = true ∧ .rein p .flush ∈ t.out)) ∧
    (s.isPommel p = true → (s.girth p).st = .running → (s.girth p).thermalStop = false →
      ((s.girth p).issued.any (fun b => b.tick + 2 * (s.girth p).wheel.c + (s.girth p).swapBound < s.tick)) = true →
      CompletesWith (exec (.beatReturnTimeout p) s) (fun t => (t.girth p).st = .held ∧ (t.girth p).closed = true)) ∧
    (∀ gpos, s.isPommel p = false → exec (.peerDown p gpos) s = .next (s.rein p (.peerDown gpos)) ∧
      exec (.linkUp p gpos) s = .next (s.rein p (.linkUp gpos))) ∧
    (∀ gpos, s.isPommel p = true → (s.girth p).st = .held → (s.girth p).down.contains gpos = true → (s.girth p).down.erase gpos ≠ [] →
      exec (.linkUp p gpos) s = .next (s.setGirth p { s.girth p with down := (s.girth p).down.erase gpos })) ∧
    (s.isPommel p = false → (s.girth p).st = .running →
      exec (.flush p) s = .next ((s.haltFlush p).rein p .flush) ∧ ((s.haltFlush p).girth p).st = .held ∧
      ((s.haltFlush p).girth p).closed = true) ∧
    (∀ reports commits ended, s.isPommel p = true → (s.girth p).st = .held → (s.girth p).down = [] →
      (∀ k, 1 ≤ k → k < r.n → ∃ m ∈ reports, m.gpos = k) →
      (∀ m ∈ reports, m.intact = true ∧ (m.gpos, m.boot) ∈ (s.girth p).boots) →
      exec (.check p reports commits ended) s = .next (s.setGirth p { s.girth p with checked := true })) ∧
    (∀ reports commits ended, s.isPommel p = true → (s.girth p).st = .held → (s.girth p).down = [] →
      (∀ k, 1 ≤ k → k < r.n → ∃ m ∈ reports, m.gpos = k) →
      (∃ m ∈ reports, m.intact = false ∨ (m.gpos, m.boot) ∉ (s.girth p).boots) →
      CompletesWith (exec (.check p reports commits ended) s) (fun t => (t.girth p).checked = true ∧ (t.girth p).voided = true ∧
        (t.girth p).restartPend = true)) ∧
    (∀ reports commits ended, s.isPommel p = false →
      ((s.girth p).st = .held → CompletesWith (exec (.check p reports commits ended) s) (fun t =>
        .rein p (.check (commits.map (fun c => (c.1, c.2.1))) ended) ∈ t.out ∧
        .rein p (.report r.gpos s.host.boot (s.girth p).st.num true) ∈ t.out ∧ (t.girth p).heldTick = s.tick)) ∧
      ((s.girth p).st ≠ .held → exec (.check p reports commits ended) s =
        .next ((s.rein p (.check (commits.map (fun c => (c.1, c.2.1))) ended)).rein p
          (.report r.gpos s.host.boot (s.girth p).st.num false)))) ∧
    (s.isPommel p = true → (s.girth p).st = .held → (s.girth p).down = [] → (s.girth p).checked = true → (s.girth p).restartPend = false →
      (s.part p).restarting = none → ∀ e0,
      CompletesWith (exec (.releaseHalt p e0) s) (fun t => (t.girth p).st = .running ∧ (t.girth p).epoch = ((s.girth p).epoch + 1) % 16 ∧
        (t.girth p).closed = false)) ∧
    (∀ epoch, s.isPommel p = false → ((s.girth p).st = .held ∨ (s.girth p).st = .linked) → (s.part p).restarting = none →
      CompletesWith (exec (.releaseHalt p epoch) s) (fun t => (t.girth p).st = .running ∧ (t.girth p).epoch = epoch ∧ (t.girth p).closed = false)) ∧
    (s.isPommel p = false → (s.girth p).st = .held → (s.girth p).heldTick + 25000 * r.halterMs ≤ s.tick →
      exec (.halterTimeout p) s = .next (((s.stopMember p).replyStops p).raise 0x0045 2 (some p) 3 r.ledger) ∧
      (((s.stopMember p).replyStops p).girth p).st = .stopped)

/-- On a girth with a record: STOP of a CANCEL cancels the request at the pommel; a girth stop or TENANT_END stops the girth there. A STOP on
its way up passes a member unchanged; on its way down a member frees its entries, passes it on and, with no child below it, says that it
is STOPPED; the last child's word makes a stopped device reply to the GIRTH_STOP that waited and, at a member, say so up the tree. A
member's RESTART makes the RUNNING pommel take the next epoch, send RESTART down and restart the girth, and waits where it is HELD; the
pommel's is taken by a RUNNING member with its epoch, and one of another member is passed up; a RESTART of a chip reset voids the
promises. GRANT of the current epoch adds the credit and one of another epoch counts as stale. A peer mailbox message acts at the position
it names, is answered with MBX_NAK where the firmware does not serve or the box is full, and is passed on elsewhere; an MBX_NAK is kept
for the next round. A thermal stop without draining stops the RUNNING girth at once, and the draining one 2 · C later; a member passes it
on. (R199, R254, R256, R258, R265, R298, R305, R386, R387; derived) -/
def Obligations.ReinMessagesAct : Prop :=
  ∀ (s : State) (p : Nat) (r : Record), p < 16 → (s.girth p).record = some r →
    (∀ h e up, s.isPommel p = true → s.entryOf h = some e → e.part = p → exec (.stop p up (.cancel h)) s = .next (s.cancelRequest h)) ∧
    (∀ k up, (k = .girthStop ∨ k = .tenantEnd) → s.isPommel p = true →
      ((s.girth p).st ≠ .stopped → exec (.stop p up k) s = .next (s.stopGirth p 5 false 0x09)) ∧
      ((s.girth p).st = .stopped → exec (.stop p up k) s = .next s)) ∧
    (s.isPommel p = false →
      (∀ k, k ≠ .stopped → exec (.stop p true k) s = .next (s.reinUp p (.stop k))) ∧
      (∀ k, (k = .girthStop ∨ k = .tenantEnd) →
        let u := (s.stopMember p).rein p (.stop k)
        exec (.stop p false k) s = .next (if r.childPorts = [] then u.stopDone p else u)) ∧
      (∀ h, CompletesWith (exec (.stop p false (.cancel h)) s) (fun t => .rein p (.stop (.cancel h)) ∈ t.out))) ∧
    (∀ up, (s.girth p).st = .stopped →
      (r.childPorts.length ≤ (s.girth p).stopIn + 1 → exec (.stop p up .stopped) s = .next (s.stopDone p)) ∧
      ((s.girth p).stopIn + 1 < r.childPorts.length → exec (.stop p up .stopped) s =
        .next (s.setGirth p { s.girth p with stopIn := (s.girth p).stopIn + 1 }))) ∧
    (∀ gpos epoch, gpos < 256 →
      (s.isPommel p = true →
        ((s.girth p).st = .running →
          exec (.restart p gpos epoch false) s = .next (((s.setGirth p { s.girth p with epoch := ((s.girth p).epoch + 1) % 16 }).rein p
            (.restart (((s.girth p).epoch + 1) % 16) false)).girthRestart p)) ∧
        ((s.girth p).st = .held → exec (.restart p gpos epoch false) s = .next (s.setGirth p { s.girth p with restartPend := true })) ∧
        ((s.girth p).st = .running ∨ (s.girth p).st = .held → exec (.restart p gpos epoch true) s = .next (s.voidAll p))) ∧
      (s.isPommel p = false →
        (∀ c, gpos ≠ 0 → exec (.restart p gpos epoch c) s = .next (s.reinUp p (.restart epoch c))) ∧
        ((s.girth p).st = .running → exec (.restart p 0 epoch false) s =
          .next (((s.setGirth p { s.girth p with epoch }).rein p (.restart epoch false)).girthRestart p)) ∧
        exec (.restart p 0 epoch true) s = .next (s.rein p (.restart epoch true)))) ∧
    (∀ port dbuf epoch, port < 8 →
      (epoch = (s.girth p).epoch → (s.girth p).st = .running →
        exec (.grant p port dbuf epoch) s =
          .next ((s.setGirth p { s.girth p with grants := (s.girth p).grants ++ [(port, dbuf)] }).edgeGrants p)) ∧
      (epoch ≠ (s.girth p).epoch → exec (.grant p port dbuf epoch) s = .next (s.staleOn port))) ∧
    (∀ gpos dst m,
      (dst = r.gpos → s.serves = true → s.host.peerBox = none → exec (.peerMbx gpos dst p m) s = .next (s.peerMessage p gpos m)) ∧
      (dst = r.gpos → (s.serves = false ∨ s.host.peerBox ≠ none) → exec (.peerMbx gpos dst p m) s = .next (s.rein p (.mbxNak gpos m))) ∧
      (dst ≠ r.gpos → exec (.peerMbx gpos dst p m) s = .next (s.rein p (.peerMbx gpos dst m))) ∧
      exec (.mbxNak p m) s = .next { s with hk := { s.hk with resend := s.hk.resend ++ [(p, m)] } }) ∧
    (∀ gpos drain,
      (s.isPommel p = true → (s.girth p).st = .running →
        CompletesWith (exec (.thermalStop p gpos drain) s) (fun t =>
          (drain = false → (t.girth p).st = .stopped) ∧
          (drain = true → (t.girth p).st = .running ∧ (t.girth p).thermalStop = true ∧
            (t.girth p).thermal = some ((s.girth p).thermal.getD s.tick)))) ∧
      (s.isPommel p = false → exec (.thermalStop p gpos drain) s = .next (s.rein p (.peerMbx gpos 0 (.thermalStop drain))))) ∧
    (∀ t0, s.isPommel p = true → (s.girth p).thermal = some t0 → t0 + 2 * (s.girth p).wheel.c ≤ s.tick →
      exec (.thermalDrainTimeout p) s = .next (s.thermalEnd p) ∧ ((s.thermalEnd p).girth p).st = .stopped)

/-- On a port where the girth has passed hello: a message or ready mark of an old epoch counts as stale and is discarded. A message of the
current epoch for an ingress entry of a RUNNING girth whose partition runs is relayed where the entry says so, joins its beat where it is
a BEAT message, and is delivered to the entry's group; a BEAT message waits at ingress, behind those before it, while a swap holds a layer
at the barrier. A READY_MARK joins the first beat that has not started and lacks it, and changes nothing else. (R84, R124, R251, R252,
R253, R254, R258, R334; derived) -/
def Obligations.BeatMessagesAreTaken : Prop :=
  ∀ (s : State) (port girth : Nat), port < 8 → s.partOfLedger girth < 16 → bit (s.port port).girths girth = true →
    let p := s.partOfLedger girth
    (∀ dbuf epoch hdr body, epoch ≠ (s.girth p).epoch →
      exec (.ingressMessage port girth dbuf epoch hdr body) s = .next (s.staleOn port)) ∧
    (∀ dbuf hdr body ts i e, (s.girth p).st = .running → s.runs p = true → (s.part p).table = some ts →
      ts.ingress.findIdx? (fun e => e.port = port && e.dbuf = dbuf) = some i → ts.ingress[i]? = some e →
      ((e.kind = 0 ∧ (s.part p).swapHeld = true) → exec (.ingressMessage port girth dbuf (s.girth p).epoch hdr body) s =
        .next (s.setPart p { s.part p with atIngress := (s.part p).atIngress ++ [(port, dbuf, hdr, body)] })) ∧
      ((e.kind ≠ 0 ∨ (s.part p).swapHeld = false) →
        let a := s.setPart p { s.part p with edgeGranted := (s.part p).edgeGranted.erase i }
        let b := if e.fv then (a.setGirth p { s.girth p with
            grants := (s.girth p).grants.erase (e.fport, e.fdbuf) }).sendMsg e.fport girth e.fdbuf hdr body
          else a
        let c := if e.kind = 0 then b.beatMessage p (ts.entryMsgs e) e hdr port girth else b
        exec (.ingressMessage port girth dbuf (s.girth p).epoch hdr body) s =
          .next ((c.ingressDeliver p i port e.group dbuf hdr body).edgeGrants p))) ∧
    (∀ epoch, epoch ≠ (s.girth p).epoch → exec (.readyMark port girth epoch) s = .next (s.staleOn port)) ∧
    ((s.girth p).st = .running → s.runs p = true →
      exec (.readyMark port girth (s.girth p).epoch) s = .next (s.setPart p { s.part p with beats := joinReady port (s.part p).beats }))

/-- LW_TRAINING_DONE of a port that may train and trains puts it into HELLO with keys and fresh counts; a failure puts it DOWN with its LW_ERR
bit, and one of the peer's signature or key raises an event. LINK_KEY_UPDATE counts the direction's key after each 2^32 flits. HELLO_SEND
sends a hello that is due with the next HSEQ, the echo and HOLD, and one that is not due changes nothing. HELLO_RECEIVE stores the peer's
hello and judges every girth; an echoed one measures the round trip and takes the port UP. A flit that fails its TAG is answered with a
resend request; a good one's acknowledgement or NAK and its credits apply first, an IDLE or RETRY flit then ends, one with another SEQ is
answered with a resend request and one with the expected SEQ is taken: it counts as received, and one beyond its pool takes the link DOWN.
A NAK resends what is unacknowledged. Loss of signal, no ACK for 20 µs and LINK_DOWN take the port DOWN. (R236, R238, R242, R243, R244,
R245, R246, R247, R258, R260, R261, R419; derived) -/
def Obligations.LinksTrainRunAndFall : Prop :=
  ∀ (s : State) (p : Nat), p < 8 →
    (∀ key, s.mayTrain p = true → ((s.port p).st = .training ∨ (s.port p).st = .down) →
      let d := (s.setPort p { (s.port p).fresh with st := .down }).lwErr p 1
      exec (.lwTrainingDone p none key) s = .next (s.setPort p { (s.port p).fresh with
        st := .hello, los := false, lock := 0xFF, keyed := true, peerKey := key, ackTick := s.tick }) ∧
      exec (.lwTrainingDone p (some 0) key) s = .next d ∧
      (∀ k, k ≠ 0 → exec (.lwTrainingDone p (some k) key) s = .next (d.raise 0x0309 1 none 3 p k))) ∧
    ((s.port p).keyed = true →
      (2 ^ 32 * ((s.port p).txGen + 1) ≤ (s.port p).txCount →
        exec (.linkKeyUpdate p true) s = .next (s.setPort p { s.port p with txGen := (s.port p).txGen + 1 })) ∧
      (2 ^ 32 * ((s.port p).rxGen + 1) ≤ (s.port p).rxCount →
        exec (.linkKeyUpdate p false) s = .next (s.setPort p { s.port p with rxGen := (s.port p).rxGen + 1 }))) ∧
    ((s.port p).carries = true →
      (s.helloDue p = false → exec (.helloSend p) s = .next s) ∧
      (s.helloDue p = true → CompletesWith (exec (.helloSend p) s) (fun t =>
        (t.port p).hseq = ((s.port p).hseq + 1) % 2 ^ 16 ∧ (s.port p).hseq ∈ (t.port p).sentH ∧
        (t.port p).helloTick = some s.tick ∧ (t.port p).helloSent = s.helloEntries ∧
        ∃ h : Hello, t.said = s.said ++ [.hello p h] ∧ h.deviceId = s.host.devId ∧ h.port = p ∧ h.hseq = (s.port p).hseq ∧ h.boot = s.host.boot ∧
          h.echoV = (s.port p).gotH.isSome ∧ h.echoSeq = (s.port p).gotH.getD 0 ∧ h.entries = s.helloEntries ∧
          ((s.port p).gotH = none → h.hold = 0) ∧
          ((s.port p).gotH ≠ none → ∃ k, k < 32 ∧ h.hold = (32 * (s.tick - (s.port p).gotTick) + k) % 2 ^ 32))) ∧
      (∀ (h : Hello) (rtt : Nat),
        let q := { s.port p with peerId := h.deviceId, peerPort := h.port, peerBoot := h.boot, gotH := some h.hseq, gotTick := s.tick }
        let judge := fun (a : Port) (rt : Option Nat) =>
          (s.girths.map (·.1)).foldl (fun s k => s.helloJudge p k h rt) (s.setPort p a)
        (h.echoV = true → (s.port p).sentH.contains h.echoSeq = true → exec (.helloReceive p h rtt) s =
          .next (judge { q with echoed := true, rtt := rttNs (rtt - h.hold), st := .up } (some (rtt - h.hold)))) ∧
        ((h.echoV = false ∨ (s.port p).sentH.contains h.echoSeq = false) → exec (.helloReceive p h rtt) s =
          .next (judge { q with st := if q.echoed then .up else q.st } none))) ∧
      (∀ f : Flit,
        let u := if f.av = false then s else if f.nak then s.nakOn p f.ack else s.ackTo p f.ack
        let v := u.setPort p ((u.port p).credited f)
        (f.tagOk = false → exec (.flitReceive p f) s = .next (((s.askResend p).lwErr p 7).answer p)) ∧
        (f.tagOk = true →
          ((v.port p).keyed = false → exec (.flitReceive p f) s = .next v) ∧
          ((v.port p).keyed = true →
            (6 ≤ f.cls → exec (.flitReceive p f) s = .next (v.pump p)) ∧
            (f.cls < 6 → f.seq ≠ (v.port p).seqExp → exec (.flitReceive p f) s = .next ((v.askResend p).answer p)) ∧
            (f.cls < 6 → f.seq = (v.port p).seqExp → exec (.flitReceive p f) s = .next ((v.takeFlit p f).answer p)))) ∧
        (let k := poolKey f.girth f.cls
         let n := (s.port p).used f.girth f.cls + getD 0 k (s.port p).owed
         (n < poolSize f.cls → ((s.takeFlit p f).port p).seqExp = (f.seq + 1) % 4096 ∧ ((s.takeFlit p f).port p).lastGood = some f.seq ∧
           ((s.takeFlit p f).port p).nakSent = false ∧ ((s.takeFlit p f).port p).keyed = true) ∧
         (poolSize f.cls ≤ n → ((s.takeFlit p f).port p).st = .down ∧ bit ((s.takeFlit p f).port p).err 8 = true))) ∧
      (∀ ack, exec (.nakReceive p ack) s = .next (s.nakOn p ack) ∧
        .resend p ((s.ackTo p ack).port p).replayBuf ∈ (s.nakOn p ack).out)) ∧
    (∀ lane, lane < 8 → (s.port p).en = true → (s.port p).st ≠ .disabled →
      CompletesWith (exec (.lossOfSignal p lane) s) (fun t =>
        (t.port p).st = .down ∧ (t.port p).keyed = false ∧ (t.port p).los = true ∧ bit (t.port p).err 0 = true)) ∧
    ((s.port p).replayBuf ≠ [] → (s.port p).ackTick + 500 ≤ s.tick → exec (.ackTimeout p) s = .next ((s.portDown p).lwErr p 4)) ∧
    exec (.linkDown p) s = .next (((s.portDown p).girths.map (·.1)).foldl (fun s k => s.declareLoss p k) (s.portDown p)) ∧
    ((s.port p).st ≠ .disabled → ((s.portDown p).port p).st = .down)

/-- In a running partition, DISPUTE_REPETITION of the tile's first open dispute adds the codes of one repetition: a clean one settles the
dispute as transient, one that is not keeps it and makes it permanent from the second on; while the first dispute is permanent none is
repeated. SETTLEMENT of the first permanent dispute counts it settled and takes it away. In the housekeeping sequence of the array's tile,
CROSS_CHECK of an array that may be checked runs one cross-check, PERIODIC_READBACK that finds every row as the stack copy has it notes
the tick and takes the next proof block, and the sequence goes on; outside it neither does anything. PARTITION_RESTART of a raised fault
takes the next epoch, counts the restart and clears it; a HELD girth puts it off. (R93, R349, R350, R351, R355, R356, R357, R366, R328;
derived) -/
def Obligations.DisputesAreRepeatedAndSettled : Prop :=
  (∀ (s : State) (t : Nat) (d : Dispute) (post : List Dispute) (err : Analog), t < 1024 → s.runs (s.partOfTile t) = true →
    (s.tile t).disputes = d :: post →
    let addr := arrayAddr t d.array
    let d' : Dispute := { d with
      reps := d.reps ++ [s.passCodes addr d.pass.base d.pass.drive err]
      expect := if d.det = .xcheck then s.xExpect addr d.pass.base d.pass.drive err d.cols else d.expect }
    (d.perm = false → s.repClean addr d' = true → exec (.disputeRepetition t err) s = .next (s.transient t d' post)) ∧
    (d.perm = false → s.repClean addr d' = false →
      exec (.disputeRepetition t err) s =
        .next (s.setTile t { s.tile t with disputes := { d' with perm := decide (2 ≤ d'.reps.length) } :: post })) ∧
    (d.perm = true → exec (.disputeRepetition t err) s = .next s ∧ CompletesWith (exec (.settlement t) s) (fun u =>
      u.ev.settled = satAdd 32 s.ev.settled 1 ∧ (u.tile t).disputes = post))) ∧
  (∀ (s : State) (a seed : Nat) (err : Analog), a < 65536 →
    (s.inSequence (a / 64) 1 a = true → exec (.crossCheck a seed err) s =
      .next ((if s.xcheckOk a then s.crossCheck a seed err else s).sequenceOn (a / 64))) ∧
    (s.inSequence (a / 64) 1 a = false → exec (.crossCheck a seed err) s = .next s)) ∧
  (∀ (s : State) (a : Nat) (bad : Faulty), a < 65536 →
    (s.inSequence (a / 64) 3 a = true → s.inPass (s.servingArray a) = false → s.holderOf a ≠ none → (s.arr a).sumsOk = true →
      (∀ r, r < 512 → s.readRow a r = s.logicalRow a r % 2 ^ 256) →
      exec (.periodicReadback a [] bad) s = .next ((s.setArr a { s.arr a with
        readTick := s.tick, overdue := (s.arr a).overdue.filter (· ≠ 3), pb := ((s.arr a).pb + 1) % 64, sumsOk := false }).sequenceOn (a / 64))) ∧
    (s.inSequence (a / 64) 3 a = false → exec (.periodicReadback a [] bad) s = .next s)) ∧
  (∀ (s : State) (p c k l : Nat) (f : PartFault) (bad : Faulty), p < 16 → (s.part p).restarting = some (c, k, l) → s.awake = true →
    ((s.girth p).st ≠ .held → exec (.partitionRestart p f bad) s = .next (s.restartPart p c k l bad) ∧
      ((s.restartPart p c k l bad).part p).epoch = ((s.part p).epoch + 1) % 16 ∧
      ((s.restartPart p c k l bad).part p).restarts = satAdd 32 (s.part p).restarts 1) ∧
    ((s.girth p).st = .held → exec (.partitionRestart p f bad) s =
      .next ((s.coverPartition p bad).setGirth p { s.girth p with restartPend := true })))

/-- In the housekeeping sequence of the array's tile, with no pass of the array in flight: PATCH_DONE for a column that a keeper stands in for
takes the keeper back to SHADOW with its passes at 0; a keeper that is due or in ROTATE takes 16 more rows, and after the last takes the
next candidate and shadows it. While the device is awake a row attempt in which every column took its state stores the row and ends the
programming of that array, and one that missed columns counts an attempt; KNOWN_SUMS_COMPUTED forms the area of known sums of an array
with weights from its stack copy. MEM_UE makes a chip reset due with its site's cause; MEM_CE counts, spends a CE injection and sets
ERR_SUM. CHIP_RESET runs the one that is due and WATCHDOG one with cause 5, each counted; THERMTRIP stops the clocks, latches the trip and
writes the trip flag. (R109, R318, R326, R360, R361, R367, R368, R369, R389; derived) -/
def Obligations.ArraysAreRepairedAndFaultsRaised : Prop :=
  (∀ (s : State) (a c k : Nat) (bad : Faulty), a < 65536 → s.inSequence (a / 64) 4 a = true →
    s.inPass (s.servingArray a) = false → (s.arr (s.servingArray a)).standFor c = some k →
    CompletesWith (exec (.patchDone a c bad) s) (fun u =>
      ((u.arr (s.servingArray a)).keeper k).st = .shadow ∧ ((u.arr (s.servingArray a)).keeper k).stand = 0 ∧
      ((u.arr (s.servingArray a)).keeper k).passes = 0)) ∧
  (∀ (s : State) (a k : Nat), a < 65536 → k < 8 → s.inSequence (a / 64) 5 a = true → s.inPass (s.servingArray a) = false →
    s.rotationDue (s.servingArray a) k = true →
    let kp := (s.arr (s.servingArray a)).keeper k
    CompletesWith (exec (.keeperRotation a k) s) (fun u =>
      let kq := (u.arr (s.servingArray a)).keeper k
      (kp.rot + 16 < 512 → kq.st = .rotate ∧ kq.rot = kp.rot + 16 ∧ kq.m = kp.m) ∧
      (512 ≤ kp.rot + 16 → kq.st = .shadow ∧ kq.rot = 0 ∧ kq.m = (kp.m + 1) % 32 ∧ kq.passes = 0))) ∧
  (∀ (s : State) (a r : Nat) (diff : List Nat), a < 65536 → r < 512 → s.awake = true → s.calOk (s.servingArray a) = true → s.holderOf a ≠ none →
    s.arrays.any (fun x => x.2.prog.isSome && x.1 ≠ s.servingArray a && x.1 / 64 = s.servingArray a / 64) = false →
    (s.arrays.filter (fun x => x.2.prog.isSome && x.1 ≠ s.servingArray a)).length < 64 →
    (s.arr (s.servingArray a)).prog = none → s.inPass (s.servingArray a) = false → sortedKeys (s.arr (s.servingArray a)).rows = true →
    CompletesWith (exec (.rowProgramAttempt ⟨a, r, diff⟩) s) (fun u =>
      (diff = [] → (u.arr (s.servingArray a)).prog = none ∧ getD 0 r (u.arr (s.servingArray a)).rows =
        physRow (s.repair (s.servingArray a)) (s.arr (s.servingArray a)) (s.logicalRow a r)) ∧
      (diff ≠ [] → (u.arr (s.servingArray a)).prog = some (r, 1)))) ∧
  (∀ (s : State) (a : Nat) (wrong : List (Nat × Int)), a < 65536 → s.awake = true → s.holderOf a ≠ none →
    exec (.knownSumsComputed a wrong) s = .next (s.formSums a wrong) ∧
    ((s.formSums a wrong).arr a).sumsOk = true ∧ ((s.formSums a wrong).arr a).sumsTick = s.tick ∧
    (knownSums (getD [] a s.stackCopy) (s.arr a).pb ≠ [] →
      getD [] a (s.formSums a []).sums = knownSums (getD [] a s.stackCopy) (s.arr a).pb)) ∧
  (∀ (s : State) (loc syn : Nat) (site : UeSite), s.pwr.st ≠ .off → s.pwr.st ≠ .dormant → s.ev.halted = false →
    (s.ev.resetDue = none → CompletesWith (exec (.memUe site loc) s) (fun u => u.ev.resetDue = some (ueNo site + 1, loc))) ∧
    CompletesWith (exec (.memCe loc syn) s) (fun u => u.ev.ce = satAdd 32 s.ev.ce 1 ∧ u.ev.injCe = none ∧ bit u.ev.errSum 5 = true)) ∧
  (∀ (s : State) (c l : Nat) (f : BootFound), s.ev.halted = false → s.pwr.tclkOk = true →
    (s.ev.resetDue = some (c, l) → exec (.chipReset c l f) s = .next (s.chipReset c l f)) ∧
    (s.pwr.st ≠ .off → s.pwr.st ≠ .dormant → s.sec.bootOk = true → exec (.watchdog f) s = .next (s.chipReset 5 s.ev.loc f)) ∧
    (s.chipReset c l f).ev.cause = c ∧ (s.chipReset c l f).ev.resetDue = none ∧ (s.chipReset c l f).ev.chips = satAdd 32 s.ev.chips 1) ∧
  (∀ (s : State), s.pwr.st ≠ .off →
    exec .thermtrip s = .next { s with pwr := { s.pwr with trip := true, aclk := 0, want := 0, pllLock := false }
                                       store := { s.store with tripFlag := true } })

/-- HK_CHUNK_START in a running partition with a tile between runs opens the chunk and puts every tile between runs on its housekeeping
sequence: with credit left after accrual it takes HK_CHUNK from the credit, without credit it does so only while no beat input waits, at
no cost. HK_OVERDUE reports an activity at urgency 2 once for its array. HK_ROUND of a powered device with TCLK good advances ROUNDS and
empties the messages to send again. CAL_STEP of the next column of a calibration in progress stores that column's trims, held at -32 and
31, and goes on to the next column; in service, the one step of a tracing array and a column with no stand-in wait for the housekeeping
sequence of the tile. (R191, R193, R195, R378, R385, R390, R392, R397; derived) -/
def Obligations.HousekeepingRuns : Prop :=
  (∀ (s : State) (c : Nat), c < 16 → s.runs (s.partOfCluster c) = true → (s.cluster c).chunk = false →
    (∃ i, i < 64 ∧ s.betweenRuns (c * 64 + i) = true) →
    let x := (s.accrue c).cluster c
    (0 < x.credit ∨ (s.accrue c).noInput (s.partOfCluster c) = true → CompletesWith (exec (.hkChunkStart c) s) (fun u =>
      (u.cluster c).chunk = true ∧
      (u.cluster c).credit = (if 0 < x.credit then x.credit - (1000 * ((s.accrue c).hkOf c).2 : Nat) else x.credit) ∧
      (∀ i, i < 64 → s.betweenRuns (c * 64 + i) = true → (u.tile (c * 64 + i)).kind = .hk ∧ (u.tile (c * 64 + i)).at_ = 3968))) ∧
    (x.credit ≤ 0 → (s.accrue c).noInput (s.partOfCluster c) = false → exec (.hkChunkStart c) s = .next (s.accrue c))) ∧
  (∀ (s : State) (a act age i : Nat), a < 65536 → s.activityAge a act = some (age, i) → s.awake = true → 2 * i ≤ age →
    (s.arr a).overdue.contains act = false →
    exec (.hkOverdue a act) s =
      .next ((s.setArr a { s.arr a with overdue := (s.arr a).overdue ++ [act] }).raise 0x0030 1 (s.holderOf a) 1 a act)) ∧
  (∀ (s : State) (r : HkReading), s.pwr.st ≠ .off → s.pwr.tclkOk = true →
    CompletesWith (exec (.hkRound r) s) (fun u => u.hk.rounds = (s.hk.rounds + 1) % 2 ^ 16 ∧ u.hk.resend = [] ∧ u.tick = s.tick)) ∧
  (∀ (s : State) (a c n : Nat) (tc o g : Int), a < 65536 → (s.tile (a / 64)).calib = some (a, n, tc) → s.calRuns = true →
    (s.arr a).prog = none → (s.tile (a / 64)).disputes.any (fun d => d.array = a % 64) = false → isTracing a = false →
    standInOk (s.arr a) (s.repair a) c = true → (calOrder (s.arr a) (s.repair a))[n]? = some c →
    n + 1 < (calOrder (s.arr a) (s.repair a)).length →
    CompletesWith (exec (.calStep ⟨a, c, o, g⟩) s) (fun u =>
      find? c (u.arr a).trims = some (max (-32) (min 31 o), max (-32) (min 31 g)) ∧ (u.tile (a / 64)).calib = some (a, n + 1, tc) ∧
      (∀ k, k ≠ c → find? k (u.arr a).trims = find? k (s.arr a).trims))) ∧
  (∀ (s : State) (a c : Nat) (o g : Int), a < 65536 → s.isReady = true → (isTracing a = true ∨ standInOk (s.arr a) (s.repair a) c = false) →
    (s.inSequence (a / 64) 2 a = false → exec (.calStep ⟨a, c, o, g⟩) s = .next s) ∧
    (∀ n tc, s.inSequence (a / 64) 2 a = true → isTracing a = true → (s.tile (a / 64)).calib = some (a, n, tc) → s.calRuns = true →
      (s.arr a).prog = none → (s.tile (a / 64)).disputes.any (fun d => d.array = a % 64) = false →
      CompletesWith (exec (.calStep ⟨a, c, o, g⟩) s) (fun u => (u.tile (a / 64)).calib = none ∧ (u.arr a).calOk = true ∧
        (u.arr a).calPend = false ∧ (u.arr a).trims = (s.arr a).trims)))

/-- In RUN or IDLE with TCLK good, BRAKE_ON takes CLEAR to BRAKED and BRAKE_TOGGLE to TOGGLE, each counted; BRAKE_OFF takes the filter to
CLEAR and reports how long it braked. BEYOND is entered and left as the braked ticks of the window pass the allowance, and 100 ms of
braking is reported once. ACLK_CHANGE lands the requested frequency. A lost CXL or TCLK reference has its effect and is restored. REST is
entered by a quiet READY device after its delay, with the clocks stopped, and left with the clocks on; an idle tile of a GATE partition
gates, and a called one wakes. (R431, R432, R434, R435, R436, R437, R442, R443, R444; derived) -/
def Obligations.PowerFollowsThePins : Prop :=
  ∀ (s : State),
    (s.filterRuns = true → s.pwr.filter = .clear →
      CompletesWith (exec .brakeOn s) (fun u => u.pwr.filter = .braked ∧ u.pwr.brkCnt = satAdd 32 s.pwr.brkCnt 1 ∧ u.pwr.brakeOn = some s.tick)) ∧
    (s.filterRuns = true → s.pwr.filter ≠ .toggle →
      CompletesWith (exec .brakeToggle s) (fun u => u.pwr.filter = .toggle ∧ u.pwr.brkCnt = satAdd 32 s.pwr.brkCnt 1)) ∧
    (s.filterRuns = true → s.braking = true →
      CompletesWith (exec .brakeOff s) (fun u => u.pwr.filter = .clear ∧ u.pwr.brakeOn = none ∧ u.pwr.brkCnt = s.pwr.brkCnt)) ∧
    (s.pwr.beyond = false → 25 * s.pwr.allowUs < s.brakedTicks → CompletesWith (exec .brakeBeyond s) (fun u => u.pwr.beyond = true)) ∧
    (s.pwr.beyond = true → s.brakedTicks ≤ 25 * s.pwr.allowUs →
      exec .beyondClear s = .next { s with pwr := { s.pwr with beyond := false } }) ∧
    (∀ t, s.pwr.brakeOn = some t → s.pwr.heldRaised = false → 2500000 ≤ s.tick - t →
      exec .brakeHeld s = .next (({ s with pwr := { s.pwr with heldRaised := true } }).raise 0x0403 1)) ∧
    (s.pwr.pllLock = true → s.pwr.trip = false →
      exec (.aclkChange s.pwr.want) s = .next { s with pwr := { s.pwr with aclk := s.pwr.want } }) ∧
    (s.pwr.st = .run → s.pwr.cxlRef = true →
      CompletesWith (exec (.refclkLost .cxl) s) (fun u => u.pwr.cxlRef = false ∧ u.host.linkW = 0 ∧ u.host.linkGts = 0)) ∧
    (s.pwr.st = .run → s.pwr.tclkOk = true →
      CompletesWith (exec (.refclkLost .tclk) s) (fun u => u.pwr.tclkOk = false ∧ u.pwr.aclk = 0 ∧ u.pwr.chipHold = true)) ∧
    exec (.refclkRestored .link0) s = .next { s with pwr := { s.pwr with lref0 := true } } ∧
    (s.awake = true → s.isReady = true → s.pwr.restEn = true → s.quiet = true → max 1 s.pwr.restDelay * 25000 ≤ s.tick - s.pwr.idleSince →
      CompletesWith (exec .restEntry s) (fun u => u.pwr.st = .rest ∧ u.pwr.aclk = 0 ∧ u.pwr.pllLock = false ∧ u.pwr.restAt = s.tick ∧
        u.ledger = s.ledger ∧ u.kv = s.kv ∧ u.tiles = s.tiles ∧ u.arrays = s.arrays)) ∧
    (s.pwr.st = .rest → CompletesWith (exec .restExit s) (fun u =>
      u.pwr.st = (if s.allGated then .idle else .run) ∧ u.pwr.aclk = s.wantClk ∧ u.pwr.pllLock = true ∧ u.ledger = s.ledger ∧ u.kv = s.kv)) ∧
    (∀ t ts, t < 1024 → (s.part (s.partOfTile t)).table = some ts → s.awake = true →
      (ts.gate = true → s.tileIdle t = true → CompletesWith (exec (.tileGate t) s) (fun u =>
        u.tile t = { s.tile t with gated := true } ∧ (∀ k, k ≠ t → u.tile k = s.tile k))) ∧
      ((s.tile t).gated = true → (s.cluster (t / 64)).chunk = true → s.hk.stop = false →
        CompletesWith (exec (.tileWake t) s) (fun u => (u.tile t).gated = false ∧ u.pwr.st = .run)))

/-- POWER_ON_RESET starts TICK at 0 with no request in the ledger, keeps the cells and the record store, and with a good identity and fuses
takes the next boot serial. A warm reset, a brown-out and DORMANT_WAKE keep what outlasts the volatile domains and go on as start-up says;
removed power leaves OFF. MAIN_RAILS_VALID starts the boot. CXL training in start-up step 6 sets the link's mode and goes to step 7. A
rebuild in start-up is followed by STARTUP_READY, which makes the device READY. TCLK_RECOVERED runs the held chip reset with cause 0. A
function-level reset ends the tenant and starts the scrub. (R307, R403, R409, R424, R432, R434, R438, R439, R447, R449, R462; derived) -/
def Obligations.ResetsAndStartUp : Prop :=
  ∀ (s : State) (f : BootFound),
    CompletesWith (exec (.powerOnReset f) s) (fun u =>
      u.tick = 0 ∧ u.ledger = [] ∧ u.pending = s.pending ∧ u.out = s.out ∧ u.store.mapA = s.store.mapA ∧ u.store.mapB = s.store.mapB ∧
      (f.idOk = true → f.pair0Ok = true →
        u.store.bootSer = min (s.store.bootSer + 1) (2 ^ 32 - 1) ∧ u.host.boot = u.store.bootSer ∧ u.sec.idOk = true) ∧
      (f.idOk = false → u.sec.idFail = true)) ∧
    (∀ perst, s.pwr.st ≠ .off → exec (.warmReset perst f) s = .next ((s.warmed (if perst then 2 else 1)).startUp f)) ∧
    (s.pwr.st ≠ .off → s.pwr.st ≠ .dormant → s.pwr.railsOk = true →
      CompletesWith (exec .railBrownout s) (fun u => u.pwr.railsOk = false ∧ u.pwr.phase = 0 ∧ u.ledger = [] ∧ u.store = s.store)) ∧
    (s.pwr.st ≠ .off → s.pwr.st ≠ .dormant → s.pwr.railsOk = false → s.pwr.tclkOk = true →
      exec (.mainRailsValid f) s = .next (State.startUp { s with pwr := { s.pwr with railsOk := true } } f)) ∧
    CompletesWith (exec .powerRemoved s) (fun u => u.pwr.st = .off ∧ u.ledger = [] ∧ u.store = s.store ∧
      (∀ a x, find? a s.arrays = some x → x.rows ≠ [] → (u.arr a).rows = x.rows)) ∧
    (s.pwr.st = .dormant → CompletesWith (exec .dormantWake s) (fun u =>
      u.pwr.st = .run ∧ u.pwr.phase = 0 ∧ u.pwr.railsOk = false ∧ u.host.devId = s.host.devId ∧ u.host.boot = s.host.boot)) ∧
    (∀ w g, cxlModeOk w g = true → s.pwr.phase = 1 → s.sec.bootOk = true → s.pwr.cxlRef = true → s.ev.halted = false → s.pwr.st = .run →
      CompletesWith (exec (.cxlTrain w g) s) (fun u => u.pwr.phase = 2 ∧ u.host.linkW = w ∧ u.host.linkGts = g ∧ u.pwr.wakeN = true)) ∧
    (∀ ok plan, s.awake = true → s.pwr.phase = 2 → s.pwr.rebuilt = false →
      CompletesWith (exec (.rebuild [] ok plan) s) (fun u => u.pwr.phase = 3 ∧ u.pwr.rebuilt = true)) ∧
    (s.pwr.phase = 3 → s.pwr.rebuilt = true → s.sec.bootOk = true →
      CompletesWith (exec .startupReady s) (fun u => u.isReady = true ∧ s.store.svnMin ≤ u.store.svnMin)) ∧
    (s.pwr.tclkOk = false → s.pwr.chipHold = true → s.ev.halted = false → s.sec.bootOk = true →
      exec (.tclkRecovered f) s = .next (State.chipReset { s with pwr := { s.pwr with tclkOk := true, chipHold := false } } 0 s.ev.loc f)) ∧
    (s.barOn = true → s.sec.bootOk = true → s.ev.halted = false →
      CompletesWith (exec .functionLevelReset s) (fun u => u.ev.resetDue = none ∧
        u.sec.tenant = none ∧ u.sec.tenKeys = none ∧ u.sec.devKeys = none ∧ u.sec.scrub = .scrubbing ∧ u.girths = [] ∧
        u.host.rings = [] ∧ u.host.fetched = [] ∧ u.host.devId = s.host.devId ∧ u.pwr.last = 3))

/-- In turn and with their checks passed, after the host reads that they ask for: LOAD_SHARD keeps the bytes under SHARD_ID, and BYTES = 0
drops the shard; LOAD_COMMIT, of adaptive or of expert width, whose arrays take their contents and whose record is written puts the
generated table set in force and replies OK, and waits while ACLK is stopped; TABLE_LOAD puts the loaded table set with its figures in
force; INLAY_LOAD stores the differences under its ID and INLAY_DROP of an inlay that no request is bound to deletes it; WEIGHTS_CLEAR
without residue leaves every cell and every stack-copy slot of the named clusters zero. (R97, R285, R298, R300, R309, R323, R324, R338,
R339, R342, R427; derived) -/
def Obligations.WeightsAndTablesAreLoaded : Prop :=
  ∀ (s : State) (b : Nat) (src : CmdSrc) (w : List Nat) (h : HostMem),
    let p := pktPart w
    (s.InTurn b 0x10 src w →
      (nthW w 4 = 0 → exec (.loadShard b h) s = .next (State.reply { s with shards := del (nthW w 5) s.shards } src w 0x00 [nthW w 5])) ∧
      (nthW w 4 ≠ 0 → find? (nthW w 5) s.shards = none → (pktFlag w 9 = true ∨ nthW w 4 % 2 = 0) → nthW w 4 ≤ s.shardRoom →
        addrOk (dword w 2) (nthW w 4) = true → addrOk (dword w 6) 64 = true → s.digestOk h (dword w 6) (s.readMem h (dword w 2) (nthW w 4)) = true →
        let a := (s.asks (dword w 2) (nthW w 4)).asks (dword w 6) 64
        exec (.loadShard b h) s = .next (State.reply { a with
          shards := put (nthW w 5) (pktFlag w 9, s.readMem h (dword w 2) (nthW w 4)) s.shards } src w 0x00 [nthW w 5]))) ∧
    (∀ plan bad flashOk m x, s.InTurn b 0x11 src w → (s.part p).swap = none → s.activeOf p = [] → (s.part p).defined = true →
      addrOk (dword w 2) (nthW w 4) = true → readManifest 0 false (s.readMem h (dword w 2) (nthW w 4)) = some m →
      let width := if pktExpert w then nthW w 5 else 0
      let a := s.asks (dword w 2) (nthW w 4)
      width ≤ 8 → a.prepare p width (s.readMem h (dword w 2) (nthW w 4)) m plan = .inr x →
      (s.awake = false → exec (.loadCommit b h plan bad flashOk) s = .next (s.stallCmd src w)) ∧
      (∀ r1 s2, s.awake = true → ((a.setPart p { a.part p with weights := some x.weights }).layoutOf 0).bytes.length ≤ 2 ^ 25 →
        let as := x.weights.entries.map (·.placed.array)
        let s0 := a.writeStack p x.rows
        (s0.setPart p { s0.part p with weights := none, table := none }).programAll bad as = (r1, true) →
        let r2 := r1.freeShards x.weights.matrices
        ((r2.setPart p { r2.part p with weights := some x.weights }).freshSums as).writeRecord flashOk = some s2 →
        CompletesWith (exec (.loadCommit b h plan bad flashOk) s) (fun t => (t.part p).table = some x.table ∧
          (∀ k, src = .ring k → ∃ res, (t.ring k).cqWait = (s2.ring k).cqWait ++ [replyEntry w 0x00 res])))) ∧
    (∀ m v main draft, s.InTurn b 0x80 src w → s.activeOf p = [] → (s.part p).defined = true → addrOk (dword w 2) (nthW w 4) = true →
      addrOk (dword w 5) 64 = true → s.digestOk h (dword w 5) (s.readMem h (dword w 2) (nthW w 4)) = true →
      readManifest 2 false (s.readMem h (dword w 2) (nthW w 4)) = some m → m.pval = some v →
      (tableOf false v m).check (s.part p).clusterList s.heldMap m.members (v.resCount ≠ 0xFFFF) = some (main, draft) →
      CompletesWith (exec (.tableLoad b h) s) (fun t =>
        (t.part p).table = some (s.withFigures p (tableOf false v m) s.heldMap main draft) ∧ t.arrays = s.arrays ∧ t.ledger = s.ledger)) ∧
    (s.InTurn b 0x16 src w → find? (bits (nthW w 2) 11 0) (s.part p).inlays ≠ none →
      s.ledger.any (fun x => x.2.part = p && x.2.st.active && (s.extn x.1).inlay = some (bits (nthW w 2) 11 0)) = false →
      (s.girth p).claims.any (fun c => (s.extn (handleIdx c.handle)).inlay = some (bits (nthW w 2) 11 0)) = false →
      exec (.inlayDrop b) s = .next ((s.setPart p { s.part p with inlays := del (bits (nthW w 2) 11 0) (s.part p).inlays }).reply src w 0x00
        [bits (nthW w 2) 11 0])) ∧
    (∀ secs ws, let bs := s.readMem h (dword w 3) (nthW w 5)
      s.InTurn b 0x15 src w → find? (bits (nthW w 2) 11 0) (s.part p).inlays = none → addrOk (dword w 3) (nthW w 5) = true →
      addrOk (dword w 6) 64 = true → s.digestOk h (dword w 6) bs = true → (s.part p).weights = some ws →
      16 ≤ nthW w 5 → wordAt bs 0 < 2 ^ 16 → wordAt bs 1 = 0 → wordAt bs 2 = 0 → wordAt bs 3 = 0 → 16 * wordAt bs 0 ≤ nthW w 5 →
      readInlay ws.matrices (wordAt bs 0) (bs.drop 16) = some secs →
      let diffs := (s.inlayDiffs ws secs).map (·.2.2)
      (secs.map (·.1)).Nodup → inlayLimits ws.matrices (s.inlayDiffs ws secs) = true →
      ((s.part p).table.map (fun ts => ts.inlayFits diffs)).getD true = true →
      (∀ c, c < 16 → inlayBytes c (diffs :: s.parts.flatMap (fun x => x.2.inlays.map (·.2))) ≤ 2 ^ 23) →
      let a := (s.asks (dword w 3) (nthW w 5)).asks (dword w 6) 64
      exec (.inlayLoad b h) s = .next ((a.setPart p { s.part p with inlays := put (bits (nthW w 2) 11 0) diffs (s.part p).inlays }).reply src w
        0x00 [bits (nthW w 2) 11 0])) ∧
    (∀ u, s.InTurn b 0x8A src w → nthW w 3 = 65535 - bits (nthW w 2) 15 0 → s.arraysBusy (fun a => bit (bits (nthW w 2) 15 0) (a / 4096)) = false →
      s.awake = true →
      let e := s.eraseClusters (bits (nthW w 2) 15 0)
      let losers := (s.loaded.filter (fun x => x.2.entries.any (fun e => bit (bits (nthW w 2) 15 0) (e.placed.array / 4096)))).map (·.1)
      (losers.foldl (fun s p => (s.loseWeights p).startTiles p) e).writeRecord true = some u →
      CompletesWith (exec (.weightsClear b [] true) s) (fun t =>
        ∀ a, bit (bits (nthW w 2) 15 0) (a / 4096) = true → (t.arr a).rows = [] ∧ find? a t.stackCopy = none))

/-- In turn: SWAP_BEGIN with no swap open on the device, a manifest whose matrices match the loaded ones, no inlay on them and a SWAP_US of at
least the hold bound opens the swap: at the pommel its announced bound is in force at once and the start goes out on the rein tree; at a
member the reply is OK with the hold bound. SWAP_LAYER of a listed layer, with the device awake, swaps that layer if no beat is in
progress and otherwise holds it, so that no further beat starts, and waits, as it does while ACLK is stopped; a layer already held while a
thermal stop is in force replies FAULT_ABORT. SWAP_END of an open swap whose record is written closes it: no swap is open, and swap_term
is 0. (R187, R323, R331, R333, R334, R336, R399; derived) -/
def Obligations.SwapsOpenProceedAndClose : Prop :=
  ∀ (s : State) (b : Nat) (src : CmdSrc) (w : List Nat) (h : HostMem),
    let p := pktPart w
    (∀ us ws m sw, s.InTurn b 0x12 src w → (∀ k, k < 16 → (s.part k).swap = none) → addrOk (dword w 2) (nthW w 4) = true →
      (s.part p).weights = some ws → readManifest 1 (s.isPommel p) (s.readMem h (dword w 2) (nthW w 4)) = some m →
      (s.part p).inlays.any (fun x => x.2.any (fun d => match diffMatrix ws d with
        | some i => (List.range m.matrices.length).contains i
        | none => false)) = false →
      let a := s.asks (dword w 2) (nthW w 4)
      a.swapOf (s.part p).clusters m ws = some sw →
      let bound := a.holdBound p sw.matrices
      (s.isPommel p = true → (bound ≤ m.swapUs ∨ m.matrices = []) →
        CompletesWith (exec (.swapBegin b h us) s) (fun t =>
          (t.part p).swap = some sw ∧ (t.girth p).swapTerm = 25 * sw.announced + (s.girth p).wheel.c ∧ (t.girth p).swapTick = s.tick ∧
          t.said = a.said ++ [.rein p (.swap sw.swapUs)])) ∧
      (s.isPommel p = false → (∀ u, us = some u → bound ≤ u) →
        exec (.swapBegin b h us) s = .next ((a.setPart p { s.part p with
          swap := some { sw with announced := bound, swapUs := us.getD 0 } }).reply src w 0x00 [bound]))) ∧
    (∀ bad sw ws, s.InTurn b 0x13 src w → (s.part p).swap = some sw → (s.part p).weights = some ws →
      sw.matrices.any (fun m => m.2.layer = bits (nthW w 2) 15 0) = true →
      (s.hk.stop && sw.held.contains (bits (nthW w 2) 15 0)) = false →
      (s.awake = true → s.atBarrier p = true →
        exec (.swapLayer b bad) s = .next (s.swapLayer p sw ws (bits (nthW w 2) 15 0) bad src w)) ∧
      (s.awake = true → s.atBarrier p = false →
        exec (.swapLayer b bad) s = .next ((s.setPart p { s.part p with swap := some (sw.hold (bits (nthW w 2) 15 0)) }).stallCmd src w)) ∧
      (s.awake = false → exec (.swapLayer b bad) s = .next (s.stallCmd src w))) ∧
    (∀ bad sw ws, s.InTurn b 0x13 src w → (s.part p).swap = some sw → (s.part p).weights = some ws →
      sw.matrices.any (fun m => m.2.layer = bits (nthW w 2) 15 0) = true →
      (s.hk.stop && sw.held.contains (bits (nthW w 2) 15 0)) = true → exec (.swapLayer b bad) s = .next (s.reply src w 0x0A)) ∧
    (∀ flashOk sw u, s.InTurn b 0x14 src w → (s.part p).swap = some sw → s.closeSwap p sw flashOk = some u →
      exec (.swapEnd b flashOk) s = .next (u.reply src w 0x00 u.digestWords) ∧ (u.part p).swap = none ∧ (u.girth p).swapTerm = 0)

/-- In turn on an awake device: CALIBRATE, PROOF_RUN and XCHECK_RUN take the arrays they name (every one of the partition, or one) in order,
each when the housekeeping sequence has a turn for it and paid from its cluster's credit; they reply with the numbers of arrays done and
of arrays that opened disputes when none is left, and else keep their progress and wait. An array that CALIBRATE takes is calibrated:
valid, not pending, at its cluster's temperature. ARRAY_READBACK writes the 34 bytes of each of the 512 rows to DEST and replies whether
the digest matches and how many bits differ. REPAIR_MAP_EDIT of an array that no request or swap uses assigns or releases a patch, retires
or restores the array, and replies OK or REJECT_CAPACITY. (R285, R300, R327, R348, R353, R355, R391, R392; derived) -/
def Obligations.ExpertCommandsAct : Prop :=
  ∀ (s : State) (b : Nat) (src : CmdSrc) (w : List Nat), s.awake = true →
    let a := bits (nthW w 2) 15 0
    let f := s.host.fetched.find? (fun f => f.src = src && f.words = w)
    let take := fun (run : State → Nat → State) (as : List Nat) =>
      State.takeArrays run ((f.bind (·.todo)).getD as) s ((f.map (·.done)).getD 0) ((f.map (·.found)).getD 0)
    let wait := fun (r : State × List Nat × Nat × Nat) => (State.stallCmd { r.1 with
      host := { r.1.host with fetched := markProgress src w r.2.1 r.2.2.1 r.2.2.2 r.1.host.fetched } } src w)
    (∀ trims as, s.InTurn b 0x82 src w → s.namedArrays w = some as →
      let r := take (fun s a => s.calWhole trims a) as
      exec (.calibrate b trims) s = .next (if r.2.1 = [] then r.1.reply src w 0x00 [r.2.2.1] else wait r)) ∧
    (∀ trims, s.InTurn b 0x82 src w → pktAll w = false → s.hkTurn a = true → f.bind (·.todo) = none →
      CompletesWith (exec (.calibrate b trims) s) (fun t =>
        (t.arr a).calOk = true ∧ (t.arr a).calPend = false ∧ (t.arr a).tcal = s.clusterTemp (a / 4096) ∧ (t.arr a).calTick = s.tick)) ∧
    (∀ err as, s.namedArrays w = some as → (pktAll w = true ∨ (isReserve a = false ∧ isTracing a = false)) →
      (s.InTurn b 0x83 src w →
        let r := take (State.proofOnce err) (as.filter s.checkable)
        exec (.proofRun b err) s = .next (if r.2.1 = [] then r.1.reply src w 0x00 [r.2.2.1, r.2.2.2] else wait r)) ∧
      (s.InTurn b 0x84 src w →
        let r := take (State.xcheckOnce err) (as.filter s.xcheckOk)
        exec (.xcheckRun b err) s = .next (if r.2.1 = [] then r.1.reply src w 0x00 [r.2.2.1, r.2.2.2] else wait r))) ∧
    (s.InTurn b 0x86 src w → addrOk (dword w 3) 17408 = true →
      ∃ same, exec (.arrayReadback b) s = .next ((s.writeMem (dword w 3)
        (allRows.flatMap (fun r => leBytes 34 (getD 0 r (s.arr (s.servingArray a)).rows)))).reply src w 0x00
        [b2n same, (allRows.map (fun r => bitsDiffer (s.readRow a r) (s.logicalRow a r))).sum]) ∧
        (∀ e, s.layoutEntry a = some e → (same = true ↔ arrayDigest a (s.readArray a) = e.ad))) ∧
    (∀ bad, s.InTurn b 0x89 src w → bits (nthW w 3) 28 24 = a / 64 % 64 / 2 → s.arraysBusy (fun x => x = a || x = s.contentOf a) = false →
      let p := bits (nthW w 3) 18 16
      let st := fun (ok : Bool) => if ok then 0x00 else 0x02
      (bits (nthW w 3) 1 0 = 0 → exec (.repairMapEdit b bad) s =
        .next ((s.assignPatch a p (bits (nthW w 3) 15 8) bad).1.reply src w (st (s.assignPatch a p (bits (nthW w 3) 15 8) bad).2))) ∧
      (bits (nthW w 3) 1 0 = 1 → exec (.repairMapEdit b bad) s = .next ((s.releasePatch a p).reply src w 0x00)) ∧
      (bits (nthW w 3) 1 0 = 2 → exec (.repairMapEdit b bad) s = .next ((s.tryRetire a bad).1.reply src w (st (s.tryRetire a bad).2))) ∧
      (bits (nthW w 3) 1 0 = 3 → exec (.repairMapEdit b bad) s = .next ((s.restoreArray a bad).1.reply src w (st (s.restoreArray a bad).2))))

/-- In turn: TENANT_BEGIN with no tenant, from a path that may begin one and with a healthy generator sets the tenant and fresh tenant keys.
TENANT_END of the active tenant's ID, from a ring or a mailbox that may end it, ends the tenant: its keys and the device keys are dropped,
every girth is UNSET and the scrub starts. SCRUB_COMPLETE leaves the stacks empty and starts the fill; FILL_COMPLETE leaves ledger, tiles,
spill and KV zero, makes new device keys and starts the rebuild. STOP_INTERFACE unlocks the TDI, an error from RUN takes it to ERROR, and
both end a tenant of the trusted path. TDI_RUN with a session and both stream keys enters RUN. (R415, R416, R420, R422, R423, R426;
derived) -/
def Obligations.TenantsBeginAndEnd : Prop :=
  (∀ (s : State) (b : Nat) (src : CmdSrc) (w : List Nat), s.InTurn b 0x30 src w → s.sec.tenant = none →
    (s.host.conf = false ∨ s.trustedPath src = true) → s.sec.trngOk = true →
    CompletesWith (exec (.tenantBegin b) s) (fun t =>
      t.sec.tenant = some (dword w 2) ∧ t.sec.viaTrust = s.trustedPath src ∧ t.sec.tenKeys = some (s.sec.keyGen + 1) ∧ t.sec.wrapCnt = 0)) ∧
  (∀ (s : State) (b : Nat) (src : CmdSrc) (w : List Nat), s.InTurn b 0x31 src w → s.sec.tenant = some (dword w 2) →
    (∀ m, src = .mbx m → m < 2 ∨ s.sec.viaTrust = false) →
    CompletesWith (exec (.tenantEnd b) s) (fun t =>
      t.sec.tenant = none ∧ t.sec.tenKeys = none ∧ t.sec.devKeys = none ∧ t.girths = [] ∧ t.sec.scrub = .scrubbing ∧
      t.sec.scrubSrc = some src ∧ t.sec.scrubPkt = w)) ∧
  (∀ (s : State), s.awake = true →
    (s.sec.scrub = .scrubbing → CompletesWith (exec .scrubComplete s) (fun t =>
      t.sec.scrub = .filling ∧ t.ext = [] ∧ t.staging = [] ∧ t.shards = [] ∧ t.stackCopy = [] ∧ t.sums = [])) ∧
    (s.sec.scrub = .filling → s.sec.trngOk = true → CompletesWith (exec .fillComplete s) (fun t =>
      t.sec.scrub = .rebuilding ∧ t.ledger = [] ∧ t.tiles = [] ∧ t.spill = [] ∧ t.kv = [] ∧ t.fabric = [] ∧ t.kvWr = [] ∧
      t.sec.devKeys = some (s.sec.keyGen + 1) ∧ t.arrays = s.arrays))) ∧
  (∀ (s : State) (cause : Nat),
    CompletesWith (exec .stopInterface s) (fun t => t.sec.tdi = .unlocked ∧
      (s.sec.tdi = .run → s.sec.tenant ≠ none → s.sec.viaTrust = true → t.sec.tenant = none ∧ t.sec.scrub = .scrubbing ∧ t.sec.scrubWhy = 1)) ∧
    ((s.sec.tdi = .run ∨ s.sec.tdi = .locked) → CompletesWith (exec (.tdispError cause) s) (fun t => t.sec.tdi = .error ∧
      (s.sec.tdi = .run → s.sec.tenant ≠ none → s.sec.viaTrust = true → t.sec.tenant = none ∧ t.sec.scrub = .scrubbing ∧ t.sec.scrubWhy = 2))) ∧
    (s.sec.bootOk = true → s.sec.spdm.session = true → s.sec.ideKeys.contains 0 = true → s.sec.ideKeys.contains 1 = true → s.sec.tdi ≠ .error →
      exec .tdiRun s = .next { s with sec := { s.sec with tdi := .run } }) ∧
    (∀ n, s.sec.bootOk = true → s.sec.spdm.session = true → n < 2 → CompletesWith (exec (.ideKm n) s) (fun t =>
      t.sec.ideKeys.contains n = true ∧ t.sec.tdi = s.sec.tdi)))

/-- With firmware running, each SPDM request in its order completes: GET_VERSION starts the connection afresh, capabilities and algorithms
follow, digests, certificate, CHALLENGE and measurements are answered, KEY_EXCHANGE and a FINISH that verifies make a session that
KEY_UPDATE, HEARTBEAT and END_SESSION act on. FIRMWARE_UPDATE writes the slot that does not run and prefers it where its signature, format
and SVN hold. The failure log is read, cleared and returned as CPER records; MCTP_STATUS reports the boot; TRNG_FAIL closes the generator
and a passed health test opens it. (R374, R403, R404, R408, R412, R413, R414, R420; derived) -/
def Obligations.FirmwareAnswers : Prop :=
  ∀ (s : State),
    (s.sec.bootOk = true →
      exec .getVersion s = .next ({ s with sec := { s.sec with spdm := { version := true } } }.doe 0x04 [0x13]) ∧
      (s.sec.spdm.version = true →
        exec .getCapabilities s = .next ({ s with sec := { s.sec with spdm := { s.sec.spdm with caps := true } } }.doe 0x61 [])) ∧
      (∀ algs, s.sec.spdm.caps = true → (∀ n, n < 5 → n ∈ algs) →
        exec (.negotiateAlgorithms algs) s = .next ({ s with sec := { s.sec with spdm := { s.sec.spdm with algs := true } } }.doe 0x63 [])) ∧
      (s.sec.spdm.algs = true → s.sec.certOk = true →
        exec (.getDigests 0) s = .next (s.doe 0x01 (sha512 Config.certChain)) ∧
        (∀ o l, exec (.getCertificate 0 o l) s = .next (s.doe 0x02 ((Config.certChain.drop o).take l))) ∧
        (∀ n, exec (.challenge n) s = .next (s.doe 0x03 (sha512 Config.certChain ++ leBytes 32 n ++
          Config.signature (sha512 Config.certChain ++ leBytes 32 n)))) ∧
        (∀ x, s.sec.spdm.session = false → s.sec.trngOk = true →
          CompletesWith (exec (.keyExchange x) s) (fun t => t.sec.spdm = { s.sec.spdm with exchanged := true }))) ∧
      (∀ i v, s.sec.spdm.algs = true → 1 ≤ i → i ≤ 8 → s.measurement i = some v →
        exec (.getMeasurements i false) s = .next (s.doe 0x60 (measureBlock i v))) ∧
      (∀ ok, s.sec.spdm.exchanged = true → CompletesWith (exec (.finish ok) s) (fun t =>
        t.sec.spdm = { s.sec.spdm with exchanged := false, session := ok, keyGen := 0 })) ∧
      (s.sec.spdm.session = true →
        (∀ both, CompletesWith (exec (.keyUpdate both) s) (fun t =>
          t.sec.spdm = { s.sec.spdm with keyGen := s.sec.spdm.keyGen + (if both then 2 else 1) })) ∧
        exec .heartbeat s = .next (s.doe 0x68 []) ∧
        CompletesWith (exec .endSession s) (fun t => t.sec.spdm = { s.sec.spdm with session := false, keyGen := 0 }))) ∧
    (∀ img : FwImage, s.sec.bootOk = true → s.pwr.st ≠ .off → s.pwr.st ≠ .dormant →
      CompletesWith (exec (.firmwareUpdate img) s) (fun t =>
        (if s.sec.runB then t.store.slotA else t.store.slotB) = { version := img.version, svn := img.svn, digest := img.digest } ∧
        (if s.sec.runB then t.store.slotB else t.store.slotA) = (if s.sec.runB then s.store.slotB else s.store.slotA) ∧
        t.store.prefB = (if img.sigOk ∧ img.fmtOk ∧ s.store.svnMin ≤ img.svn then !s.sec.runB else s.store.prefB) ∧ t.sec = s.sec)) ∧
    (s.mctpOn = true →
      exec .getEventRecords s = .next (s.emit (.mctp 1 s.ev.sigs.flatten)) ∧
      exec .clearEventRecords s = .next { s with ev := { s.ev with sigs := [], cperNext := 0 } } ∧
      (∀ n, CompletesWith (exec (.cperRead n) s) (fun t =>
        t.ev.cperNext = s.ev.cperNext + ((s.ev.sigs.drop s.ev.cperNext).take n).length ∧
        t.out = s.out ++ [.mctp 2 (((s.ev.sigs.drop s.ev.cperNext).take n).flatMap (fun g => cperGuid ++ g))]))) ∧
    (s.pwr.st ≠ .off →
      exec .mctpStatus s = .next (s.emit (.mctp 0 [if s.sec.idFail then 1 else if s.sec.bootFail then 2 else 0])) ∧
      (∀ n, CompletesWith (exec (.trngFail n) s) (fun t => t.sec = { s.sec with trngOk := false }))) ∧
    exec .trngHealthPass s = .next { s with sec := { s.sec with trngOk := true } }

/-- For a packet in turn whose HANDLE names an index that holds a FREE entry, or whose generation differs from the entry's: CANCEL, PAUSE,
QUERY and DROP reply REJECT_PARAM, and RESUME that code unless R184 has rejected it already; the reply is all that happens. A CANCEL or
QUERY from a mailbox does the same. (R165) -/
def Obligations.UnknownHandlesAreRejected : Prop :=
  ∀ (s : State) (b : Nat) (src : CmdSrc) (w : List Nat),
    ((s.entry (handleIdx (nthW w 2))).st = .free ∨ (s.entry (handleIdx (nthW w 2))).gen ≠ handleGen (nthW w 2)) →
    (s.InTurn b 0x02 src w → exec (.cancel b) s = .next (s.reply src w 0x04)) ∧
    (s.InTurn b 0x03 src w → exec (.pause b) s = .next (s.reply src w 0x04)) ∧
    (s.InTurn b 0x04 src w → exec (.resume b) s = .next (match s.girthJudge (pktPart w) with
      | some st => s.reply src w st (s.stopBounds (pktPart w) st 0 false)
      | none => s.reply src w 0x04)) ∧
    (s.InTurn b 0x05 src w → exec (.query b) s = .next (s.reply src w 0x04)) ∧
    (s.InTurn b 0x06 src w → exec (.drop b) s = .next (s.reply src w 0x04)) ∧
    cancelCmd src w s = s.reply src w 0x04 ∧ queryCmd src w s = s.reply src w 0x04

/-- A packet whose opcode the table does not list is answered UNSUPPORTED, whatever else it holds and whatever its expert flag is, from a ring
and from every mailbox. An opcode from 0x80 to 0x8A with the expert flag 0 replies REJECT_PARAM and changes nothing else, for each of the
eleven commands and every source; it is carried out only with the flag 1. (R11, R13) -/
def Obligations.UnlistedAndExpertOpcodes : Prop :=
  (∀ (s : State) (b : Nat) (c : Fetched), b < 17 → s.serves = true → s.nextOf b [] s.host.fetched = some c →
    opListed (pktOp c.words) = false → exec (.unsupportedOpcode b) s = .next (s.reply c.src c.words 0x0E)) ∧
  (∀ (s : State) (b : Nat) (c : Fetched), b < 17 → s.serves = true → pktExpert c.words = false →
    (s.taken b 0x80 = some c → ∀ h, exec (.tableLoad b h) s = .next (s.reply c.src c.words 0x04)) ∧
    (s.taken b 0x81 = some c → exec (.promiseModelSet b) s = .next (s.reply c.src c.words 0x04)) ∧
    (s.taken b 0x82 = some c → ∀ ts, exec (.calibrate b ts) s = .next (s.reply c.src c.words 0x04)) ∧
    (s.taken b 0x83 = some c → ∀ e, exec (.proofRun b e) s = .next (s.reply c.src c.words 0x04)) ∧
    (s.taken b 0x84 = some c → ∀ e, exec (.xcheckRun b e) s = .next (s.reply c.src c.words 0x04)) ∧
    (s.taken b 0x85 = some c → exec (.housekeepSet b) s = .next (s.reply c.src c.words 0x04)) ∧
    (s.taken b 0x86 = some c → exec (.arrayReadback b) s = .next (s.reply c.src c.words 0x04)) ∧
    (s.taken b 0x87 = some c → ∀ h, exec (.logitBiasSet b h) s = .next (s.reply c.src c.words 0x04)) ∧
    (s.taken b 0x88 = some c → exec (.powerCapSet b) s = .next (s.reply c.src c.words 0x04)) ∧
    (s.taken b 0x89 = some c → ∀ bad, exec (.repairMapEdit b bad) s = .next (s.reply c.src c.words 0x04)) ∧
    (s.taken b 0x8A = some c → ∀ r f, exec (.weightsClear b r f) s = .next (s.reply c.src c.words 0x04))) ∧
  (∀ (s : State) (m : Nat) (h : HostMem) (w : List Nat), m < 4 → (s.mbx m).held = some w → s.mbxRuns = true → (s.mbx (m + 4)).held = none →
    opListed (pktOp w) = false →
    exec (.mbxCommandTake m h) s = .next ((s.setMbx m { s.mbx m with held := none }).reply (.mbx m) w 0x0E))

/-- A TABLE_LOAD in turn into a partition of which some ledger entry is in a state other than FREE, DONE or FAILED replies BUSY_SWAP and
changes nothing else. A write to an on-die mailbox that is full returns a bus error and changes nothing else: the message held stays as it
is. (R98, R102) -/
def Obligations.BusyTargetsAreRefused : Prop :=
  (∀ (s : State) (b : Nat) (h : HostMem) (src : CmdSrc) (w : List Nat) (x : Nat × Entry), s.InTurn b 0x80 src w → x ∈ s.ledger →
    x.2.part = pktPart w → x.2.st ≠ .free → x.2.st ≠ .done → x.2.st ≠ .failed →
    exec (.tableLoad b h) s = .next (s.reply src w 0x05)) ∧
  (∀ (s : State) (c : Nat) (up : Bool) (ws old : List Nat), c < 16 → find? (2 * c + (if up then 0 else 1)) s.host.onDie = some old →
    CompletesWith (exec (.onDieMbxWrite c up ws) s) (fun t =>
      t = { s with out := s.out ++ [.busError] } ∧ find? (2 * c + (if up then 0 else 1)) t.host.onDie = some old))

/-- For every legal stitch, burnisher descriptor and attention descriptor (every operand at every value its field admits), and every group
member and ingress entry whose fields fit, decoding its encoded number gives it back; and whatever a decoder accepts is legal and encodes
to the number it was read from, so no bit is dropped. (R75, R76, R77, R122, R131, R139, R251; derived) -/
def Obligations.StoredFormsSurviveEncoding : Prop :=
  (∀ s : Stitch, stitchLegal s = true → encodeStitch s < 2 ^ 128 ∧ decodeStitch (encodeStitch s) = some s) ∧
  (∀ n s, decodeStitch n = some s → stitchLegal s = true ∧ encodeStitch s = n) ∧
  (∀ d : BurnDesc, burnLegal d = true → encodeBurn d < 2 ^ 128 ∧ decodeBurn (encodeBurn d) = some d) ∧
  (∀ n d, decodeBurn n = some d → burnLegal d = true ∧ encodeBurn d = n) ∧
  (∀ d : AttnDesc, attnLegal d = true → encodeAttn d < 2 ^ 128 ∧ decodeAttn (encodeAttn d) = some d) ∧
  (∀ n d, decodeAttn n = some d → attnLegal d = true ∧ encodeAttn d = n) ∧
  (∀ m : Member, m.cluster < 16 → m.port < 128 → m.rbuf < 32 → decodeMember (encodeMember m) = some m) ∧
  (∀ e : Ingress, e.port < 8 → e.dbuf < 32 → e.group < 1024 → e.fport < 8 → e.fdbuf < 32 → e.kind < 2 → e.xin < 2 ^ 32 →
    decodeIngress (encodeIngress e) = some e)

/-- In every state whose spill, KV and staging memories are in canonical form (keys strictly rising, and no zero byte listed in the spill
regions), any step that answers a next state leaves them in canonical form, so that equal memories are equal data. The form is the model's
own. (04_clusters_fabric.md, 05_attention_kv.md, 09_host_interface.md; derived) -/
def Obligations.MemoryStaysCanonical : Prop :=
  ∀ (s t : State), s.memOk = true → step s = .next t → t.memOk = true

/-- A command that is no reset, power or scrub command and does not write keys or values (ATTN, STSTORE, the commits, RESUME_READ, a fabric
flit that an error spoils) leaves every KV byte as it was; one that is no ADD or STORE leaves the spill regions as they were; one that
writes no host memory leaves the staging window as it was. No command touches the queue of waiting commands, which is the model's own (log
1). (R134, R142, R146, R148, R155, R163, R271, R368, R423, R434, R447; derived) -/
def Obligations.OnlyTheseCommandsChangeMemory : Prop :=
  ∀ (i : Instr) (s t : State), exec i s = .next t →
    t.pending = s.pending ∧
    (i.losesMemory = false → i.writesKv = false → t.kv = s.kv) ∧
    (i.losesMemory = false → i.writesSpill = false → t.spill = s.spill) ∧
    (i.losesMemory = false → i.writesHost = false → t.staging = s.staging)

/-- State.reset: the queue is empty, TICK is 0, every ledger entry is FREE, no ring is enabled, its sizes are 2^4 entries and its write phases
1, no mailbox holds a message and TMO_MS is 10, PERIOD is 4, WARN_RATE 16, STOP_RATE 64, HOT_LIMIT 105, DTCAL 16 with AUTO set, CLK_FLOOR
800, REST_DELAY 10 with REST_EN set, CAP_W 550, BRAKE_W 200 and ALLOW_US 0; every port is DISABLED; a partition has TTL 60,000 ms,
HK_PERMILLE 20 and HK_CHUNK 100; and the memories are canonical. (09_host_interface.md, 12_housekeeping_thermal_calibration.md,
14_power_clocks_reset.md, R162, R167, R191, R279; derived) -/
def Obligations.ResetHoldsTheStatedValues : Prop :=
  let s := State.reset
  s.pending = [] ∧ s.tick = 0 ∧ (∀ i, (s.entry i).st = .free) ∧ s.memOk = true ∧ s.pendingOk = true ∧
  (∀ b, (s.ring b).en = false ∧ (s.ring b).sqLog2 = 4 ∧ (s.ring b).cqLog2 = 4 ∧ (s.ring b).tqLog2 = 4 ∧ (s.ring b).cqPhase = true ∧
    (s.ring b).tqPhase = true ∧ (s.ring b).sqHead = 0 ∧ (s.ring b).sqTail = 0) ∧
  (∀ m, (s.mbx m).held = none) ∧ s.host.tmoMs = 10 ∧ s.host.accCnt = 0 ∧ s.ev.errSum = 0 ∧
  s.hk.period = 4 ∧ s.hk.warnRate = 16 ∧ s.hk.stopRate = 64 ∧ s.hk.hotLimit = 105 ∧ s.hk.dtcal = 16 ∧ s.hk.auto = true ∧
  s.pwr.clkFloor = 800 ∧ s.pwr.restDelay = 10 ∧ s.pwr.restEn = true ∧ s.pwr.capW = 550 ∧ s.pwr.brakeW = 200 ∧ s.pwr.allowUs = 0 ∧
  (∀ p, (s.port p).st = .disabled ∧ (s.port p).en = false) ∧
  (∀ p, (s.part p).ttlMs = 60000 ∧ (s.part p).hkPerm = 20 ∧ (s.part p).hkChunk = 100 ∧ (s.part p).defined = false)
end

