-- ==== Sys2Proof/Laws/Tables.lean ====
section
/-!
SUPPORT. The laws of the sparse tables and of the byte memories: a read after a write to the same place gives the value written, a write
leaves every other place alone, and every operation keeps the canonical form.
-/

namespace Sys2Proof.Machine

open Sys2Proof

/-! ### Reading after writing -/

@[simp] theorem find_put_same {α : Type} (k : Nat) (v : α) (t : Tbl α) : find? k (put k v t) = some v := by
  induction t with
  | nil => simp [put, find?]
  | cons x t ih =>
    simp only [put]
    split
    · simp [find?]
    · split
      · simp [find?]
      · rename_i h1 h2; simp [find?, h1, h2, ih]

theorem find_put_other {α : Type} (k j : Nat) (v : α) (t : Tbl α) (h : j ≠ k) : find? j (put k v t) = find? j t := by
  induction t with
  | nil => simp [put, find?, h]
  | cons x t ih =>
    obtain ⟨k', v'⟩ := x
    simp only [put]
    split
    · simp only [find?, if_neg h]
      split
      · rw [if_neg (by omega), if_pos (by omega)]
      · rfl
    · split
      · rename_i h1; subst h1; simp [find?, h]
      · simp [find?, ih]

@[simp] theorem getD_put_same {α : Type} (d : α) (k : Nat) (v : α) (t : Tbl α) : getD d k (put k v t) = v := by simp [getD]

theorem getD_put_other {α : Type} (d : α) (k j : Nat) (v : α) (t : Tbl α) (h : j ≠ k) : getD d j (put k v t) = getD d j t := by
  simp [getD, find_put_other k j v t h]

@[simp] theorem getD_nil {α : Type} (d : α) (k : Nat) : getD d k ([] : Tbl α) = d := rfl

theorem find_del_other {α : Type} (k j : Nat) (t : Tbl α) (hs : sortedKeys t = true) (h : j ≠ k) : find? j (del k t) = find? j t := by
  induction t with
  | nil => rfl
  | cons x t ih =>
    obtain ⟨k', v'⟩ := x
    have hs' : sortedKeys t = true := by cases t with
      | nil => rfl
      | cons y t => simp only [sortedKeys, Bool.and_eq_true] at hs; exact hs.2
    simp only [del]
    split
    · rename_i h1; subst h1
      simp only [find?, if_neg h]
      split
      · rename_i h2
        cases t with
        | nil => rfl
        | cons y t =>
          simp only [sortedKeys, Bool.and_eq_true, decide_eq_true_eq] at hs
          simp only [find?]; rw [if_neg (by omega), if_pos (by omega)]
      · rfl
    · split
      · rfl
      · simp [find?, ih hs']

/-! ### The canonical form -/

/-- A lower bound of the keys of a table with keys strictly rising. -/
theorem sortedKeys_cons {α : Type} (k : Nat) (v : α) (t : Tbl α) :
    sortedKeys ((k, v) :: t) = true ↔ sortedKeys t = true ∧ (∀ x ∈ t.head?, k < x.1) := by
  cases t with
  | nil => simp [sortedKeys]
  | cons y t => obtain ⟨a, b⟩ := y; simp [sortedKeys, and_comm]

theorem head_put {α : Type} (k : Nat) (v : α) (t : Tbl α) (m : Nat) (hm : m < k) (h : ∀ x ∈ t.head?, m < x.1) :
    ∀ x ∈ (put k v t).head?, m < x.1 := by
  cases t with
  | nil => simp [put, hm]
  | cons y t =>
    obtain ⟨a, b⟩ := y
    simp only [put]
    split
    · simp [hm]
    · split
      · simp [hm]
      · simpa using h

theorem sortedKeys_put {α : Type} (k : Nat) (v : α) (t : Tbl α) (h : sortedKeys t = true) : sortedKeys (put k v t) = true := by
  induction t with
  | nil => simp [put, sortedKeys]
  | cons y t ih =>
    obtain ⟨a, b⟩ := y
    have h' := (sortedKeys_cons a b t).1 h
    simp only [put]
    split
    · rename_i hk; exact (sortedKeys_cons _ _ _).2 ⟨h, by simpa using hk⟩
    · split
      · rename_i hk; subst hk; exact (sortedKeys_cons _ _ _).2 h'
      · rename_i h1 h2
        exact (sortedKeys_cons _ _ _).2 ⟨ih h'.1, head_put k v t a (by omega) h'.2⟩

theorem sortedKeys_tail {α : Type} (y : Nat × α) (t : Tbl α) (h : sortedKeys (y :: t) = true) : sortedKeys t = true :=
  ((sortedKeys_cons y.1 y.2 t).1 h).1

theorem head_lt_all {α : Type} (m : Nat) (t : Tbl α) (hs : sortedKeys t = true) (h : ∀ x ∈ t.head?, m < x.1) : ∀ x ∈ t, m < x.1 := by
  induction t generalizing m with
  | nil => simp
  | cons y t ih =>
    intro x hx
    have hy : m < y.1 := by simpa using h
    rcases List.mem_cons.1 hx with rfl | hx
    · exact hy
    · have := (sortedKeys_cons y.1 y.2 t).1 hs
      have := ih y.1 this.1 this.2 x hx
      omega

theorem mem_del {α : Type} (k : Nat) (t : Tbl α) : ∀ x ∈ del k t, x ∈ t := by
  induction t with
  | nil => simp [del]
  | cons y t ih =>
    intro x hx
    simp only [del] at hx
    split at hx
    · exact List.mem_cons_of_mem _ hx
    · split at hx
      · exact hx
      · rcases List.mem_cons.1 hx with rfl | hx
        · exact List.mem_cons_self ..
        · exact List.mem_cons_of_mem _ (ih x hx)

theorem sortedKeys_del {α : Type} (k : Nat) (t : Tbl α) (h : sortedKeys t = true) : sortedKeys (del k t) = true := by
  induction t with
  | nil => simp [del, sortedKeys]
  | cons y t ih =>
    have h' := (sortedKeys_cons y.1 y.2 t).1 h
    have hall := head_lt_all y.1 t h'.1 h'.2
    simp only [del]
    split
    · exact h'.1
    · split
      · exact h
      · refine (sortedKeys_cons _ _ _).2 ⟨ih h'.1, ?_⟩
        intro x hx
        have hx : x ∈ del k t := List.mem_of_mem_head? hx
        exact hall x (mem_del k t x hx)

theorem sortedKeys_filter {α : Type} (f : Nat × α → Bool) (t : Tbl α) (h : sortedKeys t = true) : sortedKeys (t.filter f) = true := by
  induction t with
  | nil => simp [sortedKeys]
  | cons y t ih =>
    have h' := (sortedKeys_cons y.1 y.2 t).1 h
    simp only [List.filter_cons]
    split
    · refine (sortedKeys_cons _ _ _).2 ⟨ih h'.1, ?_⟩
      intro x hx
      exact head_lt_all y.1 t h'.1 h'.2 x (List.mem_filter.1 (List.mem_of_mem_head? hx)).1
    · exact ih h'.1

/-! ### Memories -/

theorem Memory.read_write (m : Memory) (a : Nat) (b : Byte) : Memory.read (Memory.write m a b) a = some b := find_put_same a b m

theorem Memory.read_write_other (m : Memory) (a c : Nat) (b : Byte) (h : c ≠ a) : Memory.read (Memory.write m a b) c = Memory.read m c :=
  find_put_other a c b m h

theorem Memory.wf_write (m : Memory) (a : Nat) (b : Byte) (h : Memory.wf m = true) : Memory.wf (Memory.write m a b) = true :=
  sortedKeys_put a b m h

theorem Memory.wf_writeAll (m : Memory) (a : Nat) (bs : List Byte) (h : Memory.wf m = true) : Memory.wf (Memory.writeAll m a bs) = true := by
  induction bs generalizing m a with
  | nil => exact h
  | cons b bs ih => exact ih (Memory.write m a b) (a + 1) (Memory.wf_write m a b h)

theorem mem_put {α : Type} (k : Nat) (v : α) (t : Tbl α) : ∀ x ∈ put k v t, x = (k, v) ∨ x ∈ t := by
  induction t with
  | nil => simp [put]
  | cons y t ih =>
    intro x hx
    simp only [put] at hx
    split at hx
    · rcases List.mem_cons.1 hx with h | h
      · exact Or.inl h
      · exact Or.inr h
    · split at hx
      · rcases List.mem_cons.1 hx with h | h
        · exact Or.inl h
        · exact Or.inr (List.mem_cons_of_mem _ h)
      · rcases List.mem_cons.1 hx with h | h
        · exact Or.inr (h ▸ List.mem_cons_self ..)
        · rcases ih x h with h | h
          · exact Or.inl h
          · exact Or.inr (List.mem_cons_of_mem _ h)

theorem Memory.wfZ_writeZ (m : Memory) (a : Nat) (b : Byte) (h : Memory.wfZ m = true) : Memory.wfZ (Memory.writeZ m a b) = true := by
  simp only [Memory.wfZ, Bool.and_eq_true, List.all_eq_true] at h ⊢
  simp only [Memory.writeZ]
  split
  · exact ⟨sortedKeys_del a m h.1, fun x hx => h.2 x (mem_del a m x hx)⟩
  · rename_i hb
    refine ⟨sortedKeys_put a b m h.1, fun x hx => ?_⟩
    rcases mem_put a b m x hx with rfl | hx
    · simpa using hb
    · exact h.2 x hx

theorem Memory.wfZ_writeAllZ (m : Memory) (a : Nat) (bs : List Byte) (h : Memory.wfZ m = true) : Memory.wfZ (Memory.writeAllZ m a bs) = true := by
  induction bs generalizing m a with
  | nil => exact h
  | cons b bs ih => exact ih (Memory.writeZ m a b) (a + 1) (Memory.wfZ_writeZ m a b h)

theorem Memory.wf_filter (m : Memory) (f : Host.Cell → Bool) (h : Memory.wf m = true) : Memory.wf (m.filter f) = true :=
  sortedKeys_filter f m h

end Sys2Proof.Machine
end

