-- ==== Sys2Proof/Laws/State.lean ====
section
/-!
SUPPORT. What each named update of the state leaves unchanged, one lemma per field and per accessor, and what it makes its own accessor read.
-/

namespace Sys2Proof.Machine

open Sys2Proof

/-- A fold of updates that each keep a part of the state keeps it. -/
theorem State.foldl_keeps {α β : Type} (g : State → β) (f : State → α → State) (h : ∀ s a, g (f s a) = g s) (l : List α) (s : State) :
    g (l.foldl f s) = g s := by
  induction l generalizing s with
  | nil => rfl
  | cons a l ih => exact (ih _).trans (h s a)

/-! ### setRing -/

@[simp] theorem State.setRing_pending (s : State) (b : Nat) (x : Ring) : (s.setRing b x).pending = s.pending := rfl
@[simp] theorem State.setRing_out (s : State) (b : Nat) (x : Ring) : (s.setRing b x).out = s.out := rfl
@[simp] theorem State.setRing_free (s : State) (b : Nat) (x : Ring) : (s.setRing b x).free = s.free := rfl
@[simp] theorem State.setRing_tick (s : State) (b : Nat) (x : Ring) : (s.setRing b x).tick = s.tick := rfl
@[simp] theorem State.setRing_ev (s : State) (b : Nat) (x : Ring) : (s.setRing b x).ev = s.ev := rfl
@[simp] theorem State.setRing_ledger (s : State) (b : Nat) (x : Ring) : (s.setRing b x).ledger = s.ledger := rfl
@[simp] theorem State.setRing_ext (s : State) (b : Nat) (x : Ring) : (s.setRing b x).ext = s.ext := rfl
@[simp] theorem State.setRing_wear (s : State) (b : Nat) (x : Ring) : (s.setRing b x).wear = s.wear := rfl
@[simp] theorem State.setRing_parts (s : State) (b : Nat) (x : Ring) : (s.setRing b x).parts = s.parts := rfl
@[simp] theorem State.setRing_girths (s : State) (b : Nat) (x : Ring) : (s.setRing b x).girths = s.girths := rfl
@[simp] theorem State.setRing_ports (s : State) (b : Nat) (x : Ring) : (s.setRing b x).ports = s.ports := rfl
@[simp] theorem State.setRing_tiles (s : State) (b : Nat) (x : Ring) : (s.setRing b x).tiles = s.tiles := rfl
@[simp] theorem State.setRing_arrays (s : State) (b : Nat) (x : Ring) : (s.setRing b x).arrays = s.arrays := rfl
@[simp] theorem State.setRing_clusters (s : State) (b : Nat) (x : Ring) : (s.setRing b x).clusters = s.clusters := rfl
@[simp] theorem State.setRing_fabric (s : State) (b : Nat) (x : Ring) : (s.setRing b x).fabric = s.fabric := rfl
@[simp] theorem State.setRing_mesh (s : State) (b : Nat) (x : Ring) : (s.setRing b x).mesh = s.mesh := rfl
@[simp] theorem State.setRing_kvWr (s : State) (b : Nat) (x : Ring) : (s.setRing b x).kvWr = s.kvWr := rfl
@[simp] theorem State.setRing_spill (s : State) (b : Nat) (x : Ring) : (s.setRing b x).spill = s.spill := rfl
@[simp] theorem State.setRing_kv (s : State) (b : Nat) (x : Ring) : (s.setRing b x).kv = s.kv := rfl
@[simp] theorem State.setRing_staging (s : State) (b : Nat) (x : Ring) : (s.setRing b x).staging = s.staging := rfl
@[simp] theorem State.setRing_stackCopy (s : State) (b : Nat) (x : Ring) : (s.setRing b x).stackCopy = s.stackCopy := rfl
@[simp] theorem State.setRing_sums (s : State) (b : Nat) (x : Ring) : (s.setRing b x).sums = s.sums := rfl
@[simp] theorem State.setRing_shards (s : State) (b : Nat) (x : Ring) : (s.setRing b x).shards = s.shards := rfl
@[simp] theorem State.setRing_store (s : State) (b : Nat) (x : Ring) : (s.setRing b x).store = s.store := rfl
@[simp] theorem State.setRing_hk (s : State) (b : Nat) (x : Ring) : (s.setRing b x).hk = s.hk := rfl
@[simp] theorem State.setRing_pwr (s : State) (b : Nat) (x : Ring) : (s.setRing b x).pwr = s.pwr := rfl
@[simp] theorem State.setRing_sec (s : State) (b : Nat) (x : Ring) : (s.setRing b x).sec = s.sec := rfl
@[simp] theorem State.setRing_same (s : State) (b : Nat) (x : Ring) : (s.setRing b x).ring b = x := getD_put_same _ _ _ _
theorem State.setRing_other (s : State) (b : Nat) (x : Ring) (j : Nat) (h : j ≠ b) : (s.setRing b x).ring j = s.ring j := getD_put_other _ _ _ _ _ h
@[simp] theorem State.setRing_mbx_at (s : State) (b : Nat) (x : Ring) (k : Nat) : (s.setRing b x).mbx k = s.mbx k := rfl
@[simp] theorem State.setRing_part_at (s : State) (b : Nat) (x : Ring) (k : Nat) : (s.setRing b x).part k = s.part k := rfl
@[simp] theorem State.setRing_girth_at (s : State) (b : Nat) (x : Ring) (k : Nat) : (s.setRing b x).girth k = s.girth k := rfl
@[simp] theorem State.setRing_port_at (s : State) (b : Nat) (x : Ring) (k : Nat) : (s.setRing b x).port k = s.port k := rfl
@[simp] theorem State.setRing_tile_at (s : State) (b : Nat) (x : Ring) (k : Nat) : (s.setRing b x).tile k = s.tile k := rfl
@[simp] theorem State.setRing_arr_at (s : State) (b : Nat) (x : Ring) (k : Nat) : (s.setRing b x).arr k = s.arr k := rfl
@[simp] theorem State.setRing_cluster_at (s : State) (b : Nat) (x : Ring) (k : Nat) : (s.setRing b x).cluster k = s.cluster k := rfl
@[simp] theorem State.setRing_entry_at (s : State) (b : Nat) (x : Ring) (k : Nat) : (s.setRing b x).entry k = s.entry k := rfl
@[simp] theorem State.setRing_extn_at (s : State) (b : Nat) (x : Ring) (k : Nat) : (s.setRing b x).extn k = s.extn k := rfl
@[simp] theorem State.setRing_repair_at (s : State) (b : Nat) (x : Ring) (k : Nat) : (s.setRing b x).repair k = s.repair k := rfl

/-! ### setMbx -/

@[simp] theorem State.setMbx_pending (s : State) (m : Nat) (x : Mbx) : (s.setMbx m x).pending = s.pending := rfl
@[simp] theorem State.setMbx_out (s : State) (m : Nat) (x : Mbx) : (s.setMbx m x).out = s.out := rfl
@[simp] theorem State.setMbx_free (s : State) (m : Nat) (x : Mbx) : (s.setMbx m x).free = s.free := rfl
@[simp] theorem State.setMbx_tick (s : State) (m : Nat) (x : Mbx) : (s.setMbx m x).tick = s.tick := rfl
@[simp] theorem State.setMbx_ev (s : State) (m : Nat) (x : Mbx) : (s.setMbx m x).ev = s.ev := rfl
@[simp] theorem State.setMbx_ledger (s : State) (m : Nat) (x : Mbx) : (s.setMbx m x).ledger = s.ledger := rfl
@[simp] theorem State.setMbx_ext (s : State) (m : Nat) (x : Mbx) : (s.setMbx m x).ext = s.ext := rfl
@[simp] theorem State.setMbx_wear (s : State) (m : Nat) (x : Mbx) : (s.setMbx m x).wear = s.wear := rfl
@[simp] theorem State.setMbx_parts (s : State) (m : Nat) (x : Mbx) : (s.setMbx m x).parts = s.parts := rfl
@[simp] theorem State.setMbx_girths (s : State) (m : Nat) (x : Mbx) : (s.setMbx m x).girths = s.girths := rfl
@[simp] theorem State.setMbx_ports (s : State) (m : Nat) (x : Mbx) : (s.setMbx m x).ports = s.ports := rfl
@[simp] theorem State.setMbx_tiles (s : State) (m : Nat) (x : Mbx) : (s.setMbx m x).tiles = s.tiles := rfl
@[simp] theorem State.setMbx_arrays (s : State) (m : Nat) (x : Mbx) : (s.setMbx m x).arrays = s.arrays := rfl
@[simp] theorem State.setMbx_clusters (s : State) (m : Nat) (x : Mbx) : (s.setMbx m x).clusters = s.clusters := rfl
@[simp] theorem State.setMbx_fabric (s : State) (m : Nat) (x : Mbx) : (s.setMbx m x).fabric = s.fabric := rfl
@[simp] theorem State.setMbx_mesh (s : State) (m : Nat) (x : Mbx) : (s.setMbx m x).mesh = s.mesh := rfl
@[simp] theorem State.setMbx_kvWr (s : State) (m : Nat) (x : Mbx) : (s.setMbx m x).kvWr = s.kvWr := rfl
@[simp] theorem State.setMbx_spill (s : State) (m : Nat) (x : Mbx) : (s.setMbx m x).spill = s.spill := rfl
@[simp] theorem State.setMbx_kv (s : State) (m : Nat) (x : Mbx) : (s.setMbx m x).kv = s.kv := rfl
@[simp] theorem State.setMbx_staging (s : State) (m : Nat) (x : Mbx) : (s.setMbx m x).staging = s.staging := rfl
@[simp] theorem State.setMbx_stackCopy (s : State) (m : Nat) (x : Mbx) : (s.setMbx m x).stackCopy = s.stackCopy := rfl
@[simp] theorem State.setMbx_sums (s : State) (m : Nat) (x : Mbx) : (s.setMbx m x).sums = s.sums := rfl
@[simp] theorem State.setMbx_shards (s : State) (m : Nat) (x : Mbx) : (s.setMbx m x).shards = s.shards := rfl
@[simp] theorem State.setMbx_store (s : State) (m : Nat) (x : Mbx) : (s.setMbx m x).store = s.store := rfl
@[simp] theorem State.setMbx_hk (s : State) (m : Nat) (x : Mbx) : (s.setMbx m x).hk = s.hk := rfl
@[simp] theorem State.setMbx_pwr (s : State) (m : Nat) (x : Mbx) : (s.setMbx m x).pwr = s.pwr := rfl
@[simp] theorem State.setMbx_sec (s : State) (m : Nat) (x : Mbx) : (s.setMbx m x).sec = s.sec := rfl
@[simp] theorem State.setMbx_ring_at (s : State) (m : Nat) (x : Mbx) (k : Nat) : (s.setMbx m x).ring k = s.ring k := rfl
@[simp] theorem State.setMbx_same (s : State) (m : Nat) (x : Mbx) : (s.setMbx m x).mbx m = x := getD_put_same _ _ _ _
theorem State.setMbx_other (s : State) (m : Nat) (x : Mbx) (j : Nat) (h : j ≠ m) : (s.setMbx m x).mbx j = s.mbx j := getD_put_other _ _ _ _ _ h
@[simp] theorem State.setMbx_part_at (s : State) (m : Nat) (x : Mbx) (k : Nat) : (s.setMbx m x).part k = s.part k := rfl
@[simp] theorem State.setMbx_girth_at (s : State) (m : Nat) (x : Mbx) (k : Nat) : (s.setMbx m x).girth k = s.girth k := rfl
@[simp] theorem State.setMbx_port_at (s : State) (m : Nat) (x : Mbx) (k : Nat) : (s.setMbx m x).port k = s.port k := rfl
@[simp] theorem State.setMbx_tile_at (s : State) (m : Nat) (x : Mbx) (k : Nat) : (s.setMbx m x).tile k = s.tile k := rfl
@[simp] theorem State.setMbx_arr_at (s : State) (m : Nat) (x : Mbx) (k : Nat) : (s.setMbx m x).arr k = s.arr k := rfl
@[simp] theorem State.setMbx_cluster_at (s : State) (m : Nat) (x : Mbx) (k : Nat) : (s.setMbx m x).cluster k = s.cluster k := rfl
@[simp] theorem State.setMbx_entry_at (s : State) (m : Nat) (x : Mbx) (k : Nat) : (s.setMbx m x).entry k = s.entry k := rfl
@[simp] theorem State.setMbx_extn_at (s : State) (m : Nat) (x : Mbx) (k : Nat) : (s.setMbx m x).extn k = s.extn k := rfl
@[simp] theorem State.setMbx_repair_at (s : State) (m : Nat) (x : Mbx) (k : Nat) : (s.setMbx m x).repair k = s.repair k := rfl

/-! ### setPart -/

@[simp] theorem State.setPart_pending (s : State) (p : Nat) (x : Part) : (s.setPart p x).pending = s.pending := rfl
@[simp] theorem State.setPart_out (s : State) (p : Nat) (x : Part) : (s.setPart p x).out = s.out := rfl
@[simp] theorem State.setPart_free (s : State) (p : Nat) (x : Part) : (s.setPart p x).free = s.free := rfl
@[simp] theorem State.setPart_tick (s : State) (p : Nat) (x : Part) : (s.setPart p x).tick = s.tick := rfl
@[simp] theorem State.setPart_host (s : State) (p : Nat) (x : Part) : (s.setPart p x).host = s.host := rfl
@[simp] theorem State.setPart_ev (s : State) (p : Nat) (x : Part) : (s.setPart p x).ev = s.ev := rfl
@[simp] theorem State.setPart_ledger (s : State) (p : Nat) (x : Part) : (s.setPart p x).ledger = s.ledger := rfl
@[simp] theorem State.setPart_ext (s : State) (p : Nat) (x : Part) : (s.setPart p x).ext = s.ext := rfl
@[simp] theorem State.setPart_wear (s : State) (p : Nat) (x : Part) : (s.setPart p x).wear = s.wear := rfl
@[simp] theorem State.setPart_girths (s : State) (p : Nat) (x : Part) : (s.setPart p x).girths = s.girths := rfl
@[simp] theorem State.setPart_ports (s : State) (p : Nat) (x : Part) : (s.setPart p x).ports = s.ports := rfl
@[simp] theorem State.setPart_tiles (s : State) (p : Nat) (x : Part) : (s.setPart p x).tiles = s.tiles := rfl
@[simp] theorem State.setPart_arrays (s : State) (p : Nat) (x : Part) : (s.setPart p x).arrays = s.arrays := rfl
@[simp] theorem State.setPart_clusters (s : State) (p : Nat) (x : Part) : (s.setPart p x).clusters = s.clusters := rfl
@[simp] theorem State.setPart_fabric (s : State) (p : Nat) (x : Part) : (s.setPart p x).fabric = s.fabric := rfl
@[simp] theorem State.setPart_mesh (s : State) (p : Nat) (x : Part) : (s.setPart p x).mesh = s.mesh := rfl
@[simp] theorem State.setPart_kvWr (s : State) (p : Nat) (x : Part) : (s.setPart p x).kvWr = s.kvWr := rfl
@[simp] theorem State.setPart_spill (s : State) (p : Nat) (x : Part) : (s.setPart p x).spill = s.spill := rfl
@[simp] theorem State.setPart_kv (s : State) (p : Nat) (x : Part) : (s.setPart p x).kv = s.kv := rfl
@[simp] theorem State.setPart_staging (s : State) (p : Nat) (x : Part) : (s.setPart p x).staging = s.staging := rfl
@[simp] theorem State.setPart_stackCopy (s : State) (p : Nat) (x : Part) : (s.setPart p x).stackCopy = s.stackCopy := rfl
@[simp] theorem State.setPart_sums (s : State) (p : Nat) (x : Part) : (s.setPart p x).sums = s.sums := rfl
@[simp] theorem State.setPart_shards (s : State) (p : Nat) (x : Part) : (s.setPart p x).shards = s.shards := rfl
@[simp] theorem State.setPart_store (s : State) (p : Nat) (x : Part) : (s.setPart p x).store = s.store := rfl
@[simp] theorem State.setPart_hk (s : State) (p : Nat) (x : Part) : (s.setPart p x).hk = s.hk := rfl
@[simp] theorem State.setPart_pwr (s : State) (p : Nat) (x : Part) : (s.setPart p x).pwr = s.pwr := rfl
@[simp] theorem State.setPart_sec (s : State) (p : Nat) (x : Part) : (s.setPart p x).sec = s.sec := rfl
@[simp] theorem State.setPart_ring_at (s : State) (p : Nat) (x : Part) (k : Nat) : (s.setPart p x).ring k = s.ring k := rfl
@[simp] theorem State.setPart_mbx_at (s : State) (p : Nat) (x : Part) (k : Nat) : (s.setPart p x).mbx k = s.mbx k := rfl
@[simp] theorem State.setPart_same (s : State) (p : Nat) (x : Part) : (s.setPart p x).part p = x := getD_put_same _ _ _ _
theorem State.setPart_other (s : State) (p : Nat) (x : Part) (j : Nat) (h : j ≠ p) : (s.setPart p x).part j = s.part j := getD_put_other _ _ _ _ _ h
@[simp] theorem State.setPart_girth_at (s : State) (p : Nat) (x : Part) (k : Nat) : (s.setPart p x).girth k = s.girth k := rfl
@[simp] theorem State.setPart_port_at (s : State) (p : Nat) (x : Part) (k : Nat) : (s.setPart p x).port k = s.port k := rfl
@[simp] theorem State.setPart_tile_at (s : State) (p : Nat) (x : Part) (k : Nat) : (s.setPart p x).tile k = s.tile k := rfl
@[simp] theorem State.setPart_arr_at (s : State) (p : Nat) (x : Part) (k : Nat) : (s.setPart p x).arr k = s.arr k := rfl
@[simp] theorem State.setPart_cluster_at (s : State) (p : Nat) (x : Part) (k : Nat) : (s.setPart p x).cluster k = s.cluster k := rfl
@[simp] theorem State.setPart_entry_at (s : State) (p : Nat) (x : Part) (k : Nat) : (s.setPart p x).entry k = s.entry k := rfl
@[simp] theorem State.setPart_extn_at (s : State) (p : Nat) (x : Part) (k : Nat) : (s.setPart p x).extn k = s.extn k := rfl
@[simp] theorem State.setPart_repair_at (s : State) (p : Nat) (x : Part) (k : Nat) : (s.setPart p x).repair k = s.repair k := rfl

/-! ### setGirth -/

@[simp] theorem State.setGirth_pending (s : State) (p : Nat) (x : Girth) : (s.setGirth p x).pending = s.pending := rfl
@[simp] theorem State.setGirth_out (s : State) (p : Nat) (x : Girth) : (s.setGirth p x).out = s.out := rfl
@[simp] theorem State.setGirth_free (s : State) (p : Nat) (x : Girth) : (s.setGirth p x).free = s.free := rfl
@[simp] theorem State.setGirth_tick (s : State) (p : Nat) (x : Girth) : (s.setGirth p x).tick = s.tick := rfl
@[simp] theorem State.setGirth_host (s : State) (p : Nat) (x : Girth) : (s.setGirth p x).host = s.host := rfl
@[simp] theorem State.setGirth_ev (s : State) (p : Nat) (x : Girth) : (s.setGirth p x).ev = s.ev := rfl
@[simp] theorem State.setGirth_ledger (s : State) (p : Nat) (x : Girth) : (s.setGirth p x).ledger = s.ledger := rfl
@[simp] theorem State.setGirth_ext (s : State) (p : Nat) (x : Girth) : (s.setGirth p x).ext = s.ext := rfl
@[simp] theorem State.setGirth_wear (s : State) (p : Nat) (x : Girth) : (s.setGirth p x).wear = s.wear := rfl
@[simp] theorem State.setGirth_parts (s : State) (p : Nat) (x : Girth) : (s.setGirth p x).parts = s.parts := rfl
@[simp] theorem State.setGirth_ports (s : State) (p : Nat) (x : Girth) : (s.setGirth p x).ports = s.ports := rfl
@[simp] theorem State.setGirth_tiles (s : State) (p : Nat) (x : Girth) : (s.setGirth p x).tiles = s.tiles := rfl
@[simp] theorem State.setGirth_arrays (s : State) (p : Nat) (x : Girth) : (s.setGirth p x).arrays = s.arrays := rfl
@[simp] theorem State.setGirth_clusters (s : State) (p : Nat) (x : Girth) : (s.setGirth p x).clusters = s.clusters := rfl
@[simp] theorem State.setGirth_fabric (s : State) (p : Nat) (x : Girth) : (s.setGirth p x).fabric = s.fabric := rfl
@[simp] theorem State.setGirth_mesh (s : State) (p : Nat) (x : Girth) : (s.setGirth p x).mesh = s.mesh := rfl
@[simp] theorem State.setGirth_kvWr (s : State) (p : Nat) (x : Girth) : (s.setGirth p x).kvWr = s.kvWr := rfl
@[simp] theorem State.setGirth_spill (s : State) (p : Nat) (x : Girth) : (s.setGirth p x).spill = s.spill := rfl
@[simp] theorem State.setGirth_kv (s : State) (p : Nat) (x : Girth) : (s.setGirth p x).kv = s.kv := rfl
@[simp] theorem State.setGirth_staging (s : State) (p : Nat) (x : Girth) : (s.setGirth p x).staging = s.staging := rfl
@[simp] theorem State.setGirth_stackCopy (s : State) (p : Nat) (x : Girth) : (s.setGirth p x).stackCopy = s.stackCopy := rfl
@[simp] theorem State.setGirth_sums (s : State) (p : Nat) (x : Girth) : (s.setGirth p x).sums = s.sums := rfl
@[simp] theorem State.setGirth_shards (s : State) (p : Nat) (x : Girth) : (s.setGirth p x).shards = s.shards := rfl
@[simp] theorem State.setGirth_store (s : State) (p : Nat) (x : Girth) : (s.setGirth p x).store = s.store := rfl
@[simp] theorem State.setGirth_hk (s : State) (p : Nat) (x : Girth) : (s.setGirth p x).hk = s.hk := rfl
@[simp] theorem State.setGirth_pwr (s : State) (p : Nat) (x : Girth) : (s.setGirth p x).pwr = s.pwr := rfl
@[simp] theorem State.setGirth_sec (s : State) (p : Nat) (x : Girth) : (s.setGirth p x).sec = s.sec := rfl
@[simp] theorem State.setGirth_ring_at (s : State) (p : Nat) (x : Girth) (k : Nat) : (s.setGirth p x).ring k = s.ring k := rfl
@[simp] theorem State.setGirth_mbx_at (s : State) (p : Nat) (x : Girth) (k : Nat) : (s.setGirth p x).mbx k = s.mbx k := rfl
@[simp] theorem State.setGirth_part_at (s : State) (p : Nat) (x : Girth) (k : Nat) : (s.setGirth p x).part k = s.part k := rfl
@[simp] theorem State.setGirth_same (s : State) (p : Nat) (x : Girth) : (s.setGirth p x).girth p = x := getD_put_same _ _ _ _
theorem State.setGirth_other (s : State) (p : Nat) (x : Girth) (j : Nat) (h : j ≠ p) : (s.setGirth p x).girth j = s.girth j := getD_put_other _ _ _ _ _ h
@[simp] theorem State.setGirth_port_at (s : State) (p : Nat) (x : Girth) (k : Nat) : (s.setGirth p x).port k = s.port k := rfl
@[simp] theorem State.setGirth_tile_at (s : State) (p : Nat) (x : Girth) (k : Nat) : (s.setGirth p x).tile k = s.tile k := rfl
@[simp] theorem State.setGirth_arr_at (s : State) (p : Nat) (x : Girth) (k : Nat) : (s.setGirth p x).arr k = s.arr k := rfl
@[simp] theorem State.setGirth_cluster_at (s : State) (p : Nat) (x : Girth) (k : Nat) : (s.setGirth p x).cluster k = s.cluster k := rfl
@[simp] theorem State.setGirth_entry_at (s : State) (p : Nat) (x : Girth) (k : Nat) : (s.setGirth p x).entry k = s.entry k := rfl
@[simp] theorem State.setGirth_extn_at (s : State) (p : Nat) (x : Girth) (k : Nat) : (s.setGirth p x).extn k = s.extn k := rfl
@[simp] theorem State.setGirth_repair_at (s : State) (p : Nat) (x : Girth) (k : Nat) : (s.setGirth p x).repair k = s.repair k := rfl

/-! ### setPort -/

@[simp] theorem State.setPort_pending (s : State) (p : Nat) (x : Port) : (s.setPort p x).pending = s.pending := rfl
@[simp] theorem State.setPort_out (s : State) (p : Nat) (x : Port) : (s.setPort p x).out = s.out := rfl
@[simp] theorem State.setPort_free (s : State) (p : Nat) (x : Port) : (s.setPort p x).free = s.free := rfl
@[simp] theorem State.setPort_tick (s : State) (p : Nat) (x : Port) : (s.setPort p x).tick = s.tick := rfl
@[simp] theorem State.setPort_host (s : State) (p : Nat) (x : Port) : (s.setPort p x).host = s.host := rfl
@[simp] theorem State.setPort_ev (s : State) (p : Nat) (x : Port) : (s.setPort p x).ev = s.ev := rfl
@[simp] theorem State.setPort_ledger (s : State) (p : Nat) (x : Port) : (s.setPort p x).ledger = s.ledger := rfl
@[simp] theorem State.setPort_ext (s : State) (p : Nat) (x : Port) : (s.setPort p x).ext = s.ext := rfl
@[simp] theorem State.setPort_wear (s : State) (p : Nat) (x : Port) : (s.setPort p x).wear = s.wear := rfl
@[simp] theorem State.setPort_parts (s : State) (p : Nat) (x : Port) : (s.setPort p x).parts = s.parts := rfl
@[simp] theorem State.setPort_girths (s : State) (p : Nat) (x : Port) : (s.setPort p x).girths = s.girths := rfl
@[simp] theorem State.setPort_tiles (s : State) (p : Nat) (x : Port) : (s.setPort p x).tiles = s.tiles := rfl
@[simp] theorem State.setPort_arrays (s : State) (p : Nat) (x : Port) : (s.setPort p x).arrays = s.arrays := rfl
@[simp] theorem State.setPort_clusters (s : State) (p : Nat) (x : Port) : (s.setPort p x).clusters = s.clusters := rfl
@[simp] theorem State.setPort_fabric (s : State) (p : Nat) (x : Port) : (s.setPort p x).fabric = s.fabric := rfl
@[simp] theorem State.setPort_mesh (s : State) (p : Nat) (x : Port) : (s.setPort p x).mesh = s.mesh := rfl
@[simp] theorem State.setPort_kvWr (s : State) (p : Nat) (x : Port) : (s.setPort p x).kvWr = s.kvWr := rfl
@[simp] theorem State.setPort_spill (s : State) (p : Nat) (x : Port) : (s.setPort p x).spill = s.spill := rfl
@[simp] theorem State.setPort_kv (s : State) (p : Nat) (x : Port) : (s.setPort p x).kv = s.kv := rfl
@[simp] theorem State.setPort_staging (s : State) (p : Nat) (x : Port) : (s.setPort p x).staging = s.staging := rfl
@[simp] theorem State.setPort_stackCopy (s : State) (p : Nat) (x : Port) : (s.setPort p x).stackCopy = s.stackCopy := rfl
@[simp] theorem State.setPort_sums (s : State) (p : Nat) (x : Port) : (s.setPort p x).sums = s.sums := rfl
@[simp] theorem State.setPort_shards (s : State) (p : Nat) (x : Port) : (s.setPort p x).shards = s.shards := rfl
@[simp] theorem State.setPort_store (s : State) (p : Nat) (x : Port) : (s.setPort p x).store = s.store := rfl
@[simp] theorem State.setPort_hk (s : State) (p : Nat) (x : Port) : (s.setPort p x).hk = s.hk := rfl
@[simp] theorem State.setPort_pwr (s : State) (p : Nat) (x : Port) : (s.setPort p x).pwr = s.pwr := rfl
@[simp] theorem State.setPort_sec (s : State) (p : Nat) (x : Port) : (s.setPort p x).sec = s.sec := rfl
@[simp] theorem State.setPort_ring_at (s : State) (p : Nat) (x : Port) (k : Nat) : (s.setPort p x).ring k = s.ring k := rfl
@[simp] theorem State.setPort_mbx_at (s : State) (p : Nat) (x : Port) (k : Nat) : (s.setPort p x).mbx k = s.mbx k := rfl
@[simp] theorem State.setPort_part_at (s : State) (p : Nat) (x : Port) (k : Nat) : (s.setPort p x).part k = s.part k := rfl
@[simp] theorem State.setPort_girth_at (s : State) (p : Nat) (x : Port) (k : Nat) : (s.setPort p x).girth k = s.girth k := rfl
@[simp] theorem State.setPort_same (s : State) (p : Nat) (x : Port) : (s.setPort p x).port p = x := getD_put_same _ _ _ _
theorem State.setPort_other (s : State) (p : Nat) (x : Port) (j : Nat) (h : j ≠ p) : (s.setPort p x).port j = s.port j := getD_put_other _ _ _ _ _ h
@[simp] theorem State.setPort_tile_at (s : State) (p : Nat) (x : Port) (k : Nat) : (s.setPort p x).tile k = s.tile k := rfl
@[simp] theorem State.setPort_arr_at (s : State) (p : Nat) (x : Port) (k : Nat) : (s.setPort p x).arr k = s.arr k := rfl
@[simp] theorem State.setPort_cluster_at (s : State) (p : Nat) (x : Port) (k : Nat) : (s.setPort p x).cluster k = s.cluster k := rfl
@[simp] theorem State.setPort_entry_at (s : State) (p : Nat) (x : Port) (k : Nat) : (s.setPort p x).entry k = s.entry k := rfl
@[simp] theorem State.setPort_extn_at (s : State) (p : Nat) (x : Port) (k : Nat) : (s.setPort p x).extn k = s.extn k := rfl
@[simp] theorem State.setPort_repair_at (s : State) (p : Nat) (x : Port) (k : Nat) : (s.setPort p x).repair k = s.repair k := rfl

/-! ### setTile -/

@[simp] theorem State.setTile_pending (s : State) (t : Nat) (x : Tile) : (s.setTile t x).pending = s.pending := rfl
@[simp] theorem State.setTile_out (s : State) (t : Nat) (x : Tile) : (s.setTile t x).out = s.out := rfl
@[simp] theorem State.setTile_free (s : State) (t : Nat) (x : Tile) : (s.setTile t x).free = s.free := rfl
@[simp] theorem State.setTile_tick (s : State) (t : Nat) (x : Tile) : (s.setTile t x).tick = s.tick := rfl
@[simp] theorem State.setTile_host (s : State) (t : Nat) (x : Tile) : (s.setTile t x).host = s.host := rfl
@[simp] theorem State.setTile_ev (s : State) (t : Nat) (x : Tile) : (s.setTile t x).ev = s.ev := rfl
@[simp] theorem State.setTile_ledger (s : State) (t : Nat) (x : Tile) : (s.setTile t x).ledger = s.ledger := rfl
@[simp] theorem State.setTile_ext (s : State) (t : Nat) (x : Tile) : (s.setTile t x).ext = s.ext := rfl
@[simp] theorem State.setTile_wear (s : State) (t : Nat) (x : Tile) : (s.setTile t x).wear = s.wear := rfl
@[simp] theorem State.setTile_parts (s : State) (t : Nat) (x : Tile) : (s.setTile t x).parts = s.parts := rfl
@[simp] theorem State.setTile_girths (s : State) (t : Nat) (x : Tile) : (s.setTile t x).girths = s.girths := rfl
@[simp] theorem State.setTile_ports (s : State) (t : Nat) (x : Tile) : (s.setTile t x).ports = s.ports := rfl
@[simp] theorem State.setTile_arrays (s : State) (t : Nat) (x : Tile) : (s.setTile t x).arrays = s.arrays := rfl
@[simp] theorem State.setTile_clusters (s : State) (t : Nat) (x : Tile) : (s.setTile t x).clusters = s.clusters := rfl
@[simp] theorem State.setTile_fabric (s : State) (t : Nat) (x : Tile) : (s.setTile t x).fabric = s.fabric := rfl
@[simp] theorem State.setTile_mesh (s : State) (t : Nat) (x : Tile) : (s.setTile t x).mesh = s.mesh := rfl
@[simp] theorem State.setTile_kvWr (s : State) (t : Nat) (x : Tile) : (s.setTile t x).kvWr = s.kvWr := rfl
@[simp] theorem State.setTile_spill (s : State) (t : Nat) (x : Tile) : (s.setTile t x).spill = s.spill := rfl
@[simp] theorem State.setTile_kv (s : State) (t : Nat) (x : Tile) : (s.setTile t x).kv = s.kv := rfl
@[simp] theorem State.setTile_staging (s : State) (t : Nat) (x : Tile) : (s.setTile t x).staging = s.staging := rfl
@[simp] theorem State.setTile_stackCopy (s : State) (t : Nat) (x : Tile) : (s.setTile t x).stackCopy = s.stackCopy := rfl
@[simp] theorem State.setTile_sums (s : State) (t : Nat) (x : Tile) : (s.setTile t x).sums = s.sums := rfl
@[simp] theorem State.setTile_shards (s : State) (t : Nat) (x : Tile) : (s.setTile t x).shards = s.shards := rfl
@[simp] theorem State.setTile_store (s : State) (t : Nat) (x : Tile) : (s.setTile t x).store = s.store := rfl
@[simp] theorem State.setTile_hk (s : State) (t : Nat) (x : Tile) : (s.setTile t x).hk = s.hk := rfl
@[simp] theorem State.setTile_pwr (s : State) (t : Nat) (x : Tile) : (s.setTile t x).pwr = s.pwr := rfl
@[simp] theorem State.setTile_sec (s : State) (t : Nat) (x : Tile) : (s.setTile t x).sec = s.sec := rfl
@[simp] theorem State.setTile_ring_at (s : State) (t : Nat) (x : Tile) (k : Nat) : (s.setTile t x).ring k = s.ring k := rfl
@[simp] theorem State.setTile_mbx_at (s : State) (t : Nat) (x : Tile) (k : Nat) : (s.setTile t x).mbx k = s.mbx k := rfl
@[simp] theorem State.setTile_part_at (s : State) (t : Nat) (x : Tile) (k : Nat) : (s.setTile t x).part k = s.part k := rfl
@[simp] theorem State.setTile_girth_at (s : State) (t : Nat) (x : Tile) (k : Nat) : (s.setTile t x).girth k = s.girth k := rfl
@[simp] theorem State.setTile_port_at (s : State) (t : Nat) (x : Tile) (k : Nat) : (s.setTile t x).port k = s.port k := rfl
@[simp] theorem State.setTile_same (s : State) (t : Nat) (x : Tile) : (s.setTile t x).tile t = x := getD_put_same _ _ _ _
theorem State.setTile_other (s : State) (t : Nat) (x : Tile) (j : Nat) (h : j ≠ t) : (s.setTile t x).tile j = s.tile j := getD_put_other _ _ _ _ _ h
@[simp] theorem State.setTile_arr_at (s : State) (t : Nat) (x : Tile) (k : Nat) : (s.setTile t x).arr k = s.arr k := rfl
@[simp] theorem State.setTile_cluster_at (s : State) (t : Nat) (x : Tile) (k : Nat) : (s.setTile t x).cluster k = s.cluster k := rfl
@[simp] theorem State.setTile_entry_at (s : State) (t : Nat) (x : Tile) (k : Nat) : (s.setTile t x).entry k = s.entry k := rfl
@[simp] theorem State.setTile_extn_at (s : State) (t : Nat) (x : Tile) (k : Nat) : (s.setTile t x).extn k = s.extn k := rfl
@[simp] theorem State.setTile_repair_at (s : State) (t : Nat) (x : Tile) (k : Nat) : (s.setTile t x).repair k = s.repair k := rfl

/-! ### setArr -/

@[simp] theorem State.setArr_pending (s : State) (a : Nat) (x : Arr) : (s.setArr a x).pending = s.pending := rfl
@[simp] theorem State.setArr_out (s : State) (a : Nat) (x : Arr) : (s.setArr a x).out = s.out := rfl
@[simp] theorem State.setArr_free (s : State) (a : Nat) (x : Arr) : (s.setArr a x).free = s.free := rfl
@[simp] theorem State.setArr_tick (s : State) (a : Nat) (x : Arr) : (s.setArr a x).tick = s.tick := rfl
@[simp] theorem State.setArr_host (s : State) (a : Nat) (x : Arr) : (s.setArr a x).host = s.host := rfl
@[simp] theorem State.setArr_ev (s : State) (a : Nat) (x : Arr) : (s.setArr a x).ev = s.ev := rfl
@[simp] theorem State.setArr_ledger (s : State) (a : Nat) (x : Arr) : (s.setArr a x).ledger = s.ledger := rfl
@[simp] theorem State.setArr_ext (s : State) (a : Nat) (x : Arr) : (s.setArr a x).ext = s.ext := rfl
@[simp] theorem State.setArr_wear (s : State) (a : Nat) (x : Arr) : (s.setArr a x).wear = s.wear := rfl
@[simp] theorem State.setArr_parts (s : State) (a : Nat) (x : Arr) : (s.setArr a x).parts = s.parts := rfl
@[simp] theorem State.setArr_girths (s : State) (a : Nat) (x : Arr) : (s.setArr a x).girths = s.girths := rfl
@[simp] theorem State.setArr_ports (s : State) (a : Nat) (x : Arr) : (s.setArr a x).ports = s.ports := rfl
@[simp] theorem State.setArr_tiles (s : State) (a : Nat) (x : Arr) : (s.setArr a x).tiles = s.tiles := rfl
@[simp] theorem State.setArr_clusters (s : State) (a : Nat) (x : Arr) : (s.setArr a x).clusters = s.clusters := rfl
@[simp] theorem State.setArr_fabric (s : State) (a : Nat) (x : Arr) : (s.setArr a x).fabric = s.fabric := rfl
@[simp] theorem State.setArr_mesh (s : State) (a : Nat) (x : Arr) : (s.setArr a x).mesh = s.mesh := rfl
@[simp] theorem State.setArr_kvWr (s : State) (a : Nat) (x : Arr) : (s.setArr a x).kvWr = s.kvWr := rfl
@[simp] theorem State.setArr_spill (s : State) (a : Nat) (x : Arr) : (s.setArr a x).spill = s.spill := rfl
@[simp] theorem State.setArr_kv (s : State) (a : Nat) (x : Arr) : (s.setArr a x).kv = s.kv := rfl
@[simp] theorem State.setArr_staging (s : State) (a : Nat) (x : Arr) : (s.setArr a x).staging = s.staging := rfl
@[simp] theorem State.setArr_stackCopy (s : State) (a : Nat) (x : Arr) : (s.setArr a x).stackCopy = s.stackCopy := rfl
@[simp] theorem State.setArr_sums (s : State) (a : Nat) (x : Arr) : (s.setArr a x).sums = s.sums := rfl
@[simp] theorem State.setArr_shards (s : State) (a : Nat) (x : Arr) : (s.setArr a x).shards = s.shards := rfl
@[simp] theorem State.setArr_store (s : State) (a : Nat) (x : Arr) : (s.setArr a x).store = s.store := rfl
@[simp] theorem State.setArr_hk (s : State) (a : Nat) (x : Arr) : (s.setArr a x).hk = s.hk := rfl
@[simp] theorem State.setArr_pwr (s : State) (a : Nat) (x : Arr) : (s.setArr a x).pwr = s.pwr := rfl
@[simp] theorem State.setArr_sec (s : State) (a : Nat) (x : Arr) : (s.setArr a x).sec = s.sec := rfl
@[simp] theorem State.setArr_ring_at (s : State) (a : Nat) (x : Arr) (k : Nat) : (s.setArr a x).ring k = s.ring k := rfl
@[simp] theorem State.setArr_mbx_at (s : State) (a : Nat) (x : Arr) (k : Nat) : (s.setArr a x).mbx k = s.mbx k := rfl
@[simp] theorem State.setArr_part_at (s : State) (a : Nat) (x : Arr) (k : Nat) : (s.setArr a x).part k = s.part k := rfl
@[simp] theorem State.setArr_girth_at (s : State) (a : Nat) (x : Arr) (k : Nat) : (s.setArr a x).girth k = s.girth k := rfl
@[simp] theorem State.setArr_port_at (s : State) (a : Nat) (x : Arr) (k : Nat) : (s.setArr a x).port k = s.port k := rfl
@[simp] theorem State.setArr_tile_at (s : State) (a : Nat) (x : Arr) (k : Nat) : (s.setArr a x).tile k = s.tile k := rfl
@[simp] theorem State.setArr_same (s : State) (a : Nat) (x : Arr) : (s.setArr a x).arr a = x := getD_put_same _ _ _ _
theorem State.setArr_other (s : State) (a : Nat) (x : Arr) (j : Nat) (h : j ≠ a) : (s.setArr a x).arr j = s.arr j := getD_put_other _ _ _ _ _ h
@[simp] theorem State.setArr_cluster_at (s : State) (a : Nat) (x : Arr) (k : Nat) : (s.setArr a x).cluster k = s.cluster k := rfl
@[simp] theorem State.setArr_entry_at (s : State) (a : Nat) (x : Arr) (k : Nat) : (s.setArr a x).entry k = s.entry k := rfl
@[simp] theorem State.setArr_extn_at (s : State) (a : Nat) (x : Arr) (k : Nat) : (s.setArr a x).extn k = s.extn k := rfl
@[simp] theorem State.setArr_repair_at (s : State) (a : Nat) (x : Arr) (k : Nat) : (s.setArr a x).repair k = s.repair k := rfl

/-! ### setCluster -/

@[simp] theorem State.setCluster_pending (s : State) (c : Nat) (x : Cluster) : (s.setCluster c x).pending = s.pending := rfl
@[simp] theorem State.setCluster_out (s : State) (c : Nat) (x : Cluster) : (s.setCluster c x).out = s.out := rfl
@[simp] theorem State.setCluster_free (s : State) (c : Nat) (x : Cluster) : (s.setCluster c x).free = s.free := rfl
@[simp] theorem State.setCluster_tick (s : State) (c : Nat) (x : Cluster) : (s.setCluster c x).tick = s.tick := rfl
@[simp] theorem State.setCluster_host (s : State) (c : Nat) (x : Cluster) : (s.setCluster c x).host = s.host := rfl
@[simp] theorem State.setCluster_ev (s : State) (c : Nat) (x : Cluster) : (s.setCluster c x).ev = s.ev := rfl
@[simp] theorem State.setCluster_ledger (s : State) (c : Nat) (x : Cluster) : (s.setCluster c x).ledger = s.ledger := rfl
@[simp] theorem State.setCluster_ext (s : State) (c : Nat) (x : Cluster) : (s.setCluster c x).ext = s.ext := rfl
@[simp] theorem State.setCluster_wear (s : State) (c : Nat) (x : Cluster) : (s.setCluster c x).wear = s.wear := rfl
@[simp] theorem State.setCluster_parts (s : State) (c : Nat) (x : Cluster) : (s.setCluster c x).parts = s.parts := rfl
@[simp] theorem State.setCluster_girths (s : State) (c : Nat) (x : Cluster) : (s.setCluster c x).girths = s.girths := rfl
@[simp] theorem State.setCluster_ports (s : State) (c : Nat) (x : Cluster) : (s.setCluster c x).ports = s.ports := rfl
@[simp] theorem State.setCluster_tiles (s : State) (c : Nat) (x : Cluster) : (s.setCluster c x).tiles = s.tiles := rfl
@[simp] theorem State.setCluster_arrays (s : State) (c : Nat) (x : Cluster) : (s.setCluster c x).arrays = s.arrays := rfl
@[simp] theorem State.setCluster_fabric (s : State) (c : Nat) (x : Cluster) : (s.setCluster c x).fabric = s.fabric := rfl
@[simp] theorem State.setCluster_mesh (s : State) (c : Nat) (x : Cluster) : (s.setCluster c x).mesh = s.mesh := rfl
@[simp] theorem State.setCluster_kvWr (s : State) (c : Nat) (x : Cluster) : (s.setCluster c x).kvWr = s.kvWr := rfl
@[simp] theorem State.setCluster_spill (s : State) (c : Nat) (x : Cluster) : (s.setCluster c x).spill = s.spill := rfl
@[simp] theorem State.setCluster_kv (s : State) (c : Nat) (x : Cluster) : (s.setCluster c x).kv = s.kv := rfl
@[simp] theorem State.setCluster_staging (s : State) (c : Nat) (x : Cluster) : (s.setCluster c x).staging = s.staging := rfl
@[simp] theorem State.setCluster_stackCopy (s : State) (c : Nat) (x : Cluster) : (s.setCluster c x).stackCopy = s.stackCopy := rfl
@[simp] theorem State.setCluster_sums (s : State) (c : Nat) (x : Cluster) : (s.setCluster c x).sums = s.sums := rfl
@[simp] theorem State.setCluster_shards (s : State) (c : Nat) (x : Cluster) : (s.setCluster c x).shards = s.shards := rfl
@[simp] theorem State.setCluster_store (s : State) (c : Nat) (x : Cluster) : (s.setCluster c x).store = s.store := rfl
@[simp] theorem State.setCluster_hk (s : State) (c : Nat) (x : Cluster) : (s.setCluster c x).hk = s.hk := rfl
@[simp] theorem State.setCluster_pwr (s : State) (c : Nat) (x : Cluster) : (s.setCluster c x).pwr = s.pwr := rfl
@[simp] theorem State.setCluster_sec (s : State) (c : Nat) (x : Cluster) : (s.setCluster c x).sec = s.sec := rfl
@[simp] theorem State.setCluster_ring_at (s : State) (c : Nat) (x : Cluster) (k : Nat) : (s.setCluster c x).ring k = s.ring k := rfl
@[simp] theorem State.setCluster_mbx_at (s : State) (c : Nat) (x : Cluster) (k : Nat) : (s.setCluster c x).mbx k = s.mbx k := rfl
@[simp] theorem State.setCluster_part_at (s : State) (c : Nat) (x : Cluster) (k : Nat) : (s.setCluster c x).part k = s.part k := rfl
@[simp] theorem State.setCluster_girth_at (s : State) (c : Nat) (x : Cluster) (k : Nat) : (s.setCluster c x).girth k = s.girth k := rfl
@[simp] theorem State.setCluster_port_at (s : State) (c : Nat) (x : Cluster) (k : Nat) : (s.setCluster c x).port k = s.port k := rfl
@[simp] theorem State.setCluster_tile_at (s : State) (c : Nat) (x : Cluster) (k : Nat) : (s.setCluster c x).tile k = s.tile k := rfl
@[simp] theorem State.setCluster_arr_at (s : State) (c : Nat) (x : Cluster) (k : Nat) : (s.setCluster c x).arr k = s.arr k := rfl
@[simp] theorem State.setCluster_same (s : State) (c : Nat) (x : Cluster) : (s.setCluster c x).cluster c = x := getD_put_same _ _ _ _
theorem State.setCluster_other (s : State) (c : Nat) (x : Cluster) (j : Nat) (h : j ≠ c) : (s.setCluster c x).cluster j = s.cluster j := getD_put_other _ _ _ _ _ h
@[simp] theorem State.setCluster_entry_at (s : State) (c : Nat) (x : Cluster) (k : Nat) : (s.setCluster c x).entry k = s.entry k := rfl
@[simp] theorem State.setCluster_extn_at (s : State) (c : Nat) (x : Cluster) (k : Nat) : (s.setCluster c x).extn k = s.extn k := rfl
@[simp] theorem State.setCluster_repair_at (s : State) (c : Nat) (x : Cluster) (k : Nat) : (s.setCluster c x).repair k = s.repair k := rfl

/-! ### setEntry -/

@[simp] theorem State.setEntry_pending (s : State) (i : Nat) (x : Entry) : (s.setEntry i x).pending = s.pending := rfl
@[simp] theorem State.setEntry_out (s : State) (i : Nat) (x : Entry) : (s.setEntry i x).out = s.out := rfl
@[simp] theorem State.setEntry_free (s : State) (i : Nat) (x : Entry) : (s.setEntry i x).free = s.free := rfl
@[simp] theorem State.setEntry_tick (s : State) (i : Nat) (x : Entry) : (s.setEntry i x).tick = s.tick := rfl
@[simp] theorem State.setEntry_host (s : State) (i : Nat) (x : Entry) : (s.setEntry i x).host = s.host := rfl
@[simp] theorem State.setEntry_ev (s : State) (i : Nat) (x : Entry) : (s.setEntry i x).ev = s.ev := rfl
@[simp] theorem State.setEntry_ext (s : State) (i : Nat) (x : Entry) : (s.setEntry i x).ext = s.ext := rfl
@[simp] theorem State.setEntry_wear (s : State) (i : Nat) (x : Entry) : (s.setEntry i x).wear = s.wear := rfl
@[simp] theorem State.setEntry_parts (s : State) (i : Nat) (x : Entry) : (s.setEntry i x).parts = s.parts := rfl
@[simp] theorem State.setEntry_girths (s : State) (i : Nat) (x : Entry) : (s.setEntry i x).girths = s.girths := rfl
@[simp] theorem State.setEntry_ports (s : State) (i : Nat) (x : Entry) : (s.setEntry i x).ports = s.ports := rfl
@[simp] theorem State.setEntry_tiles (s : State) (i : Nat) (x : Entry) : (s.setEntry i x).tiles = s.tiles := rfl
@[simp] theorem State.setEntry_arrays (s : State) (i : Nat) (x : Entry) : (s.setEntry i x).arrays = s.arrays := rfl
@[simp] theorem State.setEntry_clusters (s : State) (i : Nat) (x : Entry) : (s.setEntry i x).clusters = s.clusters := rfl
@[simp] theorem State.setEntry_fabric (s : State) (i : Nat) (x : Entry) : (s.setEntry i x).fabric = s.fabric := rfl
@[simp] theorem State.setEntry_mesh (s : State) (i : Nat) (x : Entry) : (s.setEntry i x).mesh = s.mesh := rfl
@[simp] theorem State.setEntry_kvWr (s : State) (i : Nat) (x : Entry) : (s.setEntry i x).kvWr = s.kvWr := rfl
@[simp] theorem State.setEntry_spill (s : State) (i : Nat) (x : Entry) : (s.setEntry i x).spill = s.spill := rfl
@[simp] theorem State.setEntry_kv (s : State) (i : Nat) (x : Entry) : (s.setEntry i x).kv = s.kv := rfl
@[simp] theorem State.setEntry_staging (s : State) (i : Nat) (x : Entry) : (s.setEntry i x).staging = s.staging := rfl
@[simp] theorem State.setEntry_stackCopy (s : State) (i : Nat) (x : Entry) : (s.setEntry i x).stackCopy = s.stackCopy := rfl
@[simp] theorem State.setEntry_sums (s : State) (i : Nat) (x : Entry) : (s.setEntry i x).sums = s.sums := rfl
@[simp] theorem State.setEntry_shards (s : State) (i : Nat) (x : Entry) : (s.setEntry i x).shards = s.shards := rfl
@[simp] theorem State.setEntry_store (s : State) (i : Nat) (x : Entry) : (s.setEntry i x).store = s.store := rfl
@[simp] theorem State.setEntry_hk (s : State) (i : Nat) (x : Entry) : (s.setEntry i x).hk = s.hk := rfl
@[simp] theorem State.setEntry_pwr (s : State) (i : Nat) (x : Entry) : (s.setEntry i x).pwr = s.pwr := rfl
@[simp] theorem State.setEntry_sec (s : State) (i : Nat) (x : Entry) : (s.setEntry i x).sec = s.sec := rfl
@[simp] theorem State.setEntry_ring_at (s : State) (i : Nat) (x : Entry) (k : Nat) : (s.setEntry i x).ring k = s.ring k := rfl
@[simp] theorem State.setEntry_mbx_at (s : State) (i : Nat) (x : Entry) (k : Nat) : (s.setEntry i x).mbx k = s.mbx k := rfl
@[simp] theorem State.setEntry_part_at (s : State) (i : Nat) (x : Entry) (k : Nat) : (s.setEntry i x).part k = s.part k := rfl
@[simp] theorem State.setEntry_girth_at (s : State) (i : Nat) (x : Entry) (k : Nat) : (s.setEntry i x).girth k = s.girth k := rfl
@[simp] theorem State.setEntry_port_at (s : State) (i : Nat) (x : Entry) (k : Nat) : (s.setEntry i x).port k = s.port k := rfl
@[simp] theorem State.setEntry_tile_at (s : State) (i : Nat) (x : Entry) (k : Nat) : (s.setEntry i x).tile k = s.tile k := rfl
@[simp] theorem State.setEntry_arr_at (s : State) (i : Nat) (x : Entry) (k : Nat) : (s.setEntry i x).arr k = s.arr k := rfl
@[simp] theorem State.setEntry_cluster_at (s : State) (i : Nat) (x : Entry) (k : Nat) : (s.setEntry i x).cluster k = s.cluster k := rfl
@[simp] theorem State.setEntry_same (s : State) (i : Nat) (x : Entry) : (s.setEntry i x).entry i = x := getD_put_same _ _ _ _
theorem State.setEntry_other (s : State) (i : Nat) (x : Entry) (j : Nat) (h : j ≠ i) : (s.setEntry i x).entry j = s.entry j := getD_put_other _ _ _ _ _ h
@[simp] theorem State.setEntry_extn_at (s : State) (i : Nat) (x : Entry) (k : Nat) : (s.setEntry i x).extn k = s.extn k := rfl
@[simp] theorem State.setEntry_repair_at (s : State) (i : Nat) (x : Entry) (k : Nat) : (s.setEntry i x).repair k = s.repair k := rfl

/-! ### setExt -/

@[simp] theorem State.setExt_pending (s : State) (i : Nat) (x : Ext) : (s.setExt i x).pending = s.pending := rfl
@[simp] theorem State.setExt_out (s : State) (i : Nat) (x : Ext) : (s.setExt i x).out = s.out := rfl
@[simp] theorem State.setExt_free (s : State) (i : Nat) (x : Ext) : (s.setExt i x).free = s.free := rfl
@[simp] theorem State.setExt_tick (s : State) (i : Nat) (x : Ext) : (s.setExt i x).tick = s.tick := rfl
@[simp] theorem State.setExt_host (s : State) (i : Nat) (x : Ext) : (s.setExt i x).host = s.host := rfl
@[simp] theorem State.setExt_ev (s : State) (i : Nat) (x : Ext) : (s.setExt i x).ev = s.ev := rfl
@[simp] theorem State.setExt_ledger (s : State) (i : Nat) (x : Ext) : (s.setExt i x).ledger = s.ledger := rfl
@[simp] theorem State.setExt_wear (s : State) (i : Nat) (x : Ext) : (s.setExt i x).wear = s.wear := rfl
@[simp] theorem State.setExt_parts (s : State) (i : Nat) (x : Ext) : (s.setExt i x).parts = s.parts := rfl
@[simp] theorem State.setExt_girths (s : State) (i : Nat) (x : Ext) : (s.setExt i x).girths = s.girths := rfl
@[simp] theorem State.setExt_ports (s : State) (i : Nat) (x : Ext) : (s.setExt i x).ports = s.ports := rfl
@[simp] theorem State.setExt_tiles (s : State) (i : Nat) (x : Ext) : (s.setExt i x).tiles = s.tiles := rfl
@[simp] theorem State.setExt_arrays (s : State) (i : Nat) (x : Ext) : (s.setExt i x).arrays = s.arrays := rfl
@[simp] theorem State.setExt_clusters (s : State) (i : Nat) (x : Ext) : (s.setExt i x).clusters = s.clusters := rfl
@[simp] theorem State.setExt_fabric (s : State) (i : Nat) (x : Ext) : (s.setExt i x).fabric = s.fabric := rfl
@[simp] theorem State.setExt_mesh (s : State) (i : Nat) (x : Ext) : (s.setExt i x).mesh = s.mesh := rfl
@[simp] theorem State.setExt_kvWr (s : State) (i : Nat) (x : Ext) : (s.setExt i x).kvWr = s.kvWr := rfl
@[simp] theorem State.setExt_spill (s : State) (i : Nat) (x : Ext) : (s.setExt i x).spill = s.spill := rfl
@[simp] theorem State.setExt_kv (s : State) (i : Nat) (x : Ext) : (s.setExt i x).kv = s.kv := rfl
@[simp] theorem State.setExt_staging (s : State) (i : Nat) (x : Ext) : (s.setExt i x).staging = s.staging := rfl
@[simp] theorem State.setExt_stackCopy (s : State) (i : Nat) (x : Ext) : (s.setExt i x).stackCopy = s.stackCopy := rfl
@[simp] theorem State.setExt_sums (s : State) (i : Nat) (x : Ext) : (s.setExt i x).sums = s.sums := rfl
@[simp] theorem State.setExt_shards (s : State) (i : Nat) (x : Ext) : (s.setExt i x).shards = s.shards := rfl
@[simp] theorem State.setExt_store (s : State) (i : Nat) (x : Ext) : (s.setExt i x).store = s.store := rfl
@[simp] theorem State.setExt_hk (s : State) (i : Nat) (x : Ext) : (s.setExt i x).hk = s.hk := rfl
@[simp] theorem State.setExt_pwr (s : State) (i : Nat) (x : Ext) : (s.setExt i x).pwr = s.pwr := rfl
@[simp] theorem State.setExt_sec (s : State) (i : Nat) (x : Ext) : (s.setExt i x).sec = s.sec := rfl
@[simp] theorem State.setExt_ring_at (s : State) (i : Nat) (x : Ext) (k : Nat) : (s.setExt i x).ring k = s.ring k := rfl
@[simp] theorem State.setExt_mbx_at (s : State) (i : Nat) (x : Ext) (k : Nat) : (s.setExt i x).mbx k = s.mbx k := rfl
@[simp] theorem State.setExt_part_at (s : State) (i : Nat) (x : Ext) (k : Nat) : (s.setExt i x).part k = s.part k := rfl
@[simp] theorem State.setExt_girth_at (s : State) (i : Nat) (x : Ext) (k : Nat) : (s.setExt i x).girth k = s.girth k := rfl
@[simp] theorem State.setExt_port_at (s : State) (i : Nat) (x : Ext) (k : Nat) : (s.setExt i x).port k = s.port k := rfl
@[simp] theorem State.setExt_tile_at (s : State) (i : Nat) (x : Ext) (k : Nat) : (s.setExt i x).tile k = s.tile k := rfl
@[simp] theorem State.setExt_arr_at (s : State) (i : Nat) (x : Ext) (k : Nat) : (s.setExt i x).arr k = s.arr k := rfl
@[simp] theorem State.setExt_cluster_at (s : State) (i : Nat) (x : Ext) (k : Nat) : (s.setExt i x).cluster k = s.cluster k := rfl
@[simp] theorem State.setExt_entry_at (s : State) (i : Nat) (x : Ext) (k : Nat) : (s.setExt i x).entry k = s.entry k := rfl
@[simp] theorem State.setExt_same (s : State) (i : Nat) (x : Ext) : (s.setExt i x).extn i = x := getD_put_same _ _ _ _
theorem State.setExt_other (s : State) (i : Nat) (x : Ext) (j : Nat) (h : j ≠ i) : (s.setExt i x).extn j = s.extn j := getD_put_other _ _ _ _ _ h
@[simp] theorem State.setExt_repair_at (s : State) (i : Nat) (x : Ext) (k : Nat) : (s.setExt i x).repair k = s.repair k := rfl

/-! ### setRepair -/

@[simp] theorem State.setRepair_pending (s : State) (a : Nat) (r : Repair) : (s.setRepair a r).pending = s.pending := by simp only [State.setRepair]; split <;> rfl
@[simp] theorem State.setRepair_out (s : State) (a : Nat) (r : Repair) : (s.setRepair a r).out = s.out := by simp only [State.setRepair]; split <;> rfl
@[simp] theorem State.setRepair_free (s : State) (a : Nat) (r : Repair) : (s.setRepair a r).free = s.free := by simp only [State.setRepair]; split <;> rfl
@[simp] theorem State.setRepair_tick (s : State) (a : Nat) (r : Repair) : (s.setRepair a r).tick = s.tick := by simp only [State.setRepair]; split <;> rfl
@[simp] theorem State.setRepair_host (s : State) (a : Nat) (r : Repair) : (s.setRepair a r).host = s.host := by simp only [State.setRepair]; split <;> rfl
@[simp] theorem State.setRepair_ev (s : State) (a : Nat) (r : Repair) : (s.setRepair a r).ev = s.ev := by simp only [State.setRepair]; split <;> rfl
@[simp] theorem State.setRepair_ledger (s : State) (a : Nat) (r : Repair) : (s.setRepair a r).ledger = s.ledger := by simp only [State.setRepair]; split <;> rfl
@[simp] theorem State.setRepair_ext (s : State) (a : Nat) (r : Repair) : (s.setRepair a r).ext = s.ext := by simp only [State.setRepair]; split <;> rfl
@[simp] theorem State.setRepair_wear (s : State) (a : Nat) (r : Repair) : (s.setRepair a r).wear = s.wear := by simp only [State.setRepair]; split <;> rfl
@[simp] theorem State.setRepair_parts (s : State) (a : Nat) (r : Repair) : (s.setRepair a r).parts = s.parts := by simp only [State.setRepair]; split <;> rfl
@[simp] theorem State.setRepair_girths (s : State) (a : Nat) (r : Repair) : (s.setRepair a r).girths = s.girths := by simp only [State.setRepair]; split <;> rfl
@[simp] theorem State.setRepair_ports (s : State) (a : Nat) (r : Repair) : (s.setRepair a r).ports = s.ports := by simp only [State.setRepair]; split <;> rfl
@[simp] theorem State.setRepair_tiles (s : State) (a : Nat) (r : Repair) : (s.setRepair a r).tiles = s.tiles := by simp only [State.setRepair]; split <;> rfl
@[simp] theorem State.setRepair_arrays (s : State) (a : Nat) (r : Repair) : (s.setRepair a r).arrays = s.arrays := by simp only [State.setRepair]; split <;> rfl
@[simp] theorem State.setRepair_clusters (s : State) (a : Nat) (r : Repair) : (s.setRepair a r).clusters = s.clusters := by simp only [State.setRepair]; split <;> rfl
@[simp] theorem State.setRepair_fabric (s : State) (a : Nat) (r : Repair) : (s.setRepair a r).fabric = s.fabric := by simp only [State.setRepair]; split <;> rfl
@[simp] theorem State.setRepair_mesh (s : State) (a : Nat) (r : Repair) : (s.setRepair a r).mesh = s.mesh := by simp only [State.setRepair]; split <;> rfl
@[simp] theorem State.setRepair_kvWr (s : State) (a : Nat) (r : Repair) : (s.setRepair a r).kvWr = s.kvWr := by simp only [State.setRepair]; split <;> rfl
@[simp] theorem State.setRepair_spill (s : State) (a : Nat) (r : Repair) : (s.setRepair a r).spill = s.spill := by simp only [State.setRepair]; split <;> rfl
@[simp] theorem State.setRepair_kv (s : State) (a : Nat) (r : Repair) : (s.setRepair a r).kv = s.kv := by simp only [State.setRepair]; split <;> rfl
@[simp] theorem State.setRepair_staging (s : State) (a : Nat) (r : Repair) : (s.setRepair a r).staging = s.staging := by simp only [State.setRepair]; split <;> rfl
@[simp] theorem State.setRepair_stackCopy (s : State) (a : Nat) (r : Repair) : (s.setRepair a r).stackCopy = s.stackCopy := by simp only [State.setRepair]; split <;> rfl
@[simp] theorem State.setRepair_sums (s : State) (a : Nat) (r : Repair) : (s.setRepair a r).sums = s.sums := by simp only [State.setRepair]; split <;> rfl
@[simp] theorem State.setRepair_shards (s : State) (a : Nat) (r : Repair) : (s.setRepair a r).shards = s.shards := by simp only [State.setRepair]; split <;> rfl
@[simp] theorem State.setRepair_hk (s : State) (a : Nat) (r : Repair) : (s.setRepair a r).hk = s.hk := by simp only [State.setRepair]; split <;> rfl
@[simp] theorem State.setRepair_pwr (s : State) (a : Nat) (r : Repair) : (s.setRepair a r).pwr = s.pwr := by simp only [State.setRepair]; split <;> rfl
@[simp] theorem State.setRepair_sec (s : State) (a : Nat) (r : Repair) : (s.setRepair a r).sec = s.sec := by simp only [State.setRepair]; split <;> rfl
@[simp] theorem State.setRepair_ring_at (s : State) (a : Nat) (r : Repair) (k : Nat) : (s.setRepair a r).ring k = s.ring k := by simp only [State.ring, State.setRepair_host]
@[simp] theorem State.setRepair_mbx_at (s : State) (a : Nat) (r : Repair) (k : Nat) : (s.setRepair a r).mbx k = s.mbx k := by simp only [State.mbx, State.setRepair_host]
@[simp] theorem State.setRepair_part_at (s : State) (a : Nat) (r : Repair) (k : Nat) : (s.setRepair a r).part k = s.part k := by simp only [State.part, State.setRepair_parts]
@[simp] theorem State.setRepair_girth_at (s : State) (a : Nat) (r : Repair) (k : Nat) : (s.setRepair a r).girth k = s.girth k := by simp only [State.girth, State.setRepair_girths]
@[simp] theorem State.setRepair_port_at (s : State) (a : Nat) (r : Repair) (k : Nat) : (s.setRepair a r).port k = s.port k := by simp only [State.port, State.setRepair_ports]
@[simp] theorem State.setRepair_tile_at (s : State) (a : Nat) (r : Repair) (k : Nat) : (s.setRepair a r).tile k = s.tile k := by simp only [State.tile, State.setRepair_tiles]
@[simp] theorem State.setRepair_arr_at (s : State) (a : Nat) (r : Repair) (k : Nat) : (s.setRepair a r).arr k = s.arr k := by simp only [State.arr, State.setRepair_arrays]
@[simp] theorem State.setRepair_cluster_at (s : State) (a : Nat) (r : Repair) (k : Nat) : (s.setRepair a r).cluster k = s.cluster k := by simp only [State.cluster, State.setRepair_clusters]
@[simp] theorem State.setRepair_entry_at (s : State) (a : Nat) (r : Repair) (k : Nat) : (s.setRepair a r).entry k = s.entry k := by simp only [State.entry, State.setRepair_ledger]
@[simp] theorem State.setRepair_extn_at (s : State) (a : Nat) (r : Repair) (k : Nat) : (s.setRepair a r).extn k = s.extn k := by simp only [State.extn, State.setRepair_ext]

/-! ### emit -/

@[simp] theorem State.emit_pending (s : State) (o : Out) : (s.emit o).pending = s.pending := rfl
@[simp] theorem State.emit_free (s : State) (o : Out) : (s.emit o).free = s.free := rfl
@[simp] theorem State.emit_tick (s : State) (o : Out) : (s.emit o).tick = s.tick := rfl
@[simp] theorem State.emit_host (s : State) (o : Out) : (s.emit o).host = s.host := rfl
@[simp] theorem State.emit_ev (s : State) (o : Out) : (s.emit o).ev = s.ev := rfl
@[simp] theorem State.emit_ledger (s : State) (o : Out) : (s.emit o).ledger = s.ledger := rfl
@[simp] theorem State.emit_ext (s : State) (o : Out) : (s.emit o).ext = s.ext := rfl
@[simp] theorem State.emit_wear (s : State) (o : Out) : (s.emit o).wear = s.wear := rfl
@[simp] theorem State.emit_parts (s : State) (o : Out) : (s.emit o).parts = s.parts := rfl
@[simp] theorem State.emit_girths (s : State) (o : Out) : (s.emit o).girths = s.girths := rfl
@[simp] theorem State.emit_ports (s : State) (o : Out) : (s.emit o).ports = s.ports := rfl
@[simp] theorem State.emit_tiles (s : State) (o : Out) : (s.emit o).tiles = s.tiles := rfl
@[simp] theorem State.emit_arrays (s : State) (o : Out) : (s.emit o).arrays = s.arrays := rfl
@[simp] theorem State.emit_clusters (s : State) (o : Out) : (s.emit o).clusters = s.clusters := rfl
@[simp] theorem State.emit_fabric (s : State) (o : Out) : (s.emit o).fabric = s.fabric := rfl
@[simp] theorem State.emit_mesh (s : State) (o : Out) : (s.emit o).mesh = s.mesh := rfl
@[simp] theorem State.emit_kvWr (s : State) (o : Out) : (s.emit o).kvWr = s.kvWr := rfl
@[simp] theorem State.emit_spill (s : State) (o : Out) : (s.emit o).spill = s.spill := rfl
@[simp] theorem State.emit_kv (s : State) (o : Out) : (s.emit o).kv = s.kv := rfl
@[simp] theorem State.emit_staging (s : State) (o : Out) : (s.emit o).staging = s.staging := rfl
@[simp] theorem State.emit_stackCopy (s : State) (o : Out) : (s.emit o).stackCopy = s.stackCopy := rfl
@[simp] theorem State.emit_sums (s : State) (o : Out) : (s.emit o).sums = s.sums := rfl
@[simp] theorem State.emit_shards (s : State) (o : Out) : (s.emit o).shards = s.shards := rfl
@[simp] theorem State.emit_store (s : State) (o : Out) : (s.emit o).store = s.store := rfl
@[simp] theorem State.emit_hk (s : State) (o : Out) : (s.emit o).hk = s.hk := rfl
@[simp] theorem State.emit_pwr (s : State) (o : Out) : (s.emit o).pwr = s.pwr := rfl
@[simp] theorem State.emit_sec (s : State) (o : Out) : (s.emit o).sec = s.sec := rfl
@[simp] theorem State.emit_ring_at (s : State) (o : Out) (k : Nat) : (s.emit o).ring k = s.ring k := rfl
@[simp] theorem State.emit_mbx_at (s : State) (o : Out) (k : Nat) : (s.emit o).mbx k = s.mbx k := rfl
@[simp] theorem State.emit_part_at (s : State) (o : Out) (k : Nat) : (s.emit o).part k = s.part k := rfl
@[simp] theorem State.emit_girth_at (s : State) (o : Out) (k : Nat) : (s.emit o).girth k = s.girth k := rfl
@[simp] theorem State.emit_port_at (s : State) (o : Out) (k : Nat) : (s.emit o).port k = s.port k := rfl
@[simp] theorem State.emit_tile_at (s : State) (o : Out) (k : Nat) : (s.emit o).tile k = s.tile k := rfl
@[simp] theorem State.emit_arr_at (s : State) (o : Out) (k : Nat) : (s.emit o).arr k = s.arr k := rfl
@[simp] theorem State.emit_cluster_at (s : State) (o : Out) (k : Nat) : (s.emit o).cluster k = s.cluster k := rfl
@[simp] theorem State.emit_entry_at (s : State) (o : Out) (k : Nat) : (s.emit o).entry k = s.entry k := rfl
@[simp] theorem State.emit_extn_at (s : State) (o : Out) (k : Nat) : (s.emit o).extn k = s.extn k := rfl
@[simp] theorem State.emit_repair_at (s : State) (o : Out) (k : Nat) : (s.emit o).repair k = s.repair k := rfl

/-! ### busyMark -/

@[simp] theorem State.busyMark_pending (s : State) : (s.busyMark).pending = s.pending := rfl
@[simp] theorem State.busyMark_out (s : State) : (s.busyMark).out = s.out := rfl
@[simp] theorem State.busyMark_free (s : State) : (s.busyMark).free = s.free := rfl
@[simp] theorem State.busyMark_tick (s : State) : (s.busyMark).tick = s.tick := rfl
@[simp] theorem State.busyMark_host (s : State) : (s.busyMark).host = s.host := rfl
@[simp] theorem State.busyMark_ev (s : State) : (s.busyMark).ev = s.ev := rfl
@[simp] theorem State.busyMark_ledger (s : State) : (s.busyMark).ledger = s.ledger := rfl
@[simp] theorem State.busyMark_ext (s : State) : (s.busyMark).ext = s.ext := rfl
@[simp] theorem State.busyMark_wear (s : State) : (s.busyMark).wear = s.wear := rfl
@[simp] theorem State.busyMark_parts (s : State) : (s.busyMark).parts = s.parts := rfl
@[simp] theorem State.busyMark_girths (s : State) : (s.busyMark).girths = s.girths := rfl
@[simp] theorem State.busyMark_ports (s : State) : (s.busyMark).ports = s.ports := rfl
@[simp] theorem State.busyMark_tiles (s : State) : (s.busyMark).tiles = s.tiles := rfl
@[simp] theorem State.busyMark_arrays (s : State) : (s.busyMark).arrays = s.arrays := rfl
@[simp] theorem State.busyMark_clusters (s : State) : (s.busyMark).clusters = s.clusters := rfl
@[simp] theorem State.busyMark_fabric (s : State) : (s.busyMark).fabric = s.fabric := rfl
@[simp] theorem State.busyMark_mesh (s : State) : (s.busyMark).mesh = s.mesh := rfl
@[simp] theorem State.busyMark_kvWr (s : State) : (s.busyMark).kvWr = s.kvWr := rfl
@[simp] theorem State.busyMark_spill (s : State) : (s.busyMark).spill = s.spill := rfl
@[simp] theorem State.busyMark_kv (s : State) : (s.busyMark).kv = s.kv := rfl
@[simp] theorem State.busyMark_staging (s : State) : (s.busyMark).staging = s.staging := rfl
@[simp] theorem State.busyMark_stackCopy (s : State) : (s.busyMark).stackCopy = s.stackCopy := rfl
@[simp] theorem State.busyMark_sums (s : State) : (s.busyMark).sums = s.sums := rfl
@[simp] theorem State.busyMark_shards (s : State) : (s.busyMark).shards = s.shards := rfl
@[simp] theorem State.busyMark_store (s : State) : (s.busyMark).store = s.store := rfl
@[simp] theorem State.busyMark_hk (s : State) : (s.busyMark).hk = s.hk := rfl
@[simp] theorem State.busyMark_sec (s : State) : (s.busyMark).sec = s.sec := rfl
@[simp] theorem State.busyMark_ring_at (s : State) (k : Nat) : (s.busyMark).ring k = s.ring k := rfl
@[simp] theorem State.busyMark_mbx_at (s : State) (k : Nat) : (s.busyMark).mbx k = s.mbx k := rfl
@[simp] theorem State.busyMark_part_at (s : State) (k : Nat) : (s.busyMark).part k = s.part k := rfl
@[simp] theorem State.busyMark_girth_at (s : State) (k : Nat) : (s.busyMark).girth k = s.girth k := rfl
@[simp] theorem State.busyMark_port_at (s : State) (k : Nat) : (s.busyMark).port k = s.port k := rfl
@[simp] theorem State.busyMark_tile_at (s : State) (k : Nat) : (s.busyMark).tile k = s.tile k := rfl
@[simp] theorem State.busyMark_arr_at (s : State) (k : Nat) : (s.busyMark).arr k = s.arr k := rfl
@[simp] theorem State.busyMark_cluster_at (s : State) (k : Nat) : (s.busyMark).cluster k = s.cluster k := rfl
@[simp] theorem State.busyMark_entry_at (s : State) (k : Nat) : (s.busyMark).entry k = s.entry k := rfl
@[simp] theorem State.busyMark_extn_at (s : State) (k : Nat) : (s.busyMark).extn k = s.extn k := rfl
@[simp] theorem State.busyMark_repair_at (s : State) (k : Nat) : (s.busyMark).repair k = s.repair k := rfl

/-! ### startCmd -/

@[simp] theorem State.startCmd_pending (s : State) (src : CmdSrc) (w : List Nat) : (s.startCmd src w).pending = s.pending := rfl
@[simp] theorem State.startCmd_out (s : State) (src : CmdSrc) (w : List Nat) : (s.startCmd src w).out = s.out := rfl
@[simp] theorem State.startCmd_free (s : State) (src : CmdSrc) (w : List Nat) : (s.startCmd src w).free = s.free := rfl
@[simp] theorem State.startCmd_tick (s : State) (src : CmdSrc) (w : List Nat) : (s.startCmd src w).tick = s.tick := rfl
@[simp] theorem State.startCmd_ev (s : State) (src : CmdSrc) (w : List Nat) : (s.startCmd src w).ev = s.ev := rfl
@[simp] theorem State.startCmd_ledger (s : State) (src : CmdSrc) (w : List Nat) : (s.startCmd src w).ledger = s.ledger := rfl
@[simp] theorem State.startCmd_ext (s : State) (src : CmdSrc) (w : List Nat) : (s.startCmd src w).ext = s.ext := rfl
@[simp] theorem State.startCmd_wear (s : State) (src : CmdSrc) (w : List Nat) : (s.startCmd src w).wear = s.wear := rfl
@[simp] theorem State.startCmd_parts (s : State) (src : CmdSrc) (w : List Nat) : (s.startCmd src w).parts = s.parts := rfl
@[simp] theorem State.startCmd_girths (s : State) (src : CmdSrc) (w : List Nat) : (s.startCmd src w).girths = s.girths := rfl
@[simp] theorem State.startCmd_ports (s : State) (src : CmdSrc) (w : List Nat) : (s.startCmd src w).ports = s.ports := rfl
@[simp] theorem State.startCmd_tiles (s : State) (src : CmdSrc) (w : List Nat) : (s.startCmd src w).tiles = s.tiles := rfl
@[simp] theorem State.startCmd_arrays (s : State) (src : CmdSrc) (w : List Nat) : (s.startCmd src w).arrays = s.arrays := rfl
@[simp] theorem State.startCmd_clusters (s : State) (src : CmdSrc) (w : List Nat) : (s.startCmd src w).clusters = s.clusters := rfl
@[simp] theorem State.startCmd_fabric (s : State) (src : CmdSrc) (w : List Nat) : (s.startCmd src w).fabric = s.fabric := rfl
@[simp] theorem State.startCmd_mesh (s : State) (src : CmdSrc) (w : List Nat) : (s.startCmd src w).mesh = s.mesh := rfl
@[simp] theorem State.startCmd_kvWr (s : State) (src : CmdSrc) (w : List Nat) : (s.startCmd src w).kvWr = s.kvWr := rfl
@[simp] theorem State.startCmd_spill (s : State) (src : CmdSrc) (w : List Nat) : (s.startCmd src w).spill = s.spill := rfl
@[simp] theorem State.startCmd_kv (s : State) (src : CmdSrc) (w : List Nat) : (s.startCmd src w).kv = s.kv := rfl
@[simp] theorem State.startCmd_staging (s : State) (src : CmdSrc) (w : List Nat) : (s.startCmd src w).staging = s.staging := rfl
@[simp] theorem State.startCmd_stackCopy (s : State) (src : CmdSrc) (w : List Nat) : (s.startCmd src w).stackCopy = s.stackCopy := rfl
@[simp] theorem State.startCmd_sums (s : State) (src : CmdSrc) (w : List Nat) : (s.startCmd src w).sums = s.sums := rfl
@[simp] theorem State.startCmd_shards (s : State) (src : CmdSrc) (w : List Nat) : (s.startCmd src w).shards = s.shards := rfl
@[simp] theorem State.startCmd_store (s : State) (src : CmdSrc) (w : List Nat) : (s.startCmd src w).store = s.store := rfl
@[simp] theorem State.startCmd_hk (s : State) (src : CmdSrc) (w : List Nat) : (s.startCmd src w).hk = s.hk := rfl
@[simp] theorem State.startCmd_pwr (s : State) (src : CmdSrc) (w : List Nat) : (s.startCmd src w).pwr = s.pwr := rfl
@[simp] theorem State.startCmd_sec (s : State) (src : CmdSrc) (w : List Nat) : (s.startCmd src w).sec = s.sec := rfl
@[simp] theorem State.startCmd_ring_at (s : State) (src : CmdSrc) (w : List Nat) (k : Nat) : (s.startCmd src w).ring k = s.ring k := rfl
@[simp] theorem State.startCmd_mbx_at (s : State) (src : CmdSrc) (w : List Nat) (k : Nat) : (s.startCmd src w).mbx k = s.mbx k := rfl
@[simp] theorem State.startCmd_part_at (s : State) (src : CmdSrc) (w : List Nat) (k : Nat) : (s.startCmd src w).part k = s.part k := rfl
@[simp] theorem State.startCmd_girth_at (s : State) (src : CmdSrc) (w : List Nat) (k : Nat) : (s.startCmd src w).girth k = s.girth k := rfl
@[simp] theorem State.startCmd_port_at (s : State) (src : CmdSrc) (w : List Nat) (k : Nat) : (s.startCmd src w).port k = s.port k := rfl
@[simp] theorem State.startCmd_tile_at (s : State) (src : CmdSrc) (w : List Nat) (k : Nat) : (s.startCmd src w).tile k = s.tile k := rfl
@[simp] theorem State.startCmd_arr_at (s : State) (src : CmdSrc) (w : List Nat) (k : Nat) : (s.startCmd src w).arr k = s.arr k := rfl
@[simp] theorem State.startCmd_cluster_at (s : State) (src : CmdSrc) (w : List Nat) (k : Nat) : (s.startCmd src w).cluster k = s.cluster k := rfl
@[simp] theorem State.startCmd_entry_at (s : State) (src : CmdSrc) (w : List Nat) (k : Nat) : (s.startCmd src w).entry k = s.entry k := rfl
@[simp] theorem State.startCmd_extn_at (s : State) (src : CmdSrc) (w : List Nat) (k : Nat) : (s.startCmd src w).extn k = s.extn k := rfl
@[simp] theorem State.startCmd_repair_at (s : State) (src : CmdSrc) (w : List Nat) (k : Nat) : (s.startCmd src w).repair k = s.repair k := rfl

/-! ### stallCmd -/

@[simp] theorem State.stallCmd_pending (s : State) (src : CmdSrc) (w : List Nat) : (s.stallCmd src w).pending = s.pending := rfl
@[simp] theorem State.stallCmd_out (s : State) (src : CmdSrc) (w : List Nat) : (s.stallCmd src w).out = s.out := rfl
@[simp] theorem State.stallCmd_free (s : State) (src : CmdSrc) (w : List Nat) : (s.stallCmd src w).free = s.free := rfl
@[simp] theorem State.stallCmd_tick (s : State) (src : CmdSrc) (w : List Nat) : (s.stallCmd src w).tick = s.tick := rfl
@[simp] theorem State.stallCmd_ev (s : State) (src : CmdSrc) (w : List Nat) : (s.stallCmd src w).ev = s.ev := rfl
@[simp] theorem State.stallCmd_ledger (s : State) (src : CmdSrc) (w : List Nat) : (s.stallCmd src w).ledger = s.ledger := rfl
@[simp] theorem State.stallCmd_ext (s : State) (src : CmdSrc) (w : List Nat) : (s.stallCmd src w).ext = s.ext := rfl
@[simp] theorem State.stallCmd_wear (s : State) (src : CmdSrc) (w : List Nat) : (s.stallCmd src w).wear = s.wear := rfl
@[simp] theorem State.stallCmd_parts (s : State) (src : CmdSrc) (w : List Nat) : (s.stallCmd src w).parts = s.parts := rfl
@[simp] theorem State.stallCmd_girths (s : State) (src : CmdSrc) (w : List Nat) : (s.stallCmd src w).girths = s.girths := rfl
@[simp] theorem State.stallCmd_ports (s : State) (src : CmdSrc) (w : List Nat) : (s.stallCmd src w).ports = s.ports := rfl
@[simp] theorem State.stallCmd_tiles (s : State) (src : CmdSrc) (w : List Nat) : (s.stallCmd src w).tiles = s.tiles := rfl
@[simp] theorem State.stallCmd_arrays (s : State) (src : CmdSrc) (w : List Nat) : (s.stallCmd src w).arrays = s.arrays := rfl
@[simp] theorem State.stallCmd_clusters (s : State) (src : CmdSrc) (w : List Nat) : (s.stallCmd src w).clusters = s.clusters := rfl
@[simp] theorem State.stallCmd_fabric (s : State) (src : CmdSrc) (w : List Nat) : (s.stallCmd src w).fabric = s.fabric := rfl
@[simp] theorem State.stallCmd_mesh (s : State) (src : CmdSrc) (w : List Nat) : (s.stallCmd src w).mesh = s.mesh := rfl
@[simp] theorem State.stallCmd_kvWr (s : State) (src : CmdSrc) (w : List Nat) : (s.stallCmd src w).kvWr = s.kvWr := rfl
@[simp] theorem State.stallCmd_spill (s : State) (src : CmdSrc) (w : List Nat) : (s.stallCmd src w).spill = s.spill := rfl
@[simp] theorem State.stallCmd_kv (s : State) (src : CmdSrc) (w : List Nat) : (s.stallCmd src w).kv = s.kv := rfl
@[simp] theorem State.stallCmd_staging (s : State) (src : CmdSrc) (w : List Nat) : (s.stallCmd src w).staging = s.staging := rfl
@[simp] theorem State.stallCmd_stackCopy (s : State) (src : CmdSrc) (w : List Nat) : (s.stallCmd src w).stackCopy = s.stackCopy := rfl
@[simp] theorem State.stallCmd_sums (s : State) (src : CmdSrc) (w : List Nat) : (s.stallCmd src w).sums = s.sums := rfl
@[simp] theorem State.stallCmd_shards (s : State) (src : CmdSrc) (w : List Nat) : (s.stallCmd src w).shards = s.shards := rfl
@[simp] theorem State.stallCmd_store (s : State) (src : CmdSrc) (w : List Nat) : (s.stallCmd src w).store = s.store := rfl
@[simp] theorem State.stallCmd_hk (s : State) (src : CmdSrc) (w : List Nat) : (s.stallCmd src w).hk = s.hk := rfl
@[simp] theorem State.stallCmd_pwr (s : State) (src : CmdSrc) (w : List Nat) : (s.stallCmd src w).pwr = s.pwr := rfl
@[simp] theorem State.stallCmd_sec (s : State) (src : CmdSrc) (w : List Nat) : (s.stallCmd src w).sec = s.sec := rfl
@[simp] theorem State.stallCmd_ring_at (s : State) (src : CmdSrc) (w : List Nat) (k : Nat) : (s.stallCmd src w).ring k = s.ring k := rfl
@[simp] theorem State.stallCmd_mbx_at (s : State) (src : CmdSrc) (w : List Nat) (k : Nat) : (s.stallCmd src w).mbx k = s.mbx k := rfl
@[simp] theorem State.stallCmd_part_at (s : State) (src : CmdSrc) (w : List Nat) (k : Nat) : (s.stallCmd src w).part k = s.part k := rfl
@[simp] theorem State.stallCmd_girth_at (s : State) (src : CmdSrc) (w : List Nat) (k : Nat) : (s.stallCmd src w).girth k = s.girth k := rfl
@[simp] theorem State.stallCmd_port_at (s : State) (src : CmdSrc) (w : List Nat) (k : Nat) : (s.stallCmd src w).port k = s.port k := rfl
@[simp] theorem State.stallCmd_tile_at (s : State) (src : CmdSrc) (w : List Nat) (k : Nat) : (s.stallCmd src w).tile k = s.tile k := rfl
@[simp] theorem State.stallCmd_arr_at (s : State) (src : CmdSrc) (w : List Nat) (k : Nat) : (s.stallCmd src w).arr k = s.arr k := rfl
@[simp] theorem State.stallCmd_cluster_at (s : State) (src : CmdSrc) (w : List Nat) (k : Nat) : (s.stallCmd src w).cluster k = s.cluster k := rfl
@[simp] theorem State.stallCmd_entry_at (s : State) (src : CmdSrc) (w : List Nat) (k : Nat) : (s.stallCmd src w).entry k = s.entry k := rfl
@[simp] theorem State.stallCmd_extn_at (s : State) (src : CmdSrc) (w : List Nat) (k : Nat) : (s.stallCmd src w).extn k = s.extn k := rfl
@[simp] theorem State.stallCmd_repair_at (s : State) (src : CmdSrc) (w : List Nat) (k : Nat) : (s.stallCmd src w).repair k = s.repair k := rfl

/-! ### noteBit -/

@[simp] theorem State.noteBit_pending (s : State) (off i : Nat) : (s.noteBit off i).pending = s.pending := by simp only [State.noteBit]; split <;> rfl
@[simp] theorem State.noteBit_out (s : State) (off i : Nat) : (s.noteBit off i).out = s.out := by simp only [State.noteBit]; split <;> rfl
@[simp] theorem State.noteBit_free (s : State) (off i : Nat) : (s.noteBit off i).free = s.free := by simp only [State.noteBit]; split <;> rfl
@[simp] theorem State.noteBit_tick (s : State) (off i : Nat) : (s.noteBit off i).tick = s.tick := by simp only [State.noteBit]; split <;> rfl
@[simp] theorem State.noteBit_host (s : State) (off i : Nat) : (s.noteBit off i).host = s.host := by simp only [State.noteBit]; split <;> rfl
@[simp] theorem State.noteBit_ledger (s : State) (off i : Nat) : (s.noteBit off i).ledger = s.ledger := by simp only [State.noteBit]; split <;> rfl
@[simp] theorem State.noteBit_ext (s : State) (off i : Nat) : (s.noteBit off i).ext = s.ext := by simp only [State.noteBit]; split <;> rfl
@[simp] theorem State.noteBit_wear (s : State) (off i : Nat) : (s.noteBit off i).wear = s.wear := by simp only [State.noteBit]; split <;> rfl
@[simp] theorem State.noteBit_parts (s : State) (off i : Nat) : (s.noteBit off i).parts = s.parts := by simp only [State.noteBit]; split <;> rfl
@[simp] theorem State.noteBit_girths (s : State) (off i : Nat) : (s.noteBit off i).girths = s.girths := by simp only [State.noteBit]; split <;> rfl
@[simp] theorem State.noteBit_ports (s : State) (off i : Nat) : (s.noteBit off i).ports = s.ports := by simp only [State.noteBit]; split <;> rfl
@[simp] theorem State.noteBit_tiles (s : State) (off i : Nat) : (s.noteBit off i).tiles = s.tiles := by simp only [State.noteBit]; split <;> rfl
@[simp] theorem State.noteBit_arrays (s : State) (off i : Nat) : (s.noteBit off i).arrays = s.arrays := by simp only [State.noteBit]; split <;> rfl
@[simp] theorem State.noteBit_clusters (s : State) (off i : Nat) : (s.noteBit off i).clusters = s.clusters := by simp only [State.noteBit]; split <;> rfl
@[simp] theorem State.noteBit_fabric (s : State) (off i : Nat) : (s.noteBit off i).fabric = s.fabric := by simp only [State.noteBit]; split <;> rfl
@[simp] theorem State.noteBit_mesh (s : State) (off i : Nat) : (s.noteBit off i).mesh = s.mesh := by simp only [State.noteBit]; split <;> rfl
@[simp] theorem State.noteBit_kvWr (s : State) (off i : Nat) : (s.noteBit off i).kvWr = s.kvWr := by simp only [State.noteBit]; split <;> rfl
@[simp] theorem State.noteBit_spill (s : State) (off i : Nat) : (s.noteBit off i).spill = s.spill := by simp only [State.noteBit]; split <;> rfl
@[simp] theorem State.noteBit_kv (s : State) (off i : Nat) : (s.noteBit off i).kv = s.kv := by simp only [State.noteBit]; split <;> rfl
@[simp] theorem State.noteBit_staging (s : State) (off i : Nat) : (s.noteBit off i).staging = s.staging := by simp only [State.noteBit]; split <;> rfl
@[simp] theorem State.noteBit_stackCopy (s : State) (off i : Nat) : (s.noteBit off i).stackCopy = s.stackCopy := by simp only [State.noteBit]; split <;> rfl
@[simp] theorem State.noteBit_sums (s : State) (off i : Nat) : (s.noteBit off i).sums = s.sums := by simp only [State.noteBit]; split <;> rfl
@[simp] theorem State.noteBit_shards (s : State) (off i : Nat) : (s.noteBit off i).shards = s.shards := by simp only [State.noteBit]; split <;> rfl
@[simp] theorem State.noteBit_store (s : State) (off i : Nat) : (s.noteBit off i).store = s.store := by simp only [State.noteBit]; split <;> rfl
@[simp] theorem State.noteBit_hk (s : State) (off i : Nat) : (s.noteBit off i).hk = s.hk := by simp only [State.noteBit]; split <;> rfl
@[simp] theorem State.noteBit_pwr (s : State) (off i : Nat) : (s.noteBit off i).pwr = s.pwr := by simp only [State.noteBit]; split <;> rfl
@[simp] theorem State.noteBit_sec (s : State) (off i : Nat) : (s.noteBit off i).sec = s.sec := by simp only [State.noteBit]; split <;> rfl
@[simp] theorem State.noteBit_ring_at (s : State) (off i : Nat) (k : Nat) : (s.noteBit off i).ring k = s.ring k := by simp only [State.ring, State.noteBit_host]
@[simp] theorem State.noteBit_mbx_at (s : State) (off i : Nat) (k : Nat) : (s.noteBit off i).mbx k = s.mbx k := by simp only [State.mbx, State.noteBit_host]
@[simp] theorem State.noteBit_part_at (s : State) (off i : Nat) (k : Nat) : (s.noteBit off i).part k = s.part k := by simp only [State.part, State.noteBit_parts]
@[simp] theorem State.noteBit_girth_at (s : State) (off i : Nat) (k : Nat) : (s.noteBit off i).girth k = s.girth k := by simp only [State.girth, State.noteBit_girths]
@[simp] theorem State.noteBit_port_at (s : State) (off i : Nat) (k : Nat) : (s.noteBit off i).port k = s.port k := by simp only [State.port, State.noteBit_ports]
@[simp] theorem State.noteBit_tile_at (s : State) (off i : Nat) (k : Nat) : (s.noteBit off i).tile k = s.tile k := by simp only [State.tile, State.noteBit_tiles]
@[simp] theorem State.noteBit_arr_at (s : State) (off i : Nat) (k : Nat) : (s.noteBit off i).arr k = s.arr k := by simp only [State.arr, State.noteBit_arrays]
@[simp] theorem State.noteBit_cluster_at (s : State) (off i : Nat) (k : Nat) : (s.noteBit off i).cluster k = s.cluster k := by simp only [State.cluster, State.noteBit_clusters]
@[simp] theorem State.noteBit_entry_at (s : State) (off i : Nat) (k : Nat) : (s.noteBit off i).entry k = s.entry k := by simp only [State.entry, State.noteBit_ledger]
@[simp] theorem State.noteBit_extn_at (s : State) (off i : Nat) (k : Nat) : (s.noteBit off i).extn k = s.extn k := by simp only [State.extn, State.noteBit_ext]
@[simp] theorem State.noteBit_repair_at (s : State) (off i : Nat) (k : Nat) : (s.noteBit off i).repair k = s.repair k := by simp only [State.repair, State.repairMap, State.noteBit_store]

/-! ### errSum -/

@[simp] theorem State.errSum_pending (s : State) (i : Nat) : (s.errSum i).pending = s.pending := State.noteBit_pending _ _ _
@[simp] theorem State.errSum_out (s : State) (i : Nat) : (s.errSum i).out = s.out := State.noteBit_out _ _ _
@[simp] theorem State.errSum_free (s : State) (i : Nat) : (s.errSum i).free = s.free := State.noteBit_free _ _ _
@[simp] theorem State.errSum_tick (s : State) (i : Nat) : (s.errSum i).tick = s.tick := State.noteBit_tick _ _ _
@[simp] theorem State.errSum_host (s : State) (i : Nat) : (s.errSum i).host = s.host := State.noteBit_host _ _ _
@[simp] theorem State.errSum_ledger (s : State) (i : Nat) : (s.errSum i).ledger = s.ledger := State.noteBit_ledger _ _ _
@[simp] theorem State.errSum_ext (s : State) (i : Nat) : (s.errSum i).ext = s.ext := State.noteBit_ext _ _ _
@[simp] theorem State.errSum_wear (s : State) (i : Nat) : (s.errSum i).wear = s.wear := State.noteBit_wear _ _ _
@[simp] theorem State.errSum_parts (s : State) (i : Nat) : (s.errSum i).parts = s.parts := State.noteBit_parts _ _ _
@[simp] theorem State.errSum_girths (s : State) (i : Nat) : (s.errSum i).girths = s.girths := State.noteBit_girths _ _ _
@[simp] theorem State.errSum_ports (s : State) (i : Nat) : (s.errSum i).ports = s.ports := State.noteBit_ports _ _ _
@[simp] theorem State.errSum_tiles (s : State) (i : Nat) : (s.errSum i).tiles = s.tiles := State.noteBit_tiles _ _ _
@[simp] theorem State.errSum_arrays (s : State) (i : Nat) : (s.errSum i).arrays = s.arrays := State.noteBit_arrays _ _ _
@[simp] theorem State.errSum_clusters (s : State) (i : Nat) : (s.errSum i).clusters = s.clusters := State.noteBit_clusters _ _ _
@[simp] theorem State.errSum_fabric (s : State) (i : Nat) : (s.errSum i).fabric = s.fabric := State.noteBit_fabric _ _ _
@[simp] theorem State.errSum_mesh (s : State) (i : Nat) : (s.errSum i).mesh = s.mesh := State.noteBit_mesh _ _ _
@[simp] theorem State.errSum_kvWr (s : State) (i : Nat) : (s.errSum i).kvWr = s.kvWr := State.noteBit_kvWr _ _ _
@[simp] theorem State.errSum_spill (s : State) (i : Nat) : (s.errSum i).spill = s.spill := State.noteBit_spill _ _ _
@[simp] theorem State.errSum_kv (s : State) (i : Nat) : (s.errSum i).kv = s.kv := State.noteBit_kv _ _ _
@[simp] theorem State.errSum_staging (s : State) (i : Nat) : (s.errSum i).staging = s.staging := State.noteBit_staging _ _ _
@[simp] theorem State.errSum_stackCopy (s : State) (i : Nat) : (s.errSum i).stackCopy = s.stackCopy := State.noteBit_stackCopy _ _ _
@[simp] theorem State.errSum_sums (s : State) (i : Nat) : (s.errSum i).sums = s.sums := State.noteBit_sums _ _ _
@[simp] theorem State.errSum_shards (s : State) (i : Nat) : (s.errSum i).shards = s.shards := State.noteBit_shards _ _ _
@[simp] theorem State.errSum_store (s : State) (i : Nat) : (s.errSum i).store = s.store := State.noteBit_store _ _ _
@[simp] theorem State.errSum_hk (s : State) (i : Nat) : (s.errSum i).hk = s.hk := State.noteBit_hk _ _ _
@[simp] theorem State.errSum_pwr (s : State) (i : Nat) : (s.errSum i).pwr = s.pwr := State.noteBit_pwr _ _ _
@[simp] theorem State.errSum_sec (s : State) (i : Nat) : (s.errSum i).sec = s.sec := State.noteBit_sec _ _ _
@[simp] theorem State.errSum_ring_at (s : State) (i : Nat) (k : Nat) : (s.errSum i).ring k = s.ring k := by simp only [State.ring, State.errSum_host]
@[simp] theorem State.errSum_mbx_at (s : State) (i : Nat) (k : Nat) : (s.errSum i).mbx k = s.mbx k := by simp only [State.mbx, State.errSum_host]
@[simp] theorem State.errSum_part_at (s : State) (i : Nat) (k : Nat) : (s.errSum i).part k = s.part k := by simp only [State.part, State.errSum_parts]
@[simp] theorem State.errSum_girth_at (s : State) (i : Nat) (k : Nat) : (s.errSum i).girth k = s.girth k := by simp only [State.girth, State.errSum_girths]
@[simp] theorem State.errSum_port_at (s : State) (i : Nat) (k : Nat) : (s.errSum i).port k = s.port k := by simp only [State.port, State.errSum_ports]
@[simp] theorem State.errSum_tile_at (s : State) (i : Nat) (k : Nat) : (s.errSum i).tile k = s.tile k := by simp only [State.tile, State.errSum_tiles]
@[simp] theorem State.errSum_arr_at (s : State) (i : Nat) (k : Nat) : (s.errSum i).arr k = s.arr k := by simp only [State.arr, State.errSum_arrays]
@[simp] theorem State.errSum_cluster_at (s : State) (i : Nat) (k : Nat) : (s.errSum i).cluster k = s.cluster k := by simp only [State.cluster, State.errSum_clusters]
@[simp] theorem State.errSum_entry_at (s : State) (i : Nat) (k : Nat) : (s.errSum i).entry k = s.entry k := by simp only [State.entry, State.errSum_ledger]
@[simp] theorem State.errSum_extn_at (s : State) (i : Nat) (k : Nat) : (s.errSum i).extn k = s.extn k := by simp only [State.extn, State.errSum_ext]
@[simp] theorem State.errSum_repair_at (s : State) (i : Nat) (k : Nat) : (s.errSum i).repair k = s.repair k := by simp only [State.repair, State.repairMap, State.errSum_store]

/-! ### pwrEv -/

@[simp] theorem State.pwrEv_pending (s : State) (i : Nat) : (s.pwrEv i).pending = s.pending := State.noteBit_pending _ _ _
@[simp] theorem State.pwrEv_out (s : State) (i : Nat) : (s.pwrEv i).out = s.out := State.noteBit_out _ _ _
@[simp] theorem State.pwrEv_free (s : State) (i : Nat) : (s.pwrEv i).free = s.free := State.noteBit_free _ _ _
@[simp] theorem State.pwrEv_tick (s : State) (i : Nat) : (s.pwrEv i).tick = s.tick := State.noteBit_tick _ _ _
@[simp] theorem State.pwrEv_host (s : State) (i : Nat) : (s.pwrEv i).host = s.host := State.noteBit_host _ _ _
@[simp] theorem State.pwrEv_ledger (s : State) (i : Nat) : (s.pwrEv i).ledger = s.ledger := State.noteBit_ledger _ _ _
@[simp] theorem State.pwrEv_ext (s : State) (i : Nat) : (s.pwrEv i).ext = s.ext := State.noteBit_ext _ _ _
@[simp] theorem State.pwrEv_wear (s : State) (i : Nat) : (s.pwrEv i).wear = s.wear := State.noteBit_wear _ _ _
@[simp] theorem State.pwrEv_parts (s : State) (i : Nat) : (s.pwrEv i).parts = s.parts := State.noteBit_parts _ _ _
@[simp] theorem State.pwrEv_girths (s : State) (i : Nat) : (s.pwrEv i).girths = s.girths := State.noteBit_girths _ _ _
@[simp] theorem State.pwrEv_ports (s : State) (i : Nat) : (s.pwrEv i).ports = s.ports := State.noteBit_ports _ _ _
@[simp] theorem State.pwrEv_tiles (s : State) (i : Nat) : (s.pwrEv i).tiles = s.tiles := State.noteBit_tiles _ _ _
@[simp] theorem State.pwrEv_arrays (s : State) (i : Nat) : (s.pwrEv i).arrays = s.arrays := State.noteBit_arrays _ _ _
@[simp] theorem State.pwrEv_clusters (s : State) (i : Nat) : (s.pwrEv i).clusters = s.clusters := State.noteBit_clusters _ _ _
@[simp] theorem State.pwrEv_fabric (s : State) (i : Nat) : (s.pwrEv i).fabric = s.fabric := State.noteBit_fabric _ _ _
@[simp] theorem State.pwrEv_mesh (s : State) (i : Nat) : (s.pwrEv i).mesh = s.mesh := State.noteBit_mesh _ _ _
@[simp] theorem State.pwrEv_kvWr (s : State) (i : Nat) : (s.pwrEv i).kvWr = s.kvWr := State.noteBit_kvWr _ _ _
@[simp] theorem State.pwrEv_spill (s : State) (i : Nat) : (s.pwrEv i).spill = s.spill := State.noteBit_spill _ _ _
@[simp] theorem State.pwrEv_kv (s : State) (i : Nat) : (s.pwrEv i).kv = s.kv := State.noteBit_kv _ _ _
@[simp] theorem State.pwrEv_staging (s : State) (i : Nat) : (s.pwrEv i).staging = s.staging := State.noteBit_staging _ _ _
@[simp] theorem State.pwrEv_stackCopy (s : State) (i : Nat) : (s.pwrEv i).stackCopy = s.stackCopy := State.noteBit_stackCopy _ _ _
@[simp] theorem State.pwrEv_sums (s : State) (i : Nat) : (s.pwrEv i).sums = s.sums := State.noteBit_sums _ _ _
@[simp] theorem State.pwrEv_shards (s : State) (i : Nat) : (s.pwrEv i).shards = s.shards := State.noteBit_shards _ _ _
@[simp] theorem State.pwrEv_store (s : State) (i : Nat) : (s.pwrEv i).store = s.store := State.noteBit_store _ _ _
@[simp] theorem State.pwrEv_hk (s : State) (i : Nat) : (s.pwrEv i).hk = s.hk := State.noteBit_hk _ _ _
@[simp] theorem State.pwrEv_sec (s : State) (i : Nat) : (s.pwrEv i).sec = s.sec := State.noteBit_sec _ _ _
@[simp] theorem State.pwrEv_ring_at (s : State) (i : Nat) (k : Nat) : (s.pwrEv i).ring k = s.ring k := by simp only [State.ring, State.pwrEv_host]
@[simp] theorem State.pwrEv_mbx_at (s : State) (i : Nat) (k : Nat) : (s.pwrEv i).mbx k = s.mbx k := by simp only [State.mbx, State.pwrEv_host]
@[simp] theorem State.pwrEv_part_at (s : State) (i : Nat) (k : Nat) : (s.pwrEv i).part k = s.part k := by simp only [State.part, State.pwrEv_parts]
@[simp] theorem State.pwrEv_girth_at (s : State) (i : Nat) (k : Nat) : (s.pwrEv i).girth k = s.girth k := by simp only [State.girth, State.pwrEv_girths]
@[simp] theorem State.pwrEv_port_at (s : State) (i : Nat) (k : Nat) : (s.pwrEv i).port k = s.port k := by simp only [State.port, State.pwrEv_ports]
@[simp] theorem State.pwrEv_tile_at (s : State) (i : Nat) (k : Nat) : (s.pwrEv i).tile k = s.tile k := by simp only [State.tile, State.pwrEv_tiles]
@[simp] theorem State.pwrEv_arr_at (s : State) (i : Nat) (k : Nat) : (s.pwrEv i).arr k = s.arr k := by simp only [State.arr, State.pwrEv_arrays]
@[simp] theorem State.pwrEv_cluster_at (s : State) (i : Nat) (k : Nat) : (s.pwrEv i).cluster k = s.cluster k := by simp only [State.cluster, State.pwrEv_clusters]
@[simp] theorem State.pwrEv_entry_at (s : State) (i : Nat) (k : Nat) : (s.pwrEv i).entry k = s.entry k := by simp only [State.entry, State.pwrEv_ledger]
@[simp] theorem State.pwrEv_extn_at (s : State) (i : Nat) (k : Nat) : (s.pwrEv i).extn k = s.extn k := by simp only [State.extn, State.pwrEv_ext]
@[simp] theorem State.pwrEv_repair_at (s : State) (i : Nat) (k : Nat) : (s.pwrEv i).repair k = s.repair k := by simp only [State.repair, State.repairMap, State.pwrEv_store]

/-! ### thermEv -/

@[simp] theorem State.thermEv_pending (s : State) (i : Nat) : (s.thermEv i).pending = s.pending := State.noteBit_pending _ _ _
@[simp] theorem State.thermEv_out (s : State) (i : Nat) : (s.thermEv i).out = s.out := State.noteBit_out _ _ _
@[simp] theorem State.thermEv_free (s : State) (i : Nat) : (s.thermEv i).free = s.free := State.noteBit_free _ _ _
@[simp] theorem State.thermEv_tick (s : State) (i : Nat) : (s.thermEv i).tick = s.tick := State.noteBit_tick _ _ _
@[simp] theorem State.thermEv_host (s : State) (i : Nat) : (s.thermEv i).host = s.host := State.noteBit_host _ _ _
@[simp] theorem State.thermEv_ledger (s : State) (i : Nat) : (s.thermEv i).ledger = s.ledger := State.noteBit_ledger _ _ _
@[simp] theorem State.thermEv_ext (s : State) (i : Nat) : (s.thermEv i).ext = s.ext := State.noteBit_ext _ _ _
@[simp] theorem State.thermEv_wear (s : State) (i : Nat) : (s.thermEv i).wear = s.wear := State.noteBit_wear _ _ _
@[simp] theorem State.thermEv_parts (s : State) (i : Nat) : (s.thermEv i).parts = s.parts := State.noteBit_parts _ _ _
@[simp] theorem State.thermEv_girths (s : State) (i : Nat) : (s.thermEv i).girths = s.girths := State.noteBit_girths _ _ _
@[simp] theorem State.thermEv_ports (s : State) (i : Nat) : (s.thermEv i).ports = s.ports := State.noteBit_ports _ _ _
@[simp] theorem State.thermEv_tiles (s : State) (i : Nat) : (s.thermEv i).tiles = s.tiles := State.noteBit_tiles _ _ _
@[simp] theorem State.thermEv_arrays (s : State) (i : Nat) : (s.thermEv i).arrays = s.arrays := State.noteBit_arrays _ _ _
@[simp] theorem State.thermEv_clusters (s : State) (i : Nat) : (s.thermEv i).clusters = s.clusters := State.noteBit_clusters _ _ _
@[simp] theorem State.thermEv_fabric (s : State) (i : Nat) : (s.thermEv i).fabric = s.fabric := State.noteBit_fabric _ _ _
@[simp] theorem State.thermEv_mesh (s : State) (i : Nat) : (s.thermEv i).mesh = s.mesh := State.noteBit_mesh _ _ _
@[simp] theorem State.thermEv_kvWr (s : State) (i : Nat) : (s.thermEv i).kvWr = s.kvWr := State.noteBit_kvWr _ _ _
@[simp] theorem State.thermEv_spill (s : State) (i : Nat) : (s.thermEv i).spill = s.spill := State.noteBit_spill _ _ _
@[simp] theorem State.thermEv_kv (s : State) (i : Nat) : (s.thermEv i).kv = s.kv := State.noteBit_kv _ _ _
@[simp] theorem State.thermEv_staging (s : State) (i : Nat) : (s.thermEv i).staging = s.staging := State.noteBit_staging _ _ _
@[simp] theorem State.thermEv_stackCopy (s : State) (i : Nat) : (s.thermEv i).stackCopy = s.stackCopy := State.noteBit_stackCopy _ _ _
@[simp] theorem State.thermEv_sums (s : State) (i : Nat) : (s.thermEv i).sums = s.sums := State.noteBit_sums _ _ _
@[simp] theorem State.thermEv_shards (s : State) (i : Nat) : (s.thermEv i).shards = s.shards := State.noteBit_shards _ _ _
@[simp] theorem State.thermEv_store (s : State) (i : Nat) : (s.thermEv i).store = s.store := State.noteBit_store _ _ _
@[simp] theorem State.thermEv_pwr (s : State) (i : Nat) : (s.thermEv i).pwr = s.pwr := State.noteBit_pwr _ _ _
@[simp] theorem State.thermEv_sec (s : State) (i : Nat) : (s.thermEv i).sec = s.sec := State.noteBit_sec _ _ _
@[simp] theorem State.thermEv_ring_at (s : State) (i : Nat) (k : Nat) : (s.thermEv i).ring k = s.ring k := by simp only [State.ring, State.thermEv_host]
@[simp] theorem State.thermEv_mbx_at (s : State) (i : Nat) (k : Nat) : (s.thermEv i).mbx k = s.mbx k := by simp only [State.mbx, State.thermEv_host]
@[simp] theorem State.thermEv_part_at (s : State) (i : Nat) (k : Nat) : (s.thermEv i).part k = s.part k := by simp only [State.part, State.thermEv_parts]
@[simp] theorem State.thermEv_girth_at (s : State) (i : Nat) (k : Nat) : (s.thermEv i).girth k = s.girth k := by simp only [State.girth, State.thermEv_girths]
@[simp] theorem State.thermEv_port_at (s : State) (i : Nat) (k : Nat) : (s.thermEv i).port k = s.port k := by simp only [State.port, State.thermEv_ports]
@[simp] theorem State.thermEv_tile_at (s : State) (i : Nat) (k : Nat) : (s.thermEv i).tile k = s.tile k := by simp only [State.tile, State.thermEv_tiles]
@[simp] theorem State.thermEv_arr_at (s : State) (i : Nat) (k : Nat) : (s.thermEv i).arr k = s.arr k := by simp only [State.arr, State.thermEv_arrays]
@[simp] theorem State.thermEv_cluster_at (s : State) (i : Nat) (k : Nat) : (s.thermEv i).cluster k = s.cluster k := by simp only [State.cluster, State.thermEv_clusters]
@[simp] theorem State.thermEv_entry_at (s : State) (i : Nat) (k : Nat) : (s.thermEv i).entry k = s.entry k := by simp only [State.entry, State.thermEv_ledger]
@[simp] theorem State.thermEv_extn_at (s : State) (i : Nat) (k : Nat) : (s.thermEv i).extn k = s.extn k := by simp only [State.extn, State.thermEv_ext]
@[simp] theorem State.thermEv_repair_at (s : State) (i : Nat) (k : Nat) : (s.thermEv i).repair k = s.repair k := by simp only [State.repair, State.repairMap, State.thermEv_store]

/-! ### emitFlits -/

@[simp] theorem State.emitFlits_pending (s : State) (q : Nat) (fs : List TxFlit) : (s.emitFlits q fs).pending = s.pending := by simp only [State.emitFlits]; apply State.foldl_keeps (·.pending); intros; rfl
@[simp] theorem State.emitFlits_free (s : State) (q : Nat) (fs : List TxFlit) : (s.emitFlits q fs).free = s.free := by simp only [State.emitFlits]; apply State.foldl_keeps (·.free); intros; rfl
@[simp] theorem State.emitFlits_tick (s : State) (q : Nat) (fs : List TxFlit) : (s.emitFlits q fs).tick = s.tick := by simp only [State.emitFlits]; apply State.foldl_keeps (·.tick); intros; rfl
@[simp] theorem State.emitFlits_host (s : State) (q : Nat) (fs : List TxFlit) : (s.emitFlits q fs).host = s.host := by simp only [State.emitFlits]; apply State.foldl_keeps (·.host); intros; rfl
@[simp] theorem State.emitFlits_ev (s : State) (q : Nat) (fs : List TxFlit) : (s.emitFlits q fs).ev = s.ev := by simp only [State.emitFlits]; apply State.foldl_keeps (·.ev); intros; rfl
@[simp] theorem State.emitFlits_ledger (s : State) (q : Nat) (fs : List TxFlit) : (s.emitFlits q fs).ledger = s.ledger := by simp only [State.emitFlits]; apply State.foldl_keeps (·.ledger); intros; rfl
@[simp] theorem State.emitFlits_ext (s : State) (q : Nat) (fs : List TxFlit) : (s.emitFlits q fs).ext = s.ext := by simp only [State.emitFlits]; apply State.foldl_keeps (·.ext); intros; rfl
@[simp] theorem State.emitFlits_wear (s : State) (q : Nat) (fs : List TxFlit) : (s.emitFlits q fs).wear = s.wear := by simp only [State.emitFlits]; apply State.foldl_keeps (·.wear); intros; rfl
@[simp] theorem State.emitFlits_parts (s : State) (q : Nat) (fs : List TxFlit) : (s.emitFlits q fs).parts = s.parts := by simp only [State.emitFlits]; apply State.foldl_keeps (·.parts); intros; rfl
@[simp] theorem State.emitFlits_girths (s : State) (q : Nat) (fs : List TxFlit) : (s.emitFlits q fs).girths = s.girths := by simp only [State.emitFlits]; apply State.foldl_keeps (·.girths); intros; rfl
@[simp] theorem State.emitFlits_ports (s : State) (q : Nat) (fs : List TxFlit) : (s.emitFlits q fs).ports = s.ports := by simp only [State.emitFlits]; apply State.foldl_keeps (·.ports); intros; rfl
@[simp] theorem State.emitFlits_tiles (s : State) (q : Nat) (fs : List TxFlit) : (s.emitFlits q fs).tiles = s.tiles := by simp only [State.emitFlits]; apply State.foldl_keeps (·.tiles); intros; rfl
@[simp] theorem State.emitFlits_arrays (s : State) (q : Nat) (fs : List TxFlit) : (s.emitFlits q fs).arrays = s.arrays := by simp only [State.emitFlits]; apply State.foldl_keeps (·.arrays); intros; rfl
@[simp] theorem State.emitFlits_clusters (s : State) (q : Nat) (fs : List TxFlit) : (s.emitFlits q fs).clusters = s.clusters := by simp only [State.emitFlits]; apply State.foldl_keeps (·.clusters); intros; rfl
@[simp] theorem State.emitFlits_fabric (s : State) (q : Nat) (fs : List TxFlit) : (s.emitFlits q fs).fabric = s.fabric := by simp only [State.emitFlits]; apply State.foldl_keeps (·.fabric); intros; rfl
@[simp] theorem State.emitFlits_mesh (s : State) (q : Nat) (fs : List TxFlit) : (s.emitFlits q fs).mesh = s.mesh := by simp only [State.emitFlits]; apply State.foldl_keeps (·.mesh); intros; rfl
@[simp] theorem State.emitFlits_kvWr (s : State) (q : Nat) (fs : List TxFlit) : (s.emitFlits q fs).kvWr = s.kvWr := by simp only [State.emitFlits]; apply State.foldl_keeps (·.kvWr); intros; rfl
@[simp] theorem State.emitFlits_spill (s : State) (q : Nat) (fs : List TxFlit) : (s.emitFlits q fs).spill = s.spill := by simp only [State.emitFlits]; apply State.foldl_keeps (·.spill); intros; rfl
@[simp] theorem State.emitFlits_kv (s : State) (q : Nat) (fs : List TxFlit) : (s.emitFlits q fs).kv = s.kv := by simp only [State.emitFlits]; apply State.foldl_keeps (·.kv); intros; rfl
@[simp] theorem State.emitFlits_staging (s : State) (q : Nat) (fs : List TxFlit) : (s.emitFlits q fs).staging = s.staging := by simp only [State.emitFlits]; apply State.foldl_keeps (·.staging); intros; rfl
@[simp] theorem State.emitFlits_stackCopy (s : State) (q : Nat) (fs : List TxFlit) : (s.emitFlits q fs).stackCopy = s.stackCopy := by simp only [State.emitFlits]; apply State.foldl_keeps (·.stackCopy); intros; rfl
@[simp] theorem State.emitFlits_sums (s : State) (q : Nat) (fs : List TxFlit) : (s.emitFlits q fs).sums = s.sums := by simp only [State.emitFlits]; apply State.foldl_keeps (·.sums); intros; rfl
@[simp] theorem State.emitFlits_shards (s : State) (q : Nat) (fs : List TxFlit) : (s.emitFlits q fs).shards = s.shards := by simp only [State.emitFlits]; apply State.foldl_keeps (·.shards); intros; rfl
@[simp] theorem State.emitFlits_store (s : State) (q : Nat) (fs : List TxFlit) : (s.emitFlits q fs).store = s.store := by simp only [State.emitFlits]; apply State.foldl_keeps (·.store); intros; rfl
@[simp] theorem State.emitFlits_hk (s : State) (q : Nat) (fs : List TxFlit) : (s.emitFlits q fs).hk = s.hk := by simp only [State.emitFlits]; apply State.foldl_keeps (·.hk); intros; rfl
@[simp] theorem State.emitFlits_pwr (s : State) (q : Nat) (fs : List TxFlit) : (s.emitFlits q fs).pwr = s.pwr := by simp only [State.emitFlits]; apply State.foldl_keeps (·.pwr); intros; rfl
@[simp] theorem State.emitFlits_sec (s : State) (q : Nat) (fs : List TxFlit) : (s.emitFlits q fs).sec = s.sec := by simp only [State.emitFlits]; apply State.foldl_keeps (·.sec); intros; rfl
@[simp] theorem State.emitFlits_ring_at (s : State) (q : Nat) (fs : List TxFlit) (k : Nat) : (s.emitFlits q fs).ring k = s.ring k := by simp only [State.ring, State.emitFlits_host]
@[simp] theorem State.emitFlits_mbx_at (s : State) (q : Nat) (fs : List TxFlit) (k : Nat) : (s.emitFlits q fs).mbx k = s.mbx k := by simp only [State.mbx, State.emitFlits_host]
@[simp] theorem State.emitFlits_part_at (s : State) (q : Nat) (fs : List TxFlit) (k : Nat) : (s.emitFlits q fs).part k = s.part k := by simp only [State.part, State.emitFlits_parts]
@[simp] theorem State.emitFlits_girth_at (s : State) (q : Nat) (fs : List TxFlit) (k : Nat) : (s.emitFlits q fs).girth k = s.girth k := by simp only [State.girth, State.emitFlits_girths]
@[simp] theorem State.emitFlits_port_at (s : State) (q : Nat) (fs : List TxFlit) (k : Nat) : (s.emitFlits q fs).port k = s.port k := by simp only [State.port, State.emitFlits_ports]
@[simp] theorem State.emitFlits_tile_at (s : State) (q : Nat) (fs : List TxFlit) (k : Nat) : (s.emitFlits q fs).tile k = s.tile k := by simp only [State.tile, State.emitFlits_tiles]
@[simp] theorem State.emitFlits_arr_at (s : State) (q : Nat) (fs : List TxFlit) (k : Nat) : (s.emitFlits q fs).arr k = s.arr k := by simp only [State.arr, State.emitFlits_arrays]
@[simp] theorem State.emitFlits_cluster_at (s : State) (q : Nat) (fs : List TxFlit) (k : Nat) : (s.emitFlits q fs).cluster k = s.cluster k := by simp only [State.cluster, State.emitFlits_clusters]
@[simp] theorem State.emitFlits_entry_at (s : State) (q : Nat) (fs : List TxFlit) (k : Nat) : (s.emitFlits q fs).entry k = s.entry k := by simp only [State.entry, State.emitFlits_ledger]
@[simp] theorem State.emitFlits_extn_at (s : State) (q : Nat) (fs : List TxFlit) (k : Nat) : (s.emitFlits q fs).extn k = s.extn k := by simp only [State.extn, State.emitFlits_ext]
@[simp] theorem State.emitFlits_repair_at (s : State) (q : Nat) (fs : List TxFlit) (k : Nat) : (s.emitFlits q fs).repair k = s.repair k := by simp only [State.repair, State.repairMap, State.emitFlits_store]

/-! ### pump -/

@[simp] theorem State.pump_pending (s : State) (q : Nat) : (s.pump q).pending = s.pending := by simp only [State.pump]; split <;> simp
@[simp] theorem State.pump_free (s : State) (q : Nat) : (s.pump q).free = s.free := by simp only [State.pump]; split <;> simp
@[simp] theorem State.pump_tick (s : State) (q : Nat) : (s.pump q).tick = s.tick := by simp only [State.pump]; split <;> simp
@[simp] theorem State.pump_host (s : State) (q : Nat) : (s.pump q).host = s.host := by simp only [State.pump]; split <;> simp
@[simp] theorem State.pump_ev (s : State) (q : Nat) : (s.pump q).ev = s.ev := by simp only [State.pump]; split <;> simp
@[simp] theorem State.pump_ledger (s : State) (q : Nat) : (s.pump q).ledger = s.ledger := by simp only [State.pump]; split <;> simp
@[simp] theorem State.pump_ext (s : State) (q : Nat) : (s.pump q).ext = s.ext := by simp only [State.pump]; split <;> simp
@[simp] theorem State.pump_wear (s : State) (q : Nat) : (s.pump q).wear = s.wear := by simp only [State.pump]; split <;> simp
@[simp] theorem State.pump_parts (s : State) (q : Nat) : (s.pump q).parts = s.parts := by simp only [State.pump]; split <;> simp
@[simp] theorem State.pump_girths (s : State) (q : Nat) : (s.pump q).girths = s.girths := by simp only [State.pump]; split <;> simp
@[simp] theorem State.pump_tiles (s : State) (q : Nat) : (s.pump q).tiles = s.tiles := by simp only [State.pump]; split <;> simp
@[simp] theorem State.pump_arrays (s : State) (q : Nat) : (s.pump q).arrays = s.arrays := by simp only [State.pump]; split <;> simp
@[simp] theorem State.pump_clusters (s : State) (q : Nat) : (s.pump q).clusters = s.clusters := by simp only [State.pump]; split <;> simp
@[simp] theorem State.pump_fabric (s : State) (q : Nat) : (s.pump q).fabric = s.fabric := by simp only [State.pump]; split <;> simp
@[simp] theorem State.pump_mesh (s : State) (q : Nat) : (s.pump q).mesh = s.mesh := by simp only [State.pump]; split <;> simp
@[simp] theorem State.pump_kvWr (s : State) (q : Nat) : (s.pump q).kvWr = s.kvWr := by simp only [State.pump]; split <;> simp
@[simp] theorem State.pump_spill (s : State) (q : Nat) : (s.pump q).spill = s.spill := by simp only [State.pump]; split <;> simp
@[simp] theorem State.pump_kv (s : State) (q : Nat) : (s.pump q).kv = s.kv := by simp only [State.pump]; split <;> simp
@[simp] theorem State.pump_staging (s : State) (q : Nat) : (s.pump q).staging = s.staging := by simp only [State.pump]; split <;> simp
@[simp] theorem State.pump_stackCopy (s : State) (q : Nat) : (s.pump q).stackCopy = s.stackCopy := by simp only [State.pump]; split <;> simp
@[simp] theorem State.pump_sums (s : State) (q : Nat) : (s.pump q).sums = s.sums := by simp only [State.pump]; split <;> simp
@[simp] theorem State.pump_shards (s : State) (q : Nat) : (s.pump q).shards = s.shards := by simp only [State.pump]; split <;> simp
@[simp] theorem State.pump_store (s : State) (q : Nat) : (s.pump q).store = s.store := by simp only [State.pump]; split <;> simp
@[simp] theorem State.pump_hk (s : State) (q : Nat) : (s.pump q).hk = s.hk := by simp only [State.pump]; split <;> simp
@[simp] theorem State.pump_pwr (s : State) (q : Nat) : (s.pump q).pwr = s.pwr := by simp only [State.pump]; split <;> simp
@[simp] theorem State.pump_sec (s : State) (q : Nat) : (s.pump q).sec = s.sec := by simp only [State.pump]; split <;> simp
@[simp] theorem State.pump_ring_at (s : State) (q : Nat) (k : Nat) : (s.pump q).ring k = s.ring k := by simp only [State.ring, State.pump_host]
@[simp] theorem State.pump_mbx_at (s : State) (q : Nat) (k : Nat) : (s.pump q).mbx k = s.mbx k := by simp only [State.mbx, State.pump_host]
@[simp] theorem State.pump_part_at (s : State) (q : Nat) (k : Nat) : (s.pump q).part k = s.part k := by simp only [State.part, State.pump_parts]
@[simp] theorem State.pump_girth_at (s : State) (q : Nat) (k : Nat) : (s.pump q).girth k = s.girth k := by simp only [State.girth, State.pump_girths]
@[simp] theorem State.pump_tile_at (s : State) (q : Nat) (k : Nat) : (s.pump q).tile k = s.tile k := by simp only [State.tile, State.pump_tiles]
@[simp] theorem State.pump_arr_at (s : State) (q : Nat) (k : Nat) : (s.pump q).arr k = s.arr k := by simp only [State.arr, State.pump_arrays]
@[simp] theorem State.pump_cluster_at (s : State) (q : Nat) (k : Nat) : (s.pump q).cluster k = s.cluster k := by simp only [State.cluster, State.pump_clusters]
@[simp] theorem State.pump_entry_at (s : State) (q : Nat) (k : Nat) : (s.pump q).entry k = s.entry k := by simp only [State.entry, State.pump_ledger]
@[simp] theorem State.pump_extn_at (s : State) (q : Nat) (k : Nat) : (s.pump q).extn k = s.extn k := by simp only [State.extn, State.pump_ext]
@[simp] theorem State.pump_repair_at (s : State) (q : Nat) (k : Nat) : (s.pump q).repair k = s.repair k := by simp only [State.repair, State.repairMap, State.pump_store]

/-! ### queueMsg -/

@[simp] theorem State.queueMsg_pending (s : State) (q cls girth epoch kind dbuf src dst : Nat) (b : List Byte) : (s.queueMsg q cls girth epoch kind dbuf src dst b).pending = s.pending := by simp only [State.queueMsg]; split <;> simp
@[simp] theorem State.queueMsg_free (s : State) (q cls girth epoch kind dbuf src dst : Nat) (b : List Byte) : (s.queueMsg q cls girth epoch kind dbuf src dst b).free = s.free := by simp only [State.queueMsg]; split <;> simp
@[simp] theorem State.queueMsg_tick (s : State) (q cls girth epoch kind dbuf src dst : Nat) (b : List Byte) : (s.queueMsg q cls girth epoch kind dbuf src dst b).tick = s.tick := by simp only [State.queueMsg]; split <;> simp
@[simp] theorem State.queueMsg_host (s : State) (q cls girth epoch kind dbuf src dst : Nat) (b : List Byte) : (s.queueMsg q cls girth epoch kind dbuf src dst b).host = s.host := by simp only [State.queueMsg]; split <;> simp
@[simp] theorem State.queueMsg_ev (s : State) (q cls girth epoch kind dbuf src dst : Nat) (b : List Byte) : (s.queueMsg q cls girth epoch kind dbuf src dst b).ev = s.ev := by simp only [State.queueMsg]; split <;> simp
@[simp] theorem State.queueMsg_ledger (s : State) (q cls girth epoch kind dbuf src dst : Nat) (b : List Byte) : (s.queueMsg q cls girth epoch kind dbuf src dst b).ledger = s.ledger := by simp only [State.queueMsg]; split <;> simp
@[simp] theorem State.queueMsg_ext (s : State) (q cls girth epoch kind dbuf src dst : Nat) (b : List Byte) : (s.queueMsg q cls girth epoch kind dbuf src dst b).ext = s.ext := by simp only [State.queueMsg]; split <;> simp
@[simp] theorem State.queueMsg_wear (s : State) (q cls girth epoch kind dbuf src dst : Nat) (b : List Byte) : (s.queueMsg q cls girth epoch kind dbuf src dst b).wear = s.wear := by simp only [State.queueMsg]; split <;> simp
@[simp] theorem State.queueMsg_parts (s : State) (q cls girth epoch kind dbuf src dst : Nat) (b : List Byte) : (s.queueMsg q cls girth epoch kind dbuf src dst b).parts = s.parts := by simp only [State.queueMsg]; split <;> simp
@[simp] theorem State.queueMsg_girths (s : State) (q cls girth epoch kind dbuf src dst : Nat) (b : List Byte) : (s.queueMsg q cls girth epoch kind dbuf src dst b).girths = s.girths := by simp only [State.queueMsg]; split <;> simp
@[simp] theorem State.queueMsg_tiles (s : State) (q cls girth epoch kind dbuf src dst : Nat) (b : List Byte) : (s.queueMsg q cls girth epoch kind dbuf src dst b).tiles = s.tiles := by simp only [State.queueMsg]; split <;> simp
@[simp] theorem State.queueMsg_arrays (s : State) (q cls girth epoch kind dbuf src dst : Nat) (b : List Byte) : (s.queueMsg q cls girth epoch kind dbuf src dst b).arrays = s.arrays := by simp only [State.queueMsg]; split <;> simp
@[simp] theorem State.queueMsg_clusters (s : State) (q cls girth epoch kind dbuf src dst : Nat) (b : List Byte) : (s.queueMsg q cls girth epoch kind dbuf src dst b).clusters = s.clusters := by simp only [State.queueMsg]; split <;> simp
@[simp] theorem State.queueMsg_fabric (s : State) (q cls girth epoch kind dbuf src dst : Nat) (b : List Byte) : (s.queueMsg q cls girth epoch kind dbuf src dst b).fabric = s.fabric := by simp only [State.queueMsg]; split <;> simp
@[simp] theorem State.queueMsg_mesh (s : State) (q cls girth epoch kind dbuf src dst : Nat) (b : List Byte) : (s.queueMsg q cls girth epoch kind dbuf src dst b).mesh = s.mesh := by simp only [State.queueMsg]; split <;> simp
@[simp] theorem State.queueMsg_kvWr (s : State) (q cls girth epoch kind dbuf src dst : Nat) (b : List Byte) : (s.queueMsg q cls girth epoch kind dbuf src dst b).kvWr = s.kvWr := by simp only [State.queueMsg]; split <;> simp
@[simp] theorem State.queueMsg_spill (s : State) (q cls girth epoch kind dbuf src dst : Nat) (b : List Byte) : (s.queueMsg q cls girth epoch kind dbuf src dst b).spill = s.spill := by simp only [State.queueMsg]; split <;> simp
@[simp] theorem State.queueMsg_kv (s : State) (q cls girth epoch kind dbuf src dst : Nat) (b : List Byte) : (s.queueMsg q cls girth epoch kind dbuf src dst b).kv = s.kv := by simp only [State.queueMsg]; split <;> simp
@[simp] theorem State.queueMsg_staging (s : State) (q cls girth epoch kind dbuf src dst : Nat) (b : List Byte) : (s.queueMsg q cls girth epoch kind dbuf src dst b).staging = s.staging := by simp only [State.queueMsg]; split <;> simp
@[simp] theorem State.queueMsg_stackCopy (s : State) (q cls girth epoch kind dbuf src dst : Nat) (b : List Byte) : (s.queueMsg q cls girth epoch kind dbuf src dst b).stackCopy = s.stackCopy := by simp only [State.queueMsg]; split <;> simp
@[simp] theorem State.queueMsg_sums (s : State) (q cls girth epoch kind dbuf src dst : Nat) (b : List Byte) : (s.queueMsg q cls girth epoch kind dbuf src dst b).sums = s.sums := by simp only [State.queueMsg]; split <;> simp
@[simp] theorem State.queueMsg_shards (s : State) (q cls girth epoch kind dbuf src dst : Nat) (b : List Byte) : (s.queueMsg q cls girth epoch kind dbuf src dst b).shards = s.shards := by simp only [State.queueMsg]; split <;> simp
@[simp] theorem State.queueMsg_store (s : State) (q cls girth epoch kind dbuf src dst : Nat) (b : List Byte) : (s.queueMsg q cls girth epoch kind dbuf src dst b).store = s.store := by simp only [State.queueMsg]; split <;> simp
@[simp] theorem State.queueMsg_hk (s : State) (q cls girth epoch kind dbuf src dst : Nat) (b : List Byte) : (s.queueMsg q cls girth epoch kind dbuf src dst b).hk = s.hk := by simp only [State.queueMsg]; split <;> simp
@[simp] theorem State.queueMsg_pwr (s : State) (q cls girth epoch kind dbuf src dst : Nat) (b : List Byte) : (s.queueMsg q cls girth epoch kind dbuf src dst b).pwr = s.pwr := by simp only [State.queueMsg]; split <;> simp
@[simp] theorem State.queueMsg_sec (s : State) (q cls girth epoch kind dbuf src dst : Nat) (b : List Byte) : (s.queueMsg q cls girth epoch kind dbuf src dst b).sec = s.sec := by simp only [State.queueMsg]; split <;> simp
@[simp] theorem State.queueMsg_ring_at (s : State) (q cls girth epoch kind dbuf src dst : Nat) (b : List Byte) (k : Nat) : (s.queueMsg q cls girth epoch kind dbuf src dst b).ring k = s.ring k := by simp only [State.ring, State.queueMsg_host]
@[simp] theorem State.queueMsg_mbx_at (s : State) (q cls girth epoch kind dbuf src dst : Nat) (b : List Byte) (k : Nat) : (s.queueMsg q cls girth epoch kind dbuf src dst b).mbx k = s.mbx k := by simp only [State.mbx, State.queueMsg_host]
@[simp] theorem State.queueMsg_part_at (s : State) (q cls girth epoch kind dbuf src dst : Nat) (b : List Byte) (k : Nat) : (s.queueMsg q cls girth epoch kind dbuf src dst b).part k = s.part k := by simp only [State.part, State.queueMsg_parts]
@[simp] theorem State.queueMsg_girth_at (s : State) (q cls girth epoch kind dbuf src dst : Nat) (b : List Byte) (k : Nat) : (s.queueMsg q cls girth epoch kind dbuf src dst b).girth k = s.girth k := by simp only [State.girth, State.queueMsg_girths]
@[simp] theorem State.queueMsg_tile_at (s : State) (q cls girth epoch kind dbuf src dst : Nat) (b : List Byte) (k : Nat) : (s.queueMsg q cls girth epoch kind dbuf src dst b).tile k = s.tile k := by simp only [State.tile, State.queueMsg_tiles]
@[simp] theorem State.queueMsg_arr_at (s : State) (q cls girth epoch kind dbuf src dst : Nat) (b : List Byte) (k : Nat) : (s.queueMsg q cls girth epoch kind dbuf src dst b).arr k = s.arr k := by simp only [State.arr, State.queueMsg_arrays]
@[simp] theorem State.queueMsg_cluster_at (s : State) (q cls girth epoch kind dbuf src dst : Nat) (b : List Byte) (k : Nat) : (s.queueMsg q cls girth epoch kind dbuf src dst b).cluster k = s.cluster k := by simp only [State.cluster, State.queueMsg_clusters]
@[simp] theorem State.queueMsg_entry_at (s : State) (q cls girth epoch kind dbuf src dst : Nat) (b : List Byte) (k : Nat) : (s.queueMsg q cls girth epoch kind dbuf src dst b).entry k = s.entry k := by simp only [State.entry, State.queueMsg_ledger]
@[simp] theorem State.queueMsg_extn_at (s : State) (q cls girth epoch kind dbuf src dst : Nat) (b : List Byte) (k : Nat) : (s.queueMsg q cls girth epoch kind dbuf src dst b).extn k = s.extn k := by simp only [State.extn, State.queueMsg_ext]
@[simp] theorem State.queueMsg_repair_at (s : State) (q cls girth epoch kind dbuf src dst : Nat) (b : List Byte) (k : Nat) : (s.queueMsg q cls girth epoch kind dbuf src dst b).repair k = s.repair k := by simp only [State.repair, State.repairMap, State.queueMsg_store]

/-! ### girthMsg -/

@[simp] theorem State.girthMsg_pending (s : State) (p q cls kind dbuf dst : Nat) (b : List Byte) : (s.girthMsg p q cls kind dbuf dst b).pending = s.pending := by simp only [State.girthMsg]; split <;> simp
@[simp] theorem State.girthMsg_free (s : State) (p q cls kind dbuf dst : Nat) (b : List Byte) : (s.girthMsg p q cls kind dbuf dst b).free = s.free := by simp only [State.girthMsg]; split <;> simp
@[simp] theorem State.girthMsg_tick (s : State) (p q cls kind dbuf dst : Nat) (b : List Byte) : (s.girthMsg p q cls kind dbuf dst b).tick = s.tick := by simp only [State.girthMsg]; split <;> simp
@[simp] theorem State.girthMsg_host (s : State) (p q cls kind dbuf dst : Nat) (b : List Byte) : (s.girthMsg p q cls kind dbuf dst b).host = s.host := by simp only [State.girthMsg]; split <;> simp
@[simp] theorem State.girthMsg_ev (s : State) (p q cls kind dbuf dst : Nat) (b : List Byte) : (s.girthMsg p q cls kind dbuf dst b).ev = s.ev := by simp only [State.girthMsg]; split <;> simp
@[simp] theorem State.girthMsg_ledger (s : State) (p q cls kind dbuf dst : Nat) (b : List Byte) : (s.girthMsg p q cls kind dbuf dst b).ledger = s.ledger := by simp only [State.girthMsg]; split <;> simp
@[simp] theorem State.girthMsg_ext (s : State) (p q cls kind dbuf dst : Nat) (b : List Byte) : (s.girthMsg p q cls kind dbuf dst b).ext = s.ext := by simp only [State.girthMsg]; split <;> simp
@[simp] theorem State.girthMsg_wear (s : State) (p q cls kind dbuf dst : Nat) (b : List Byte) : (s.girthMsg p q cls kind dbuf dst b).wear = s.wear := by simp only [State.girthMsg]; split <;> simp
@[simp] theorem State.girthMsg_parts (s : State) (p q cls kind dbuf dst : Nat) (b : List Byte) : (s.girthMsg p q cls kind dbuf dst b).parts = s.parts := by simp only [State.girthMsg]; split <;> simp
@[simp] theorem State.girthMsg_girths (s : State) (p q cls kind dbuf dst : Nat) (b : List Byte) : (s.girthMsg p q cls kind dbuf dst b).girths = s.girths := by simp only [State.girthMsg]; split <;> simp
@[simp] theorem State.girthMsg_tiles (s : State) (p q cls kind dbuf dst : Nat) (b : List Byte) : (s.girthMsg p q cls kind dbuf dst b).tiles = s.tiles := by simp only [State.girthMsg]; split <;> simp
@[simp] theorem State.girthMsg_arrays (s : State) (p q cls kind dbuf dst : Nat) (b : List Byte) : (s.girthMsg p q cls kind dbuf dst b).arrays = s.arrays := by simp only [State.girthMsg]; split <;> simp
@[simp] theorem State.girthMsg_clusters (s : State) (p q cls kind dbuf dst : Nat) (b : List Byte) : (s.girthMsg p q cls kind dbuf dst b).clusters = s.clusters := by simp only [State.girthMsg]; split <;> simp
@[simp] theorem State.girthMsg_fabric (s : State) (p q cls kind dbuf dst : Nat) (b : List Byte) : (s.girthMsg p q cls kind dbuf dst b).fabric = s.fabric := by simp only [State.girthMsg]; split <;> simp
@[simp] theorem State.girthMsg_mesh (s : State) (p q cls kind dbuf dst : Nat) (b : List Byte) : (s.girthMsg p q cls kind dbuf dst b).mesh = s.mesh := by simp only [State.girthMsg]; split <;> simp
@[simp] theorem State.girthMsg_kvWr (s : State) (p q cls kind dbuf dst : Nat) (b : List Byte) : (s.girthMsg p q cls kind dbuf dst b).kvWr = s.kvWr := by simp only [State.girthMsg]; split <;> simp
@[simp] theorem State.girthMsg_spill (s : State) (p q cls kind dbuf dst : Nat) (b : List Byte) : (s.girthMsg p q cls kind dbuf dst b).spill = s.spill := by simp only [State.girthMsg]; split <;> simp
@[simp] theorem State.girthMsg_kv (s : State) (p q cls kind dbuf dst : Nat) (b : List Byte) : (s.girthMsg p q cls kind dbuf dst b).kv = s.kv := by simp only [State.girthMsg]; split <;> simp
@[simp] theorem State.girthMsg_staging (s : State) (p q cls kind dbuf dst : Nat) (b : List Byte) : (s.girthMsg p q cls kind dbuf dst b).staging = s.staging := by simp only [State.girthMsg]; split <;> simp
@[simp] theorem State.girthMsg_stackCopy (s : State) (p q cls kind dbuf dst : Nat) (b : List Byte) : (s.girthMsg p q cls kind dbuf dst b).stackCopy = s.stackCopy := by simp only [State.girthMsg]; split <;> simp
@[simp] theorem State.girthMsg_sums (s : State) (p q cls kind dbuf dst : Nat) (b : List Byte) : (s.girthMsg p q cls kind dbuf dst b).sums = s.sums := by simp only [State.girthMsg]; split <;> simp
@[simp] theorem State.girthMsg_shards (s : State) (p q cls kind dbuf dst : Nat) (b : List Byte) : (s.girthMsg p q cls kind dbuf dst b).shards = s.shards := by simp only [State.girthMsg]; split <;> simp
@[simp] theorem State.girthMsg_store (s : State) (p q cls kind dbuf dst : Nat) (b : List Byte) : (s.girthMsg p q cls kind dbuf dst b).store = s.store := by simp only [State.girthMsg]; split <;> simp
@[simp] theorem State.girthMsg_hk (s : State) (p q cls kind dbuf dst : Nat) (b : List Byte) : (s.girthMsg p q cls kind dbuf dst b).hk = s.hk := by simp only [State.girthMsg]; split <;> simp
@[simp] theorem State.girthMsg_pwr (s : State) (p q cls kind dbuf dst : Nat) (b : List Byte) : (s.girthMsg p q cls kind dbuf dst b).pwr = s.pwr := by simp only [State.girthMsg]; split <;> simp
@[simp] theorem State.girthMsg_sec (s : State) (p q cls kind dbuf dst : Nat) (b : List Byte) : (s.girthMsg p q cls kind dbuf dst b).sec = s.sec := by simp only [State.girthMsg]; split <;> simp
@[simp] theorem State.girthMsg_ring_at (s : State) (p q cls kind dbuf dst : Nat) (b : List Byte) (k : Nat) : (s.girthMsg p q cls kind dbuf dst b).ring k = s.ring k := by simp only [State.ring, State.girthMsg_host]
@[simp] theorem State.girthMsg_mbx_at (s : State) (p q cls kind dbuf dst : Nat) (b : List Byte) (k : Nat) : (s.girthMsg p q cls kind dbuf dst b).mbx k = s.mbx k := by simp only [State.mbx, State.girthMsg_host]
@[simp] theorem State.girthMsg_part_at (s : State) (p q cls kind dbuf dst : Nat) (b : List Byte) (k : Nat) : (s.girthMsg p q cls kind dbuf dst b).part k = s.part k := by simp only [State.part, State.girthMsg_parts]
@[simp] theorem State.girthMsg_girth_at (s : State) (p q cls kind dbuf dst : Nat) (b : List Byte) (k : Nat) : (s.girthMsg p q cls kind dbuf dst b).girth k = s.girth k := by simp only [State.girth, State.girthMsg_girths]
@[simp] theorem State.girthMsg_tile_at (s : State) (p q cls kind dbuf dst : Nat) (b : List Byte) (k : Nat) : (s.girthMsg p q cls kind dbuf dst b).tile k = s.tile k := by simp only [State.tile, State.girthMsg_tiles]
@[simp] theorem State.girthMsg_arr_at (s : State) (p q cls kind dbuf dst : Nat) (b : List Byte) (k : Nat) : (s.girthMsg p q cls kind dbuf dst b).arr k = s.arr k := by simp only [State.arr, State.girthMsg_arrays]
@[simp] theorem State.girthMsg_cluster_at (s : State) (p q cls kind dbuf dst : Nat) (b : List Byte) (k : Nat) : (s.girthMsg p q cls kind dbuf dst b).cluster k = s.cluster k := by simp only [State.cluster, State.girthMsg_clusters]
@[simp] theorem State.girthMsg_entry_at (s : State) (p q cls kind dbuf dst : Nat) (b : List Byte) (k : Nat) : (s.girthMsg p q cls kind dbuf dst b).entry k = s.entry k := by simp only [State.entry, State.girthMsg_ledger]
@[simp] theorem State.girthMsg_extn_at (s : State) (p q cls kind dbuf dst : Nat) (b : List Byte) (k : Nat) : (s.girthMsg p q cls kind dbuf dst b).extn k = s.extn k := by simp only [State.extn, State.girthMsg_ext]
@[simp] theorem State.girthMsg_repair_at (s : State) (p q cls kind dbuf dst : Nat) (b : List Byte) (k : Nat) : (s.girthMsg p q cls kind dbuf dst b).repair k = s.repair k := by simp only [State.repair, State.repairMap, State.girthMsg_store]

/-! ### sendFree -/

@[simp] theorem State.sendFree_pending (s : State) (p : Nat) (o : Out) (cls kind : Nat) (qs : List Nat) : (s.sendFree p o cls kind qs).pending = s.pending := by simp only [State.sendFree]; refine (State.foldl_keeps (·.pending) _ ?_ _ _).trans rfl; intros; simp
@[simp] theorem State.sendFree_free (s : State) (p : Nat) (o : Out) (cls kind : Nat) (qs : List Nat) : (s.sendFree p o cls kind qs).free = s.free := by simp only [State.sendFree]; refine (State.foldl_keeps (·.free) _ ?_ _ _).trans rfl; intros; simp
@[simp] theorem State.sendFree_tick (s : State) (p : Nat) (o : Out) (cls kind : Nat) (qs : List Nat) : (s.sendFree p o cls kind qs).tick = s.tick := by simp only [State.sendFree]; refine (State.foldl_keeps (·.tick) _ ?_ _ _).trans rfl; intros; simp
@[simp] theorem State.sendFree_host (s : State) (p : Nat) (o : Out) (cls kind : Nat) (qs : List Nat) : (s.sendFree p o cls kind qs).host = s.host := by simp only [State.sendFree]; refine (State.foldl_keeps (·.host) _ ?_ _ _).trans rfl; intros; simp
@[simp] theorem State.sendFree_ev (s : State) (p : Nat) (o : Out) (cls kind : Nat) (qs : List Nat) : (s.sendFree p o cls kind qs).ev = s.ev := by simp only [State.sendFree]; refine (State.foldl_keeps (·.ev) _ ?_ _ _).trans rfl; intros; simp
@[simp] theorem State.sendFree_ledger (s : State) (p : Nat) (o : Out) (cls kind : Nat) (qs : List Nat) : (s.sendFree p o cls kind qs).ledger = s.ledger := by simp only [State.sendFree]; refine (State.foldl_keeps (·.ledger) _ ?_ _ _).trans rfl; intros; simp
@[simp] theorem State.sendFree_ext (s : State) (p : Nat) (o : Out) (cls kind : Nat) (qs : List Nat) : (s.sendFree p o cls kind qs).ext = s.ext := by simp only [State.sendFree]; refine (State.foldl_keeps (·.ext) _ ?_ _ _).trans rfl; intros; simp
@[simp] theorem State.sendFree_wear (s : State) (p : Nat) (o : Out) (cls kind : Nat) (qs : List Nat) : (s.sendFree p o cls kind qs).wear = s.wear := by simp only [State.sendFree]; refine (State.foldl_keeps (·.wear) _ ?_ _ _).trans rfl; intros; simp
@[simp] theorem State.sendFree_parts (s : State) (p : Nat) (o : Out) (cls kind : Nat) (qs : List Nat) : (s.sendFree p o cls kind qs).parts = s.parts := by simp only [State.sendFree]; refine (State.foldl_keeps (·.parts) _ ?_ _ _).trans rfl; intros; simp
@[simp] theorem State.sendFree_girths (s : State) (p : Nat) (o : Out) (cls kind : Nat) (qs : List Nat) : (s.sendFree p o cls kind qs).girths = s.girths := by simp only [State.sendFree]; refine (State.foldl_keeps (·.girths) _ ?_ _ _).trans rfl; intros; simp
@[simp] theorem State.sendFree_tiles (s : State) (p : Nat) (o : Out) (cls kind : Nat) (qs : List Nat) : (s.sendFree p o cls kind qs).tiles = s.tiles := by simp only [State.sendFree]; refine (State.foldl_keeps (·.tiles) _ ?_ _ _).trans rfl; intros; simp
@[simp] theorem State.sendFree_arrays (s : State) (p : Nat) (o : Out) (cls kind : Nat) (qs : List Nat) : (s.sendFree p o cls kind qs).arrays = s.arrays := by simp only [State.sendFree]; refine (State.foldl_keeps (·.arrays) _ ?_ _ _).trans rfl; intros; simp
@[simp] theorem State.sendFree_clusters (s : State) (p : Nat) (o : Out) (cls kind : Nat) (qs : List Nat) : (s.sendFree p o cls kind qs).clusters = s.clusters := by simp only [State.sendFree]; refine (State.foldl_keeps (·.clusters) _ ?_ _ _).trans rfl; intros; simp
@[simp] theorem State.sendFree_fabric (s : State) (p : Nat) (o : Out) (cls kind : Nat) (qs : List Nat) : (s.sendFree p o cls kind qs).fabric = s.fabric := by simp only [State.sendFree]; refine (State.foldl_keeps (·.fabric) _ ?_ _ _).trans rfl; intros; simp
@[simp] theorem State.sendFree_mesh (s : State) (p : Nat) (o : Out) (cls kind : Nat) (qs : List Nat) : (s.sendFree p o cls kind qs).mesh = s.mesh := by simp only [State.sendFree]; refine (State.foldl_keeps (·.mesh) _ ?_ _ _).trans rfl; intros; simp
@[simp] theorem State.sendFree_kvWr (s : State) (p : Nat) (o : Out) (cls kind : Nat) (qs : List Nat) : (s.sendFree p o cls kind qs).kvWr = s.kvWr := by simp only [State.sendFree]; refine (State.foldl_keeps (·.kvWr) _ ?_ _ _).trans rfl; intros; simp
@[simp] theorem State.sendFree_spill (s : State) (p : Nat) (o : Out) (cls kind : Nat) (qs : List Nat) : (s.sendFree p o cls kind qs).spill = s.spill := by simp only [State.sendFree]; refine (State.foldl_keeps (·.spill) _ ?_ _ _).trans rfl; intros; simp
@[simp] theorem State.sendFree_kv (s : State) (p : Nat) (o : Out) (cls kind : Nat) (qs : List Nat) : (s.sendFree p o cls kind qs).kv = s.kv := by simp only [State.sendFree]; refine (State.foldl_keeps (·.kv) _ ?_ _ _).trans rfl; intros; simp
@[simp] theorem State.sendFree_staging (s : State) (p : Nat) (o : Out) (cls kind : Nat) (qs : List Nat) : (s.sendFree p o cls kind qs).staging = s.staging := by simp only [State.sendFree]; refine (State.foldl_keeps (·.staging) _ ?_ _ _).trans rfl; intros; simp
@[simp] theorem State.sendFree_stackCopy (s : State) (p : Nat) (o : Out) (cls kind : Nat) (qs : List Nat) : (s.sendFree p o cls kind qs).stackCopy = s.stackCopy := by simp only [State.sendFree]; refine (State.foldl_keeps (·.stackCopy) _ ?_ _ _).trans rfl; intros; simp
@[simp] theorem State.sendFree_sums (s : State) (p : Nat) (o : Out) (cls kind : Nat) (qs : List Nat) : (s.sendFree p o cls kind qs).sums = s.sums := by simp only [State.sendFree]; refine (State.foldl_keeps (·.sums) _ ?_ _ _).trans rfl; intros; simp
@[simp] theorem State.sendFree_shards (s : State) (p : Nat) (o : Out) (cls kind : Nat) (qs : List Nat) : (s.sendFree p o cls kind qs).shards = s.shards := by simp only [State.sendFree]; refine (State.foldl_keeps (·.shards) _ ?_ _ _).trans rfl; intros; simp
@[simp] theorem State.sendFree_store (s : State) (p : Nat) (o : Out) (cls kind : Nat) (qs : List Nat) : (s.sendFree p o cls kind qs).store = s.store := by simp only [State.sendFree]; refine (State.foldl_keeps (·.store) _ ?_ _ _).trans rfl; intros; simp
@[simp] theorem State.sendFree_hk (s : State) (p : Nat) (o : Out) (cls kind : Nat) (qs : List Nat) : (s.sendFree p o cls kind qs).hk = s.hk := by simp only [State.sendFree]; refine (State.foldl_keeps (·.hk) _ ?_ _ _).trans rfl; intros; simp
@[simp] theorem State.sendFree_pwr (s : State) (p : Nat) (o : Out) (cls kind : Nat) (qs : List Nat) : (s.sendFree p o cls kind qs).pwr = s.pwr := by simp only [State.sendFree]; refine (State.foldl_keeps (·.pwr) _ ?_ _ _).trans rfl; intros; simp
@[simp] theorem State.sendFree_sec (s : State) (p : Nat) (o : Out) (cls kind : Nat) (qs : List Nat) : (s.sendFree p o cls kind qs).sec = s.sec := by simp only [State.sendFree]; refine (State.foldl_keeps (·.sec) _ ?_ _ _).trans rfl; intros; simp
@[simp] theorem State.sendFree_ring_at (s : State) (p : Nat) (o : Out) (cls kind : Nat) (qs : List Nat) (k : Nat) : (s.sendFree p o cls kind qs).ring k = s.ring k := by simp only [State.ring, State.sendFree_host]
@[simp] theorem State.sendFree_mbx_at (s : State) (p : Nat) (o : Out) (cls kind : Nat) (qs : List Nat) (k : Nat) : (s.sendFree p o cls kind qs).mbx k = s.mbx k := by simp only [State.mbx, State.sendFree_host]
@[simp] theorem State.sendFree_part_at (s : State) (p : Nat) (o : Out) (cls kind : Nat) (qs : List Nat) (k : Nat) : (s.sendFree p o cls kind qs).part k = s.part k := by simp only [State.part, State.sendFree_parts]
@[simp] theorem State.sendFree_girth_at (s : State) (p : Nat) (o : Out) (cls kind : Nat) (qs : List Nat) (k : Nat) : (s.sendFree p o cls kind qs).girth k = s.girth k := by simp only [State.girth, State.sendFree_girths]
@[simp] theorem State.sendFree_tile_at (s : State) (p : Nat) (o : Out) (cls kind : Nat) (qs : List Nat) (k : Nat) : (s.sendFree p o cls kind qs).tile k = s.tile k := by simp only [State.tile, State.sendFree_tiles]
@[simp] theorem State.sendFree_arr_at (s : State) (p : Nat) (o : Out) (cls kind : Nat) (qs : List Nat) (k : Nat) : (s.sendFree p o cls kind qs).arr k = s.arr k := by simp only [State.arr, State.sendFree_arrays]
@[simp] theorem State.sendFree_cluster_at (s : State) (p : Nat) (o : Out) (cls kind : Nat) (qs : List Nat) (k : Nat) : (s.sendFree p o cls kind qs).cluster k = s.cluster k := by simp only [State.cluster, State.sendFree_clusters]
@[simp] theorem State.sendFree_entry_at (s : State) (p : Nat) (o : Out) (cls kind : Nat) (qs : List Nat) (k : Nat) : (s.sendFree p o cls kind qs).entry k = s.entry k := by simp only [State.entry, State.sendFree_ledger]
@[simp] theorem State.sendFree_extn_at (s : State) (p : Nat) (o : Out) (cls kind : Nat) (qs : List Nat) (k : Nat) : (s.sendFree p o cls kind qs).extn k = s.extn k := by simp only [State.extn, State.sendFree_ext]
@[simp] theorem State.sendFree_repair_at (s : State) (p : Nat) (o : Out) (cls kind : Nat) (qs : List Nat) (k : Nat) : (s.sendFree p o cls kind qs).repair k = s.repair k := by simp only [State.repair, State.repairMap, State.sendFree_store]

/-! ### rein -/

@[simp] theorem State.rein_pending (s : State) (p : Nat) (m : Rein) : (s.rein p m).pending = s.pending := by simp only [State.rein]; exact State.sendFree_pending ..
@[simp] theorem State.rein_free (s : State) (p : Nat) (m : Rein) : (s.rein p m).free = s.free := by simp only [State.rein]; exact State.sendFree_free ..
@[simp] theorem State.rein_tick (s : State) (p : Nat) (m : Rein) : (s.rein p m).tick = s.tick := by simp only [State.rein]; exact State.sendFree_tick ..
@[simp] theorem State.rein_host (s : State) (p : Nat) (m : Rein) : (s.rein p m).host = s.host := by simp only [State.rein]; exact State.sendFree_host ..
@[simp] theorem State.rein_ev (s : State) (p : Nat) (m : Rein) : (s.rein p m).ev = s.ev := by simp only [State.rein]; exact State.sendFree_ev ..
@[simp] theorem State.rein_ledger (s : State) (p : Nat) (m : Rein) : (s.rein p m).ledger = s.ledger := by simp only [State.rein]; exact State.sendFree_ledger ..
@[simp] theorem State.rein_ext (s : State) (p : Nat) (m : Rein) : (s.rein p m).ext = s.ext := by simp only [State.rein]; exact State.sendFree_ext ..
@[simp] theorem State.rein_wear (s : State) (p : Nat) (m : Rein) : (s.rein p m).wear = s.wear := by simp only [State.rein]; exact State.sendFree_wear ..
@[simp] theorem State.rein_parts (s : State) (p : Nat) (m : Rein) : (s.rein p m).parts = s.parts := by simp only [State.rein]; exact State.sendFree_parts ..
@[simp] theorem State.rein_girths (s : State) (p : Nat) (m : Rein) : (s.rein p m).girths = s.girths := by simp only [State.rein]; exact State.sendFree_girths ..
@[simp] theorem State.rein_tiles (s : State) (p : Nat) (m : Rein) : (s.rein p m).tiles = s.tiles := by simp only [State.rein]; exact State.sendFree_tiles ..
@[simp] theorem State.rein_arrays (s : State) (p : Nat) (m : Rein) : (s.rein p m).arrays = s.arrays := by simp only [State.rein]; exact State.sendFree_arrays ..
@[simp] theorem State.rein_clusters (s : State) (p : Nat) (m : Rein) : (s.rein p m).clusters = s.clusters := by simp only [State.rein]; exact State.sendFree_clusters ..
@[simp] theorem State.rein_fabric (s : State) (p : Nat) (m : Rein) : (s.rein p m).fabric = s.fabric := by simp only [State.rein]; exact State.sendFree_fabric ..
@[simp] theorem State.rein_mesh (s : State) (p : Nat) (m : Rein) : (s.rein p m).mesh = s.mesh := by simp only [State.rein]; exact State.sendFree_mesh ..
@[simp] theorem State.rein_kvWr (s : State) (p : Nat) (m : Rein) : (s.rein p m).kvWr = s.kvWr := by simp only [State.rein]; exact State.sendFree_kvWr ..
@[simp] theorem State.rein_spill (s : State) (p : Nat) (m : Rein) : (s.rein p m).spill = s.spill := by simp only [State.rein]; exact State.sendFree_spill ..
@[simp] theorem State.rein_kv (s : State) (p : Nat) (m : Rein) : (s.rein p m).kv = s.kv := by simp only [State.rein]; exact State.sendFree_kv ..
@[simp] theorem State.rein_staging (s : State) (p : Nat) (m : Rein) : (s.rein p m).staging = s.staging := by simp only [State.rein]; exact State.sendFree_staging ..
@[simp] theorem State.rein_stackCopy (s : State) (p : Nat) (m : Rein) : (s.rein p m).stackCopy = s.stackCopy := by simp only [State.rein]; exact State.sendFree_stackCopy ..
@[simp] theorem State.rein_sums (s : State) (p : Nat) (m : Rein) : (s.rein p m).sums = s.sums := by simp only [State.rein]; exact State.sendFree_sums ..
@[simp] theorem State.rein_shards (s : State) (p : Nat) (m : Rein) : (s.rein p m).shards = s.shards := by simp only [State.rein]; exact State.sendFree_shards ..
@[simp] theorem State.rein_store (s : State) (p : Nat) (m : Rein) : (s.rein p m).store = s.store := by simp only [State.rein]; exact State.sendFree_store ..
@[simp] theorem State.rein_hk (s : State) (p : Nat) (m : Rein) : (s.rein p m).hk = s.hk := by simp only [State.rein]; exact State.sendFree_hk ..
@[simp] theorem State.rein_pwr (s : State) (p : Nat) (m : Rein) : (s.rein p m).pwr = s.pwr := by simp only [State.rein]; exact State.sendFree_pwr ..
@[simp] theorem State.rein_sec (s : State) (p : Nat) (m : Rein) : (s.rein p m).sec = s.sec := by simp only [State.rein]; exact State.sendFree_sec ..
@[simp] theorem State.rein_ring_at (s : State) (p : Nat) (m : Rein) (k : Nat) : (s.rein p m).ring k = s.ring k := by simp only [State.ring, State.rein_host]
@[simp] theorem State.rein_mbx_at (s : State) (p : Nat) (m : Rein) (k : Nat) : (s.rein p m).mbx k = s.mbx k := by simp only [State.mbx, State.rein_host]
@[simp] theorem State.rein_part_at (s : State) (p : Nat) (m : Rein) (k : Nat) : (s.rein p m).part k = s.part k := by simp only [State.part, State.rein_parts]
@[simp] theorem State.rein_girth_at (s : State) (p : Nat) (m : Rein) (k : Nat) : (s.rein p m).girth k = s.girth k := by simp only [State.girth, State.rein_girths]
@[simp] theorem State.rein_tile_at (s : State) (p : Nat) (m : Rein) (k : Nat) : (s.rein p m).tile k = s.tile k := by simp only [State.tile, State.rein_tiles]
@[simp] theorem State.rein_arr_at (s : State) (p : Nat) (m : Rein) (k : Nat) : (s.rein p m).arr k = s.arr k := by simp only [State.arr, State.rein_arrays]
@[simp] theorem State.rein_cluster_at (s : State) (p : Nat) (m : Rein) (k : Nat) : (s.rein p m).cluster k = s.cluster k := by simp only [State.cluster, State.rein_clusters]
@[simp] theorem State.rein_entry_at (s : State) (p : Nat) (m : Rein) (k : Nat) : (s.rein p m).entry k = s.entry k := by simp only [State.entry, State.rein_ledger]
@[simp] theorem State.rein_extn_at (s : State) (p : Nat) (m : Rein) (k : Nat) : (s.rein p m).extn k = s.extn k := by simp only [State.extn, State.rein_ext]
@[simp] theorem State.rein_repair_at (s : State) (p : Nat) (m : Rein) (k : Nat) : (s.rein p m).repair k = s.repair k := by simp only [State.repair, State.repairMap, State.rein_store]

/-! ### reinUp -/

@[simp] theorem State.reinUp_pending (s : State) (p : Nat) (m : Rein) : (s.reinUp p m).pending = s.pending := by simp only [State.reinUp]; exact State.sendFree_pending ..
@[simp] theorem State.reinUp_free (s : State) (p : Nat) (m : Rein) : (s.reinUp p m).free = s.free := by simp only [State.reinUp]; exact State.sendFree_free ..
@[simp] theorem State.reinUp_tick (s : State) (p : Nat) (m : Rein) : (s.reinUp p m).tick = s.tick := by simp only [State.reinUp]; exact State.sendFree_tick ..
@[simp] theorem State.reinUp_host (s : State) (p : Nat) (m : Rein) : (s.reinUp p m).host = s.host := by simp only [State.reinUp]; exact State.sendFree_host ..
@[simp] theorem State.reinUp_ev (s : State) (p : Nat) (m : Rein) : (s.reinUp p m).ev = s.ev := by simp only [State.reinUp]; exact State.sendFree_ev ..
@[simp] theorem State.reinUp_ledger (s : State) (p : Nat) (m : Rein) : (s.reinUp p m).ledger = s.ledger := by simp only [State.reinUp]; exact State.sendFree_ledger ..
@[simp] theorem State.reinUp_ext (s : State) (p : Nat) (m : Rein) : (s.reinUp p m).ext = s.ext := by simp only [State.reinUp]; exact State.sendFree_ext ..
@[simp] theorem State.reinUp_wear (s : State) (p : Nat) (m : Rein) : (s.reinUp p m).wear = s.wear := by simp only [State.reinUp]; exact State.sendFree_wear ..
@[simp] theorem State.reinUp_parts (s : State) (p : Nat) (m : Rein) : (s.reinUp p m).parts = s.parts := by simp only [State.reinUp]; exact State.sendFree_parts ..
@[simp] theorem State.reinUp_girths (s : State) (p : Nat) (m : Rein) : (s.reinUp p m).girths = s.girths := by simp only [State.reinUp]; exact State.sendFree_girths ..
@[simp] theorem State.reinUp_tiles (s : State) (p : Nat) (m : Rein) : (s.reinUp p m).tiles = s.tiles := by simp only [State.reinUp]; exact State.sendFree_tiles ..
@[simp] theorem State.reinUp_arrays (s : State) (p : Nat) (m : Rein) : (s.reinUp p m).arrays = s.arrays := by simp only [State.reinUp]; exact State.sendFree_arrays ..
@[simp] theorem State.reinUp_clusters (s : State) (p : Nat) (m : Rein) : (s.reinUp p m).clusters = s.clusters := by simp only [State.reinUp]; exact State.sendFree_clusters ..
@[simp] theorem State.reinUp_fabric (s : State) (p : Nat) (m : Rein) : (s.reinUp p m).fabric = s.fabric := by simp only [State.reinUp]; exact State.sendFree_fabric ..
@[simp] theorem State.reinUp_mesh (s : State) (p : Nat) (m : Rein) : (s.reinUp p m).mesh = s.mesh := by simp only [State.reinUp]; exact State.sendFree_mesh ..
@[simp] theorem State.reinUp_kvWr (s : State) (p : Nat) (m : Rein) : (s.reinUp p m).kvWr = s.kvWr := by simp only [State.reinUp]; exact State.sendFree_kvWr ..
@[simp] theorem State.reinUp_spill (s : State) (p : Nat) (m : Rein) : (s.reinUp p m).spill = s.spill := by simp only [State.reinUp]; exact State.sendFree_spill ..
@[simp] theorem State.reinUp_kv (s : State) (p : Nat) (m : Rein) : (s.reinUp p m).kv = s.kv := by simp only [State.reinUp]; exact State.sendFree_kv ..
@[simp] theorem State.reinUp_staging (s : State) (p : Nat) (m : Rein) : (s.reinUp p m).staging = s.staging := by simp only [State.reinUp]; exact State.sendFree_staging ..
@[simp] theorem State.reinUp_stackCopy (s : State) (p : Nat) (m : Rein) : (s.reinUp p m).stackCopy = s.stackCopy := by simp only [State.reinUp]; exact State.sendFree_stackCopy ..
@[simp] theorem State.reinUp_sums (s : State) (p : Nat) (m : Rein) : (s.reinUp p m).sums = s.sums := by simp only [State.reinUp]; exact State.sendFree_sums ..
@[simp] theorem State.reinUp_shards (s : State) (p : Nat) (m : Rein) : (s.reinUp p m).shards = s.shards := by simp only [State.reinUp]; exact State.sendFree_shards ..
@[simp] theorem State.reinUp_store (s : State) (p : Nat) (m : Rein) : (s.reinUp p m).store = s.store := by simp only [State.reinUp]; exact State.sendFree_store ..
@[simp] theorem State.reinUp_hk (s : State) (p : Nat) (m : Rein) : (s.reinUp p m).hk = s.hk := by simp only [State.reinUp]; exact State.sendFree_hk ..
@[simp] theorem State.reinUp_pwr (s : State) (p : Nat) (m : Rein) : (s.reinUp p m).pwr = s.pwr := by simp only [State.reinUp]; exact State.sendFree_pwr ..
@[simp] theorem State.reinUp_sec (s : State) (p : Nat) (m : Rein) : (s.reinUp p m).sec = s.sec := by simp only [State.reinUp]; exact State.sendFree_sec ..
@[simp] theorem State.reinUp_ring_at (s : State) (p : Nat) (m : Rein) (k : Nat) : (s.reinUp p m).ring k = s.ring k := by simp only [State.ring, State.reinUp_host]
@[simp] theorem State.reinUp_mbx_at (s : State) (p : Nat) (m : Rein) (k : Nat) : (s.reinUp p m).mbx k = s.mbx k := by simp only [State.mbx, State.reinUp_host]
@[simp] theorem State.reinUp_part_at (s : State) (p : Nat) (m : Rein) (k : Nat) : (s.reinUp p m).part k = s.part k := by simp only [State.part, State.reinUp_parts]
@[simp] theorem State.reinUp_girth_at (s : State) (p : Nat) (m : Rein) (k : Nat) : (s.reinUp p m).girth k = s.girth k := by simp only [State.girth, State.reinUp_girths]
@[simp] theorem State.reinUp_tile_at (s : State) (p : Nat) (m : Rein) (k : Nat) : (s.reinUp p m).tile k = s.tile k := by simp only [State.tile, State.reinUp_tiles]
@[simp] theorem State.reinUp_arr_at (s : State) (p : Nat) (m : Rein) (k : Nat) : (s.reinUp p m).arr k = s.arr k := by simp only [State.arr, State.reinUp_arrays]
@[simp] theorem State.reinUp_cluster_at (s : State) (p : Nat) (m : Rein) (k : Nat) : (s.reinUp p m).cluster k = s.cluster k := by simp only [State.cluster, State.reinUp_clusters]
@[simp] theorem State.reinUp_entry_at (s : State) (p : Nat) (m : Rein) (k : Nat) : (s.reinUp p m).entry k = s.entry k := by simp only [State.entry, State.reinUp_ledger]
@[simp] theorem State.reinUp_extn_at (s : State) (p : Nat) (m : Rein) (k : Nat) : (s.reinUp p m).extn k = s.extn k := by simp only [State.extn, State.reinUp_ext]
@[simp] theorem State.reinUp_repair_at (s : State) (p : Nat) (m : Rein) (k : Nat) : (s.reinUp p m).repair k = s.repair k := by simp only [State.repair, State.repairMap, State.reinUp_store]

end Sys2Proof.Machine
end

