-- ==== Sys2Proof/Laws/Ops.lean ====
section
/-!
SUPPORT. What each shared operation can do, said once: the guards of units, a packet in turn, replies, events, register writes, and the
byte memories' remaining laws.
-/

namespace Sys2Proof.Machine

open Sys2Proof

/-! ### Guards of units -/

theorem guardUnit_next {ok : Bool} {s t : State} : guardUnit ok s = .next t ↔ ok = true ∧ t = s := by
  cases ok <;> simp [guardUnit, eq_comm]

theorem guardUnit_true (s : State) : guardUnit true s = .next s := rfl

theorem onTile_in {t : Nat} (h : t < 1024) (s : State) : onTile t s = .next s := by simp [onTile, guardUnit, h]
theorem onCluster_in {c : Nat} (h : c < 16) (s : State) : onCluster c s = .next s := by simp [onCluster, guardUnit, h]
theorem onPart_in {p : Nat} (h : p < 16) (s : State) : onPart p s = .next s := by simp [onPart, guardUnit, h]
theorem onPort_in {p : Nat} (h : p < 8) (s : State) : onPort p s = .next s := by simp [onPort, guardUnit, h]
theorem onBlock_in {b : Nat} (h : b < 17) (s : State) : onBlock b s = .next s := by simp [onBlock, guardUnit, h]
theorem onArray_in {a : Nat} (h : a < 65536) (s : State) : onArray a s = .next s := by simp [onArray, guardUnit, h]

/-! ### Packets -/

/-- The first packet of a block that does not wait is one of those fetched. -/
theorem State.nextOf_mem (s : State) (b : Nat) (l : List Fetched) (e : List Fetched) {c : Fetched} (h : s.nextOf b e l = some c) : c ∈ l := by
  induction l generalizing e with
  | nil => simp [State.nextOf] at h
  | cons f fs ih =>
    simp only [State.nextOf] at h
    split at h
    · cases h; exact List.mem_cons_self ..
    · exact List.mem_cons_of_mem _ (ih _ h)

/-- The packet taken up is one of those fetched, and it has the opcode. -/
theorem State.taken_mem {s : State} {b op : Nat} {c : Fetched} (h : s.taken b op = some c) : c ∈ s.host.fetched ∧ pktOp c.words = op := by
  simp only [State.taken] at h
  split at h
  · rename_i f hf
    cases h
    have := List.find?_some hf
    simp only [Bool.and_eq_true, decide_eq_true_eq] at this
    exact ⟨List.mem_of_find?_eq_some hf, this.2⟩
  · rw [Option.filter_eq_some_iff] at h
    exact ⟨State.nextOf_mem s b _ _ h.1, by simpa using h.2⟩

/-- A reply takes one packet from those fetched. -/
theorem dropFetched_length {src : CmdSrc} {w : List Nat} {l : List Fetched} {c : Fetched} (h : c ∈ l) (hs : c.src = src) (hw : c.words = w) :
    (dropFetched src w l).length < l.length := by
  induction l with
  | nil => cases h
  | cons f fs ih =>
    simp only [dropFetched]
    split
    · simp
    · rename_i hn
      rcases List.mem_cons.1 h with rfl | h
      · exact absurd ⟨hs, hw⟩ hn
      · have := ih h; simp only [List.length_cons]; omega

theorem State.dueVector_fetched (s : State) (v : Nat) : (s.dueVector v).host.fetched = s.host.fetched := by
  simp only [State.dueVector]; split <;> rfl

theorem State.raise_fetched (s : State) (code sev : Nat) (part : Option Nat) (lkind loc detail handle : Nat) :
    (s.raise code sev part lkind loc detail handle).host.fetched = s.host.fetched := by
  simp only [State.raise]; split <;> split <;> first | rfl | exact State.dueVector_fetched s 1

@[simp] theorem State.reply_fetched (s : State) (src : CmdSrc) (w : List Nat) (st : Nat) (res : List Nat) :
    (s.reply src w st res).host.fetched = dropFetched src w s.host.fetched := by
  cases src with
  | ring b => simp only [State.reply]; rfl
  | mbx m =>
    simp only [State.reply]
    split
    · rw [State.mbxReject, State.raise_fetched, State.noteBit_host]; rfl
    · rw [State.dueVector_fetched]; rfl

/-- The packet in turn is one of those fetched. -/
theorem State.InTurn.mem {s : State} {b op : Nat} {src : CmdSrc} {w : List Nat} (h : s.InTurn b op src w) :
    ∃ c ∈ s.host.fetched, s.taken b op = some c ∧ c.src = src ∧ c.words = w := by
  obtain ⟨_, _, hn, _⟩ := h
  cases hc : s.taken b op with
  | none => simp [hc] at hn
  | some c => simp [hc] at hn; exact ⟨c, (State.taken_mem hc).1, rfl, hn.1, hn.2⟩

/-- A packet in turn is carried out by its command's effect; one that the effect has not answered waits. -/
theorem command_inTurn {s : State} {b op : Nat} {src : CmdSrc} {w : List Nat} (h : s.InTurn b op src w) (f : CmdEffect) :
    command b op f s = .next (if (f src w s).host.fetched.length < s.host.fetched.length then f src w s else (f src w s).stallCmd src w) := by
  obtain ⟨c, _, hc, rfl, rfl⟩ := h.mem
  obtain ⟨hb, hs, _, hp⟩ := h
  simp [command, onBlock_in hb, hs, hc, hp]

/-- A packet in turn whose effect answers it. -/
theorem command_replies {s u : State} {b op st : Nat} {src : CmdSrc} {w res : List Nat} (h : s.InTurn b op src w) (f : CmdEffect)
    (hf : f src w s = u.reply src w st res) (hu : u.host.fetched = s.host.fetched) : command b op f s = .next (u.reply src w st res) := by
  obtain ⟨c, hm, _, hs, hw⟩ := h.mem
  rw [command_inTurn h f, hf, if_pos]
  rw [State.reply_fetched, hu]; exact dropFetched_length hm hs hw

theorem markRunning_length (src : CmdSrc) (w : List Nat) (l : List Fetched) : (markRunning src w l).length = l.length := by
  induction l with
  | nil => rfl
  | cons f fs ih => simp only [markRunning]; split <;> simp [ih]

/-- A packet in turn that goes on: its reply follows later. -/
theorem command_starts {s u : State} {b op : Nat} {src : CmdSrc} {w : List Nat} (h : s.InTurn b op src w) (f : CmdEffect)
    (hf : f src w s = u.startCmd src w) (hu : u.host.fetched = s.host.fetched) :
    command b op f s = .next ((u.startCmd src w).stallCmd src w) := by
  rw [command_inTurn h f, hf, if_neg]
  simp [State.startCmd, markRunning_length, hu]

/-- Every outcome of a command of a ring block that exists: the state as it was, a refusal of the packet, or the command's effect. -/
theorem command_cases {s : State} {b op : Nat} (hb : b < 17) (f : CmdEffect) :
    command b op f s = .next s ∨ ∃ c : Fetched, s.taken b op = some c ∧ pktOp c.words = op ∧
      ((packetOk c.src c.words = false ∧ command b op f s = .next (s.reply c.src c.words 0x04)) ∨
        (packetOk c.src c.words = true ∧ (command b op f s = .next (f c.src c.words s) ∨
          command b op f s = .next ((f c.src c.words s).stallCmd c.src c.words)))) := by
  cases hs : s.serves with
  | false => exact .inl (by simp [command, onBlock_in hb, hs])
  | true =>
    cases hc : s.taken b op with
    | none => exact .inl (by simp [command, onBlock_in hb, hs, hc])
    | some c =>
      refine .inr ⟨c, rfl, (State.taken_mem hc).2, ?_⟩
      cases hp : packetOk c.src c.words with
      | false => exact .inl ⟨rfl, by simp [command, onBlock_in hb, hs, hc, hp]⟩
      | true =>
        refine .inr ⟨rfl, ?_⟩
        by_cases hl : (f c.src c.words s).host.fetched.length < s.host.fetched.length
        · exact .inl (by simp [command, onBlock_in hb, hs, hc, hp, hl])
        · exact .inr (by simp [command, onBlock_in hb, hs, hc, hp, hl])

/-! ### What a message on the Luawin ports does -/

@[simp] theorem State.emitFlits_said (s : State) (q : Nat) (fs : List TxFlit) : (s.emitFlits q fs).said = s.said := by
  simp only [State.emitFlits]
  exact State.foldl_keeps State.said _ (fun s f => by simp [State.said, State.emit, Out.isFlit]) _ _

@[simp] theorem State.setPort_said (s : State) (q : Nat) (x : Port) : (s.setPort q x).said = s.said := rfl

@[simp] theorem State.pump_said (s : State) (q : Nat) : (s.pump q).said = s.said := by
  simp only [State.pump]; split <;> simp

@[simp] theorem State.queueMsg_said (s : State) (q cls girth epoch kind dbuf src dst : Nat) (b : List Byte) :
    (s.queueMsg q cls girth epoch kind dbuf src dst b).said = s.said := by
  simp only [State.queueMsg]; split <;> simp

@[simp] theorem State.girthMsg_said (s : State) (p q cls kind dbuf dst : Nat) (b : List Byte) : (s.girthMsg p q cls kind dbuf dst b).said = s.said := by
  simp only [State.girthMsg]; split <;> simp

/-- A message is said once, whatever ports carry it. -/
theorem State.sendFree_said (s : State) (p : Nat) (o : Out) (cls kind : Nat) (qs : List Nat) :
    (s.sendFree p o cls kind qs).said = (s.emit o).said := by
  simp only [State.sendFree]
  exact State.foldl_keeps State.said _ (fun s q => by simp) _ _

@[simp] theorem State.rein_said (s : State) (p : Nat) (m : Rein) : (s.rein p m).said = s.said ++ [.rein p m] := by
  rw [State.rein, State.sendFree_said]; simp [State.said, State.emit, Out.isFlit]

@[simp] theorem State.reinUp_said (s : State) (p : Nat) (m : Rein) : (s.reinUp p m).said = s.said ++ [.rein p m] := by
  rw [State.reinUp, State.sendFree_said]; simp [State.said, State.emit, Out.isFlit]

@[simp] theorem State.startCmd_said (s : State) (src : CmdSrc) (w : List Nat) : (s.startCmd src w).said = s.said := rfl
@[simp] theorem State.stallCmd_said (s : State) (src : CmdSrc) (w : List Nat) : (s.stallCmd src w).said = s.said := rfl
@[simp] theorem State.setGirth_said (s : State) (p : Nat) (x : Girth) : (s.setGirth p x).said = s.said := rfl
@[simp] theorem State.setPart_said (s : State) (p : Nat) (x : Part) : (s.setPart p x).said = s.said := rfl
@[simp] theorem State.setExt_said (s : State) (i : Nat) (x : Ext) : (s.setExt i x).said = s.said := rfl
@[simp] theorem State.setEntry_said (s : State) (i : Nat) (x : Entry) : (s.setEntry i x).said = s.said := rfl
@[simp] theorem State.setTile_said (s : State) (t : Nat) (x : Tile) : (s.setTile t x).said = s.said := rfl
@[simp] theorem State.setRing_said (s : State) (b : Nat) (x : Ring) : (s.setRing b x).said = s.said := rfl
@[simp] theorem State.busyMark_said (s : State) : s.busyMark.said = s.said := rfl

/-! ### Due vectors, events, replies and notices: what they leave as it was -/

@[simp] theorem State.dueVector_pending (s : State) (v : Nat) : (s.dueVector v).pending = s.pending := by simp only [State.dueVector]; split <;> rfl
@[simp] theorem State.dueVector_out (s : State) (v : Nat) : (s.dueVector v).out = s.out := by simp only [State.dueVector]; split <;> rfl
@[simp] theorem State.dueVector_free (s : State) (v : Nat) : (s.dueVector v).free = s.free := by simp only [State.dueVector]; split <;> rfl
@[simp] theorem State.dueVector_tick (s : State) (v : Nat) : (s.dueVector v).tick = s.tick := by simp only [State.dueVector]; split <;> rfl
@[simp] theorem State.dueVector_ev (s : State) (v : Nat) : (s.dueVector v).ev = s.ev := by simp only [State.dueVector]; split <;> rfl
@[simp] theorem State.dueVector_ledger (s : State) (v : Nat) : (s.dueVector v).ledger = s.ledger := by simp only [State.dueVector]; split <;> rfl
@[simp] theorem State.dueVector_ext (s : State) (v : Nat) : (s.dueVector v).ext = s.ext := by simp only [State.dueVector]; split <;> rfl
@[simp] theorem State.dueVector_wear (s : State) (v : Nat) : (s.dueVector v).wear = s.wear := by simp only [State.dueVector]; split <;> rfl
@[simp] theorem State.dueVector_parts (s : State) (v : Nat) : (s.dueVector v).parts = s.parts := by simp only [State.dueVector]; split <;> rfl
@[simp] theorem State.dueVector_girths (s : State) (v : Nat) : (s.dueVector v).girths = s.girths := by simp only [State.dueVector]; split <;> rfl
@[simp] theorem State.dueVector_ports (s : State) (v : Nat) : (s.dueVector v).ports = s.ports := by simp only [State.dueVector]; split <;> rfl
@[simp] theorem State.dueVector_tiles (s : State) (v : Nat) : (s.dueVector v).tiles = s.tiles := by simp only [State.dueVector]; split <;> rfl
@[simp] theorem State.dueVector_arrays (s : State) (v : Nat) : (s.dueVector v).arrays = s.arrays := by simp only [State.dueVector]; split <;> rfl
@[simp] theorem State.dueVector_clusters (s : State) (v : Nat) : (s.dueVector v).clusters = s.clusters := by simp only [State.dueVector]; split <;> rfl
@[simp] theorem State.dueVector_fabric (s : State) (v : Nat) : (s.dueVector v).fabric = s.fabric := by simp only [State.dueVector]; split <;> rfl
@[simp] theorem State.dueVector_mesh (s : State) (v : Nat) : (s.dueVector v).mesh = s.mesh := by simp only [State.dueVector]; split <;> rfl
@[simp] theorem State.dueVector_kvWr (s : State) (v : Nat) : (s.dueVector v).kvWr = s.kvWr := by simp only [State.dueVector]; split <;> rfl
@[simp] theorem State.dueVector_sums (s : State) (v : Nat) : (s.dueVector v).sums = s.sums := by simp only [State.dueVector]; split <;> rfl
@[simp] theorem State.dueVector_spill (s : State) (v : Nat) : (s.dueVector v).spill = s.spill := by simp only [State.dueVector]; split <;> rfl
@[simp] theorem State.dueVector_kv (s : State) (v : Nat) : (s.dueVector v).kv = s.kv := by simp only [State.dueVector]; split <;> rfl
@[simp] theorem State.dueVector_staging (s : State) (v : Nat) : (s.dueVector v).staging = s.staging := by simp only [State.dueVector]; split <;> rfl
@[simp] theorem State.dueVector_stackCopy (s : State) (v : Nat) : (s.dueVector v).stackCopy = s.stackCopy := by simp only [State.dueVector]; split <;> rfl
@[simp] theorem State.dueVector_shards (s : State) (v : Nat) : (s.dueVector v).shards = s.shards := by simp only [State.dueVector]; split <;> rfl
@[simp] theorem State.dueVector_store (s : State) (v : Nat) : (s.dueVector v).store = s.store := by simp only [State.dueVector]; split <;> rfl
@[simp] theorem State.dueVector_hk (s : State) (v : Nat) : (s.dueVector v).hk = s.hk := by simp only [State.dueVector]; split <;> rfl
@[simp] theorem State.dueVector_pwr (s : State) (v : Nat) : (s.dueVector v).pwr = s.pwr := by simp only [State.dueVector]; split <;> rfl
@[simp] theorem State.dueVector_sec (s : State) (v : Nat) : (s.dueVector v).sec = s.sec := by simp only [State.dueVector]; split <;> rfl

@[simp] theorem State.raise_pending (s : State) (code sev : Nat) (part : Option Nat) (lkind loc detail handle : Nat) :
    (s.raise code sev part lkind loc detail handle).pending = s.pending := by
  simp only [State.raise]; split <;> split <;> first | rfl | exact State.dueVector_pending s 1
@[simp] theorem State.raise_out (s : State) (code sev : Nat) (part : Option Nat) (lkind loc detail handle : Nat) :
    (s.raise code sev part lkind loc detail handle).out = s.out := by
  simp only [State.raise]; split <;> split <;> first | rfl | exact State.dueVector_out s 1
@[simp] theorem State.raise_free (s : State) (code sev : Nat) (part : Option Nat) (lkind loc detail handle : Nat) :
    (s.raise code sev part lkind loc detail handle).free = s.free := by
  simp only [State.raise]; split <;> split <;> first | rfl | exact State.dueVector_free s 1
@[simp] theorem State.raise_tick (s : State) (code sev : Nat) (part : Option Nat) (lkind loc detail handle : Nat) :
    (s.raise code sev part lkind loc detail handle).tick = s.tick := by
  simp only [State.raise]; split <;> split <;> first | rfl | exact State.dueVector_tick s 1
@[simp] theorem State.raise_ledger (s : State) (code sev : Nat) (part : Option Nat) (lkind loc detail handle : Nat) :
    (s.raise code sev part lkind loc detail handle).ledger = s.ledger := by
  simp only [State.raise]; split <;> split <;> first | rfl | exact State.dueVector_ledger s 1
@[simp] theorem State.raise_ext (s : State) (code sev : Nat) (part : Option Nat) (lkind loc detail handle : Nat) :
    (s.raise code sev part lkind loc detail handle).ext = s.ext := by
  simp only [State.raise]; split <;> split <;> first | rfl | exact State.dueVector_ext s 1
@[simp] theorem State.raise_wear (s : State) (code sev : Nat) (part : Option Nat) (lkind loc detail handle : Nat) :
    (s.raise code sev part lkind loc detail handle).wear = s.wear := by
  simp only [State.raise]; split <;> split <;> first | rfl | exact State.dueVector_wear s 1
@[simp] theorem State.raise_parts (s : State) (code sev : Nat) (part : Option Nat) (lkind loc detail handle : Nat) :
    (s.raise code sev part lkind loc detail handle).parts = s.parts := by
  simp only [State.raise]; split <;> split <;> first | rfl | exact State.dueVector_parts s 1
@[simp] theorem State.raise_girths (s : State) (code sev : Nat) (part : Option Nat) (lkind loc detail handle : Nat) :
    (s.raise code sev part lkind loc detail handle).girths = s.girths := by
  simp only [State.raise]; split <;> split <;> first | rfl | exact State.dueVector_girths s 1
@[simp] theorem State.raise_ports (s : State) (code sev : Nat) (part : Option Nat) (lkind loc detail handle : Nat) :
    (s.raise code sev part lkind loc detail handle).ports = s.ports := by
  simp only [State.raise]; split <;> split <;> first | rfl | exact State.dueVector_ports s 1
@[simp] theorem State.raise_tiles (s : State) (code sev : Nat) (part : Option Nat) (lkind loc detail handle : Nat) :
    (s.raise code sev part lkind loc detail handle).tiles = s.tiles := by
  simp only [State.raise]; split <;> split <;> first | rfl | exact State.dueVector_tiles s 1
@[simp] theorem State.raise_arrays (s : State) (code sev : Nat) (part : Option Nat) (lkind loc detail handle : Nat) :
    (s.raise code sev part lkind loc detail handle).arrays = s.arrays := by
  simp only [State.raise]; split <;> split <;> first | rfl | exact State.dueVector_arrays s 1
@[simp] theorem State.raise_clusters (s : State) (code sev : Nat) (part : Option Nat) (lkind loc detail handle : Nat) :
    (s.raise code sev part lkind loc detail handle).clusters = s.clusters := by
  simp only [State.raise]; split <;> split <;> first | rfl | exact State.dueVector_clusters s 1
@[simp] theorem State.raise_fabric (s : State) (code sev : Nat) (part : Option Nat) (lkind loc detail handle : Nat) :
    (s.raise code sev part lkind loc detail handle).fabric = s.fabric := by
  simp only [State.raise]; split <;> split <;> first | rfl | exact State.dueVector_fabric s 1
@[simp] theorem State.raise_mesh (s : State) (code sev : Nat) (part : Option Nat) (lkind loc detail handle : Nat) :
    (s.raise code sev part lkind loc detail handle).mesh = s.mesh := by
  simp only [State.raise]; split <;> split <;> first | rfl | exact State.dueVector_mesh s 1
@[simp] theorem State.raise_kvWr (s : State) (code sev : Nat) (part : Option Nat) (lkind loc detail handle : Nat) :
    (s.raise code sev part lkind loc detail handle).kvWr = s.kvWr := by
  simp only [State.raise]; split <;> split <;> first | rfl | exact State.dueVector_kvWr s 1
@[simp] theorem State.raise_sums (s : State) (code sev : Nat) (part : Option Nat) (lkind loc detail handle : Nat) :
    (s.raise code sev part lkind loc detail handle).sums = s.sums := by
  simp only [State.raise]; split <;> split <;> first | rfl | exact State.dueVector_sums s 1
@[simp] theorem State.raise_spill (s : State) (code sev : Nat) (part : Option Nat) (lkind loc detail handle : Nat) :
    (s.raise code sev part lkind loc detail handle).spill = s.spill := by
  simp only [State.raise]; split <;> split <;> first | rfl | exact State.dueVector_spill s 1
@[simp] theorem State.raise_kv (s : State) (code sev : Nat) (part : Option Nat) (lkind loc detail handle : Nat) :
    (s.raise code sev part lkind loc detail handle).kv = s.kv := by
  simp only [State.raise]; split <;> split <;> first | rfl | exact State.dueVector_kv s 1
@[simp] theorem State.raise_staging (s : State) (code sev : Nat) (part : Option Nat) (lkind loc detail handle : Nat) :
    (s.raise code sev part lkind loc detail handle).staging = s.staging := by
  simp only [State.raise]; split <;> split <;> first | rfl | exact State.dueVector_staging s 1
@[simp] theorem State.raise_stackCopy (s : State) (code sev : Nat) (part : Option Nat) (lkind loc detail handle : Nat) :
    (s.raise code sev part lkind loc detail handle).stackCopy = s.stackCopy := by
  simp only [State.raise]; split <;> split <;> first | rfl | exact State.dueVector_stackCopy s 1
@[simp] theorem State.raise_shards (s : State) (code sev : Nat) (part : Option Nat) (lkind loc detail handle : Nat) :
    (s.raise code sev part lkind loc detail handle).shards = s.shards := by
  simp only [State.raise]; split <;> split <;> first | rfl | exact State.dueVector_shards s 1
@[simp] theorem State.raise_store (s : State) (code sev : Nat) (part : Option Nat) (lkind loc detail handle : Nat) :
    (s.raise code sev part lkind loc detail handle).store = s.store := by
  simp only [State.raise]; split <;> split <;> first | rfl | exact State.dueVector_store s 1
@[simp] theorem State.raise_hk (s : State) (code sev : Nat) (part : Option Nat) (lkind loc detail handle : Nat) :
    (s.raise code sev part lkind loc detail handle).hk = s.hk := by
  simp only [State.raise]; split <;> split <;> first | rfl | exact State.dueVector_hk s 1
@[simp] theorem State.raise_pwr (s : State) (code sev : Nat) (part : Option Nat) (lkind loc detail handle : Nat) :
    (s.raise code sev part lkind loc detail handle).pwr = s.pwr := by
  simp only [State.raise]; split <;> split <;> first | rfl | exact State.dueVector_pwr s 1
@[simp] theorem State.raise_sec (s : State) (code sev : Nat) (part : Option Nat) (lkind loc detail handle : Nat) :
    (s.raise code sev part lkind loc detail handle).sec = s.sec := by
  simp only [State.raise]; split <;> split <;> first | rfl | exact State.dueVector_sec s 1

@[simp] theorem State.reply_pending (s : State) (src : CmdSrc) (w : List Nat) (st : Nat) (res : List Nat) : (s.reply src w st res).pending = s.pending := by
  cases src <;> simp only [State.reply] <;> try split
  all_goals simp [State.mbxReject]
@[simp] theorem State.reply_out (s : State) (src : CmdSrc) (w : List Nat) (st : Nat) (res : List Nat) : (s.reply src w st res).out = s.out := by
  cases src <;> simp only [State.reply] <;> try split
  all_goals simp [State.mbxReject]
@[simp] theorem State.reply_free (s : State) (src : CmdSrc) (w : List Nat) (st : Nat) (res : List Nat) : (s.reply src w st res).free = s.free := by
  cases src <;> simp only [State.reply] <;> try split
  all_goals simp [State.mbxReject]
@[simp] theorem State.reply_tick (s : State) (src : CmdSrc) (w : List Nat) (st : Nat) (res : List Nat) : (s.reply src w st res).tick = s.tick := by
  cases src <;> simp only [State.reply] <;> try split
  all_goals simp [State.mbxReject]
@[simp] theorem State.reply_ledger (s : State) (src : CmdSrc) (w : List Nat) (st : Nat) (res : List Nat) : (s.reply src w st res).ledger = s.ledger := by
  cases src <;> simp only [State.reply] <;> try split
  all_goals simp [State.mbxReject]
@[simp] theorem State.reply_ext (s : State) (src : CmdSrc) (w : List Nat) (st : Nat) (res : List Nat) : (s.reply src w st res).ext = s.ext := by
  cases src <;> simp only [State.reply] <;> try split
  all_goals simp [State.mbxReject]
@[simp] theorem State.reply_wear (s : State) (src : CmdSrc) (w : List Nat) (st : Nat) (res : List Nat) : (s.reply src w st res).wear = s.wear := by
  cases src <;> simp only [State.reply] <;> try split
  all_goals simp [State.mbxReject]
@[simp] theorem State.reply_parts (s : State) (src : CmdSrc) (w : List Nat) (st : Nat) (res : List Nat) : (s.reply src w st res).parts = s.parts := by
  cases src <;> simp only [State.reply] <;> try split
  all_goals simp [State.mbxReject]
@[simp] theorem State.reply_girths (s : State) (src : CmdSrc) (w : List Nat) (st : Nat) (res : List Nat) : (s.reply src w st res).girths = s.girths := by
  cases src <;> simp only [State.reply] <;> try split
  all_goals simp [State.mbxReject]
@[simp] theorem State.reply_ports (s : State) (src : CmdSrc) (w : List Nat) (st : Nat) (res : List Nat) : (s.reply src w st res).ports = s.ports := by
  cases src <;> simp only [State.reply] <;> try split
  all_goals simp [State.mbxReject]
@[simp] theorem State.reply_tiles (s : State) (src : CmdSrc) (w : List Nat) (st : Nat) (res : List Nat) : (s.reply src w st res).tiles = s.tiles := by
  cases src <;> simp only [State.reply] <;> try split
  all_goals simp [State.mbxReject]
@[simp] theorem State.reply_arrays (s : State) (src : CmdSrc) (w : List Nat) (st : Nat) (res : List Nat) : (s.reply src w st res).arrays = s.arrays := by
  cases src <;> simp only [State.reply] <;> try split
  all_goals simp [State.mbxReject]
@[simp] theorem State.reply_clusters (s : State) (src : CmdSrc) (w : List Nat) (st : Nat) (res : List Nat) : (s.reply src w st res).clusters = s.clusters := by
  cases src <;> simp only [State.reply] <;> try split
  all_goals simp [State.mbxReject]
@[simp] theorem State.reply_fabric (s : State) (src : CmdSrc) (w : List Nat) (st : Nat) (res : List Nat) : (s.reply src w st res).fabric = s.fabric := by
  cases src <;> simp only [State.reply] <;> try split
  all_goals simp [State.mbxReject]
@[simp] theorem State.reply_mesh (s : State) (src : CmdSrc) (w : List Nat) (st : Nat) (res : List Nat) : (s.reply src w st res).mesh = s.mesh := by
  cases src <;> simp only [State.reply] <;> try split
  all_goals simp [State.mbxReject]
@[simp] theorem State.reply_kvWr (s : State) (src : CmdSrc) (w : List Nat) (st : Nat) (res : List Nat) : (s.reply src w st res).kvWr = s.kvWr := by
  cases src <;> simp only [State.reply] <;> try split
  all_goals simp [State.mbxReject]
@[simp] theorem State.reply_sums (s : State) (src : CmdSrc) (w : List Nat) (st : Nat) (res : List Nat) : (s.reply src w st res).sums = s.sums := by
  cases src <;> simp only [State.reply] <;> try split
  all_goals simp [State.mbxReject]
@[simp] theorem State.reply_spill (s : State) (src : CmdSrc) (w : List Nat) (st : Nat) (res : List Nat) : (s.reply src w st res).spill = s.spill := by
  cases src <;> simp only [State.reply] <;> try split
  all_goals simp [State.mbxReject]
@[simp] theorem State.reply_kv (s : State) (src : CmdSrc) (w : List Nat) (st : Nat) (res : List Nat) : (s.reply src w st res).kv = s.kv := by
  cases src <;> simp only [State.reply] <;> try split
  all_goals simp [State.mbxReject]
@[simp] theorem State.reply_staging (s : State) (src : CmdSrc) (w : List Nat) (st : Nat) (res : List Nat) : (s.reply src w st res).staging = s.staging := by
  cases src <;> simp only [State.reply] <;> try split
  all_goals simp [State.mbxReject]
@[simp] theorem State.reply_stackCopy (s : State) (src : CmdSrc) (w : List Nat) (st : Nat) (res : List Nat) : (s.reply src w st res).stackCopy = s.stackCopy := by
  cases src <;> simp only [State.reply] <;> try split
  all_goals simp [State.mbxReject]
@[simp] theorem State.reply_shards (s : State) (src : CmdSrc) (w : List Nat) (st : Nat) (res : List Nat) : (s.reply src w st res).shards = s.shards := by
  cases src <;> simp only [State.reply] <;> try split
  all_goals simp [State.mbxReject]
@[simp] theorem State.reply_store (s : State) (src : CmdSrc) (w : List Nat) (st : Nat) (res : List Nat) : (s.reply src w st res).store = s.store := by
  cases src <;> simp only [State.reply] <;> try split
  all_goals simp [State.mbxReject]
@[simp] theorem State.reply_hk (s : State) (src : CmdSrc) (w : List Nat) (st : Nat) (res : List Nat) : (s.reply src w st res).hk = s.hk := by
  cases src <;> simp only [State.reply] <;> try split
  all_goals simp [State.mbxReject]
@[simp] theorem State.reply_sec (s : State) (src : CmdSrc) (w : List Nat) (st : Nat) (res : List Nat) : (s.reply src w st res).sec = s.sec := by
  cases src <;> simp only [State.reply] <;> try split
  all_goals simp [State.mbxReject]

@[simp] theorem State.notice_pending (s : State) (p kind status tag : Nat) (res : List Nat) : (s.notice p kind status tag res).pending = s.pending := by
  simp only [State.notice]; split <;> simp
@[simp] theorem State.notice_out (s : State) (p kind status tag : Nat) (res : List Nat) : (s.notice p kind status tag res).out = s.out := by
  simp only [State.notice]; split <;> simp
@[simp] theorem State.notice_free (s : State) (p kind status tag : Nat) (res : List Nat) : (s.notice p kind status tag res).free = s.free := by
  simp only [State.notice]; split <;> simp
@[simp] theorem State.notice_tick (s : State) (p kind status tag : Nat) (res : List Nat) : (s.notice p kind status tag res).tick = s.tick := by
  simp only [State.notice]; split <;> simp
@[simp] theorem State.notice_ledger (s : State) (p kind status tag : Nat) (res : List Nat) : (s.notice p kind status tag res).ledger = s.ledger := by
  simp only [State.notice]; split <;> simp
@[simp] theorem State.notice_ext (s : State) (p kind status tag : Nat) (res : List Nat) : (s.notice p kind status tag res).ext = s.ext := by
  simp only [State.notice]; split <;> simp
@[simp] theorem State.notice_wear (s : State) (p kind status tag : Nat) (res : List Nat) : (s.notice p kind status tag res).wear = s.wear := by
  simp only [State.notice]; split <;> simp
@[simp] theorem State.notice_parts (s : State) (p kind status tag : Nat) (res : List Nat) : (s.notice p kind status tag res).parts = s.parts := by
  simp only [State.notice]; split <;> simp
@[simp] theorem State.notice_girths (s : State) (p kind status tag : Nat) (res : List Nat) : (s.notice p kind status tag res).girths = s.girths := by
  simp only [State.notice]; split <;> simp
@[simp] theorem State.notice_ports (s : State) (p kind status tag : Nat) (res : List Nat) : (s.notice p kind status tag res).ports = s.ports := by
  simp only [State.notice]; split <;> simp
@[simp] theorem State.notice_tiles (s : State) (p kind status tag : Nat) (res : List Nat) : (s.notice p kind status tag res).tiles = s.tiles := by
  simp only [State.notice]; split <;> simp
@[simp] theorem State.notice_arrays (s : State) (p kind status tag : Nat) (res : List Nat) : (s.notice p kind status tag res).arrays = s.arrays := by
  simp only [State.notice]; split <;> simp
@[simp] theorem State.notice_clusters (s : State) (p kind status tag : Nat) (res : List Nat) : (s.notice p kind status tag res).clusters = s.clusters := by
  simp only [State.notice]; split <;> simp
@[simp] theorem State.notice_fabric (s : State) (p kind status tag : Nat) (res : List Nat) : (s.notice p kind status tag res).fabric = s.fabric := by
  simp only [State.notice]; split <;> simp
@[simp] theorem State.notice_mesh (s : State) (p kind status tag : Nat) (res : List Nat) : (s.notice p kind status tag res).mesh = s.mesh := by
  simp only [State.notice]; split <;> simp
@[simp] theorem State.notice_kvWr (s : State) (p kind status tag : Nat) (res : List Nat) : (s.notice p kind status tag res).kvWr = s.kvWr := by
  simp only [State.notice]; split <;> simp
@[simp] theorem State.notice_sums (s : State) (p kind status tag : Nat) (res : List Nat) : (s.notice p kind status tag res).sums = s.sums := by
  simp only [State.notice]; split <;> simp
@[simp] theorem State.notice_spill (s : State) (p kind status tag : Nat) (res : List Nat) : (s.notice p kind status tag res).spill = s.spill := by
  simp only [State.notice]; split <;> simp
@[simp] theorem State.notice_kv (s : State) (p kind status tag : Nat) (res : List Nat) : (s.notice p kind status tag res).kv = s.kv := by
  simp only [State.notice]; split <;> simp
@[simp] theorem State.notice_staging (s : State) (p kind status tag : Nat) (res : List Nat) : (s.notice p kind status tag res).staging = s.staging := by
  simp only [State.notice]; split <;> simp
@[simp] theorem State.notice_stackCopy (s : State) (p kind status tag : Nat) (res : List Nat) : (s.notice p kind status tag res).stackCopy = s.stackCopy := by
  simp only [State.notice]; split <;> simp
@[simp] theorem State.notice_shards (s : State) (p kind status tag : Nat) (res : List Nat) : (s.notice p kind status tag res).shards = s.shards := by
  simp only [State.notice]; split <;> simp
@[simp] theorem State.notice_store (s : State) (p kind status tag : Nat) (res : List Nat) : (s.notice p kind status tag res).store = s.store := by
  simp only [State.notice]; split <;> simp
@[simp] theorem State.notice_hk (s : State) (p kind status tag : Nat) (res : List Nat) : (s.notice p kind status tag res).hk = s.hk := by
  simp only [State.notice]; split <;> simp
@[simp] theorem State.notice_pwr (s : State) (p kind status tag : Nat) (res : List Nat) : (s.notice p kind status tag res).pwr = s.pwr := by
  simp only [State.notice]; split <;> simp
@[simp] theorem State.notice_sec (s : State) (p kind status tag : Nat) (res : List Nat) : (s.notice p kind status tag res).sec = s.sec := by
  simp only [State.notice]; split <;> simp

/-- A reply to a ring goes to the end of that ring's waiting entries. -/
theorem State.reply_cqWait (s : State) (b : Nat) (w : List Nat) (st : Nat) (res : List Nat) :
    ((s.reply (.ring b) w st res).ring b).cqWait = (s.ring b).cqWait ++ [replyEntry w st res] := by
  simp only [State.reply, State.setRing_same]; rfl

/-! ### Registers -/

/-- A write that reaches its register acts on the state that the access has taken out of REST. -/
theorem State.onWrite_reaches {s : State} {off size : Nat} {trusted : Bool} (h : s.Reaches off size trusted) (f : State → State) :
    s.onWrite off size trusted f = f (s.touch off) := by
  obtain ⟨hb, hc, ht⟩ := h
  simp only [State.onWrite, hb, not_true, if_false, hc]
  rcases ht with h | h | h <;> simp [h]

/-! ### Steps -/

theorem step_cons (i : Instr) (rest : List Instr) (s : State) : step { s with pending := i :: rest } = exec i { s with pending := rest } := rfl

/-! ### Memories -/

@[simp] theorem Memory.readZ_writeZ (m : Memory) (a : Nat) (b : Byte) (h : Memory.wfZ m = true) : Memory.readZ (Memory.writeZ m a b) a = b := by
  simp only [Memory.writeZ]
  split
  · rename_i hb
    subst hb
    have hk : sortedKeys m = true := by simp only [Memory.wfZ, Bool.and_eq_true] at h; exact h.1
    have : ∀ t : Tbl Byte, sortedKeys t = true → find? a (del a t) = none := by
      intro t ht
      induction t with
      | nil => rfl
      | cons x t ih =>
        obtain ⟨k, v⟩ := x
        have hall := head_lt_all k t (sortedKeys_tail _ _ ht) ((sortedKeys_cons k v t).1 ht).2
        simp only [del]
        split
        · rename_i hk; subst hk
          cases t with
          | nil => rfl
          | cons y t =>
            have := hall y (List.mem_cons_self ..)
            simp only [find?]; rw [if_neg (by omega), if_pos (by omega)]
        · split
          · rename_i h1 h2; simp only [find?]; rw [if_neg (by omega), if_pos (by omega)]
          · rename_i h1 h2; simp only [find?]; rw [if_neg (by omega), if_neg (by omega)]; exact ih (sortedKeys_tail _ _ ht)
    simp [Memory.readZ, getD, this m hk]
  · exact getD_put_same _ _ _ _

theorem Memory.readZ_writeZ_other (m : Memory) (a c : Nat) (b : Byte) (h : Memory.wfZ m = true) (hc : c ≠ a) :
    Memory.readZ (Memory.writeZ m a b) c = Memory.readZ m c := by
  simp only [Memory.writeZ, Memory.readZ, getD]
  split
  · have hk : sortedKeys m = true := by simp only [Memory.wfZ, Bool.and_eq_true] at h; exact h.1
    rw [find_del_other a c m hk hc]
  · rw [find_put_other a c b m hc]

/-- Bytes written from an address upwards leave every other address alone. -/
theorem Memory.read_writeAll_other (m : Memory) (a c : Nat) (bs : List Byte) (h : c < a ∨ a + bs.length ≤ c) :
    Memory.read (Memory.writeAll m a bs) c = Memory.read m c := by
  induction bs generalizing m a with
  | nil => rfl
  | cons b bs ih =>
    simp only [List.length_cons] at h
    rw [Memory.writeAll, ih _ _ (by omega), Memory.read_write_other _ _ _ _ (by omega)]

/-- Bytes written from an address upwards are read back. -/
theorem Memory.read_writeAll (m : Memory) (a i : Nat) (bs : List Byte) (h : i < bs.length) :
    Memory.read (Memory.writeAll m a bs) (a + i) = some bs[i] := by
  induction bs generalizing m a i with
  | nil => simp at h
  | cons b bs ih =>
    rw [Memory.writeAll]
    cases i with
    | zero => rw [Memory.read_writeAll_other _ _ _ _ (by omega)]; exact Memory.read_write m a b
    | succ i =>
      simp only [List.length_cons] at h
      rw [show a + (i + 1) = a + 1 + i by omega, ih _ _ _ (by omega)]; rfl

theorem Memory.readZ_writeAllZ_other (m : Memory) (a c : Nat) (bs : List Byte) (hm : Memory.wfZ m = true) (h : c < a ∨ a + bs.length ≤ c) :
    Memory.readZ (Memory.writeAllZ m a bs) c = Memory.readZ m c := by
  induction bs generalizing m a with
  | nil => rfl
  | cons b bs ih =>
    simp only [List.length_cons] at h
    rw [Memory.writeAllZ, ih _ _ (Memory.wfZ_writeZ m a b hm) (by omega), Memory.readZ_writeZ_other _ _ _ _ hm (by omega)]

theorem reset_memOk : State.reset.memOk = true := by decide

end Sys2Proof.Machine
end

