-- ==== Sys2Proof/Laws/PerInstr.lean ====
section
/-!
SUPPORT. The per-command family `Operands`: a well-formed command names only units that a C16 has, and its operands fit; one lemma per command.
-/

namespace Sys2Proof.Laws.Operands

open Sys2Proof

/-- A well-formed command names only units that exist, and its operands fit their fields; and such a command is well formed. -/
def Statement (i : Instr) : Prop := i.wellFormed = true ↔ (∀ u ∈ i.units, u.2 < u.1.count) ∧ i.operandsFit = true

/-- The statement from the definition of well-formedness, for any command. -/
theorem statement_intro (i : Instr) : Statement i := by simp [Statement, Instr.wellFormed, List.all_eq_true]

theorem submit (b : Nat) (h : HostMem) : Statement (.submit b h) := statement_intro _
theorem cancel (b : Nat) : Statement (.cancel b) := statement_intro _
theorem pause (b : Nat) : Statement (.pause b) := statement_intro _
theorem resume (b : Nat) : Statement (.resume b) := statement_intro _
theorem query (b : Nat) : Statement (.query b) := statement_intro _
theorem drop (b : Nat) : Statement (.drop b) := statement_intro _
theorem loadShard (b : Nat) (h : HostMem) : Statement (.loadShard b h) := statement_intro _
theorem loadCommit (b : Nat) (h : HostMem) (plan : Plan) (bad : Faulty) (flashOk : Bool) : Statement (.loadCommit b h plan bad flashOk) := statement_intro _
theorem swapBegin (b : Nat) (h : HostMem) (us : Option Nat) : Statement (.swapBegin b h us) := statement_intro _
theorem swapLayer (b : Nat) (bad : Faulty) : Statement (.swapLayer b bad) := statement_intro _
theorem swapEnd (b : Nat) (flashOk : Bool) : Statement (.swapEnd b flashOk) := statement_intro _
theorem inlayLoad (b : Nat) (h : HostMem) : Statement (.inlayLoad b h) := statement_intro _
theorem inlayDrop (b : Nat) : Statement (.inlayDrop b) := statement_intro _
theorem partitionSet (b : Nat) (h : HostMem) : Statement (.partitionSet b h) := statement_intro _
theorem girthSet (b : Nat) (h : HostMem) : Statement (.girthSet b h) := statement_intro _
theorem girthStart (b : Nat) : Statement (.girthStart b) := statement_intro _
theorem girthStop (b : Nat) : Statement (.girthStop b) := statement_intro _
theorem tenantBegin (b : Nat) : Statement (.tenantBegin b) := statement_intro _
theorem tenantEnd (b : Nat) : Statement (.tenantEnd b) := statement_intro _
theorem eventRead (b : Nat) : Statement (.eventRead b) := statement_intro _
theorem statusRead (b : Nat) : Statement (.statusRead b) := statement_intro _
theorem tableLoad (b : Nat) (h : HostMem) : Statement (.tableLoad b h) := statement_intro _
theorem promiseModelSet (b : Nat) : Statement (.promiseModelSet b) := statement_intro _
theorem calibrate (b : Nat) (trims : List Trim) : Statement (.calibrate b trims) := statement_intro _
theorem proofRun (b : Nat) (err : Analog) : Statement (.proofRun b err) := statement_intro _
theorem xcheckRun (b : Nat) (err : Analog) : Statement (.xcheckRun b err) := statement_intro _
theorem housekeepSet (b : Nat) : Statement (.housekeepSet b) := statement_intro _
theorem arrayReadback (b : Nat) : Statement (.arrayReadback b) := statement_intro _
theorem logitBiasSet (b : Nat) (h : HostMem) : Statement (.logitBiasSet b h) := statement_intro _
theorem powerCapSet (b : Nat) : Statement (.powerCapSet b) := statement_intro _
theorem repairMapEdit (b : Nat) (bad : Faulty) : Statement (.repairMapEdit b bad) := statement_intro _
theorem weightsClear (b : Nat) (residue : List (Nat × Nat)) (flashOk : Bool) : Statement (.weightsClear b residue flashOk) := statement_intro _
theorem unsupportedOpcode (b : Nat) : Statement (.unsupportedOpcode b) := statement_intro _
theorem commandFetch (b : Nat) (h : HostMem) (err : Bool) : Statement (.commandFetch b h err) := statement_intro _
theorem cqWrite (b : Nat) : Statement (.cqWrite b) := statement_intro _
theorem tokenRecordPost (p : Nat) : Statement (.tokenRecordPost p) := statement_intro _
theorem msixRaise (v : Nat) : Statement (.msixRaise v) := statement_intro _
theorem sqDb (b : Nat) (value : Nat) (trusted : Bool) : Statement (.sqDb b value trusted) := statement_intro _
theorem cqDb (b : Nat) (value : Nat) (trusted : Bool) : Statement (.cqDb b value trusted) := statement_intro _
theorem tqDb (b : Nat) (value : Nat) (trusted : Bool) : Statement (.tqDb b value trusted) := statement_intro _
theorem ringEnable (b : Nat) (trusted : Bool) : Statement (.ringEnable b trusted) := statement_intro _
theorem ringDisable (b : Nat) (trusted : Bool) : Statement (.ringDisable b trusted) := statement_intro _
theorem registerWrite (offset size value : Nat) (trusted : Bool) : Statement (.registerWrite offset size value trusted) := statement_intro _
theorem rcRead (offset : Nat) (trusted : Bool) : Statement (.rcRead offset trusted) := statement_intro _
theorem accessErr (offset size : Nat) (write : Bool) (trusted : Bool) : Statement (.accessErr offset size write trusted) := statement_intro _
theorem mbxSend (m : Nat) (trusted : Bool) : Statement (.mbxSend m trusted) := statement_intro _
theorem mbxWithdraw (m : Nat) (trusted : Bool) : Statement (.mbxWithdraw m trusted) := statement_intro _
theorem mbxTake (m : Nat) (trusted : Bool) : Statement (.mbxTake m trusted) := statement_intro _
theorem mbxCommandTake (m : Nat) (h : HostMem) : Statement (.mbxCommandTake m h) := statement_intro _
theorem mbxTimeout (m : Nat) : Statement (.mbxTimeout m) := statement_intro _
theorem onDieMbxWrite (c : Nat) (toSaddler : Bool) (words : List Nat) : Statement (.onDieMbxWrite c toSaddler words) := statement_intro _
theorem lwRetrain (p : Nat) (trusted : Bool) : Statement (.lwRetrain p trusted) := statement_intro _
theorem lwEnable (p : Nat) (on : Bool) (trusted : Bool) : Statement (.lwEnable p on trusted) := statement_intro _
theorem dormantRequest (trusted : Bool) : Statement (.dormantRequest trusted) := statement_intro _
theorem periodWrite (value : Nat) (trusted : Bool) : Statement (.periodWrite value trusted) := statement_intro _
theorem injectKeep (array column : Nat) (trusted : Bool) : Statement (.injectKeep array column trusted) := statement_intro _
theorem injectProof (array column : Nat) (trusted : Bool) : Statement (.injectProof array column trusted) := statement_intro _
theorem injectCe (array column : Nat) (trusted : Bool) : Statement (.injectCe array column trusted) := statement_intro _
theorem nop (t : Nat) : Statement (.nop t) := statement_intro _
theorem pass (t : Nat) : Statement (.pass t) := statement_intro _
theorem passCodesReady (t : Nat) (tracing : Bool) (err : Analog) : Statement (.passCodesReady t tracing err) := statement_intro _
theorem alt (t : Nat) : Statement (.alt t) := statement_intro _
theorem tally (t : Nat) : Statement (.tally t) := statement_intro _
theorem skive (t : Nat) : Statement (.skive t) := statement_intro _
theorem send (t : Nat) : Statement (.send t) := statement_intro _
theorem recv (t : Nat) : Statement (.recv t) := statement_intro _
theorem wait (t : Nat) : Statement (.wait t) := statement_intro _
theorem proof (t : Nat) (err : Analog) : Statement (.proof t err) := statement_intro _
theorem kcmp (t : Nat) : Statement (.kcmp t) := statement_intro _
theorem inlay (t : Nat) : Statement (.inlay t) := statement_intro _
theorem inlayEngineCommit (c : Nat) : Statement (.inlayEngineCommit c) := statement_intro _
theorem beatEnd (t : Nat) : Statement (.beatEnd t) := statement_intro _
theorem fabricFlitArrive (n : Nat) (ue : Option Channel) : Statement (.fabricFlitArrive n ue) := statement_intro _
theorem fabStall (t : Nat) : Statement (.fabStall t) := statement_intro _
theorem sliceRefresh (c bank : Nat) : Statement (.sliceRefresh c bank) := statement_intro _
theorem add (c : Nat) : Statement (.add c) := statement_intro _
theorem rmsnorm (c : Nat) : Statement (.rmsnorm c) := statement_intro _
theorem lnorm (c : Nat) : Statement (.lnorm c) := statement_intro _
theorem act (c : Nat) : Statement (.act c) := statement_intro _
theorem gate (c : Nat) : Statement (.gate c) := statement_intro _
theorem rope (c : Nat) : Statement (.rope c) := statement_intro _
theorem scale (c : Nat) : Statement (.scale c) := statement_intro _
theorem route (c : Nat) : Statement (.route c) := statement_intro _
theorem store (c : Nat) : Statement (.store c) := statement_intro _
theorem attn (c : Nat) : Statement (.attn c) := statement_intro _
theorem stload (c : Nat) : Statement (.stload c) := statement_intro _
theorem ststore (c : Nat) : Statement (.ststore c) := statement_intro _
theorem dispatch (c : Nat) : Statement (.dispatch c) := statement_intro _
theorem combine (c : Nat) : Statement (.combine c) := statement_intro _
theorem beatIssue (p : Nat) (emb : List (List Block)) : Statement (.beatIssue p emb) := statement_intro _
theorem beatStart (p : Nat) : Statement (.beatStart p) := statement_intro _
theorem beatOut (p slot : Nat) : Statement (.beatOut p slot) := statement_intro _
theorem ingressMessage (port girth dbuf epoch : Nat) (hdr : VecHdr) (body : Payload) : Statement (.ingressMessage port girth dbuf epoch hdr body) := statement_intro _
theorem readyMark (port girth epoch : Nat) : Statement (.readyMark port girth epoch) := statement_intro _
theorem draftRecord (port girth epoch : Nat) (rec : DraftRec) : Statement (.draftRecord port girth epoch rec) := statement_intro _
theorem awlGather (c p : Nat) : Statement (.awlGather c p) := statement_intro _
theorem awlSelect (p : Nat) : Statement (.awlSelect p) := statement_intro _
theorem verdict (p epoch : Nat) (v : VerdictMsg) : Statement (.verdict p epoch v) := statement_intro _
theorem draftRound (p handle : Nat) (vec : List Block) : Statement (.draftRound p handle vec) := statement_intro _
theorem commit (p handle newL epoch : Nat) (toks : List Nat) : Statement (.commit p handle newL epoch toks) := statement_intro _
theorem claim (p : Nat) (m : ClaimMsg) : Statement (.claim p m) := statement_intro _
theorem claimReturn (p handle : Nat) : Statement (.claimReturn p handle) := statement_intro _
theorem refuse (p handle : Nat) : Statement (.refuse p handle) := statement_intro _
theorem release (p handle : Nat) (undo : Bool) : Statement (.release p handle undo) := statement_intro _
theorem stop (p : Nat) (up : Bool) (k : StopKind) : Statement (.stop p up k) := statement_intro _
theorem restart (p gpos epoch : Nat) (chipReset : Bool) : Statement (.restart p gpos epoch chipReset) := statement_intro _
theorem peerDown (p gpos : Nat) : Statement (.peerDown p gpos) := statement_intro _
theorem linkUp (p gpos : Nat) : Statement (.linkUp p gpos) := statement_intro _
theorem flush (p : Nat) : Statement (.flush p) := statement_intro _
theorem check (p : Nat) (reports : List CheckReport) (commits : List (Nat × Nat × List Nat)) (ended : List Nat) : Statement (.check p reports commits ended) := statement_intro _
theorem releaseHalt (p epoch : Nat) : Statement (.releaseHalt p epoch) := statement_intro _
theorem grant (p port dbuf epoch : Nat) : Statement (.grant p port dbuf epoch) := statement_intro _
theorem peerMbx (gpos dst p : Nat) (m : PeerMsg) : Statement (.peerMbx gpos dst p m) := statement_intro _
theorem mbxNak (p : Nat) (m : PeerMsg) : Statement (.mbxNak p m) := statement_intro _
theorem thermalStop (p gpos : Nat) (drain : Bool) : Statement (.thermalStop p gpos drain) := statement_intro _
theorem thermalDrainTimeout (p : Nat) : Statement (.thermalDrainTimeout p) := statement_intro _
theorem girthGo (p tGap : Nat) : Statement (.girthGo p tGap) := statement_intro _
theorem startRoundTimeout (p : Nat) : Statement (.startRoundTimeout p) := statement_intro _
theorem beatReturnTimeout (p : Nat) : Statement (.beatReturnTimeout p) := statement_intro _
theorem halterTimeout (p : Nat) : Statement (.halterTimeout p) := statement_intro _
theorem holdDeadline (p handle : Nat) : Statement (.holdDeadline p handle) := statement_intro _
theorem ttlExpiry (p handle : Nat) : Statement (.ttlExpiry p handle) := statement_intro _
theorem pauseMigrate (p handle : Nat) (writeFails : Bool) : Statement (.pauseMigrate p handle writeFails) := statement_intro _
theorem saddlebagWriteDone (p handle : Nat) (failed : List Nat) : Statement (.saddlebagWriteDone p handle failed) := statement_intro _
theorem resumeRead (p handle : Nat) (blocks : List (Option BagRead)) : Statement (.resumeRead p handle blocks) := statement_intro _
theorem readmit (p handle : Nat) : Statement (.readmit p handle) := statement_intro _
theorem lwTrainingDone (p : Nat) (result : Option Nat) (peerKeyId : Nat) : Statement (.lwTrainingDone p result peerKeyId) := statement_intro _
theorem linkKeyUpdate (p : Nat) (tx : Bool) : Statement (.linkKeyUpdate p tx) := statement_intro _
theorem helloSend (p : Nat) : Statement (.helloSend p) := statement_intro _
theorem helloReceive (p : Nat) (hello : Hello) (rtt : Nat) : Statement (.helloReceive p hello rtt) := statement_intro _
theorem flitReceive (p : Nat) (f : Flit) : Statement (.flitReceive p f) := statement_intro _
theorem nakReceive (p ack : Nat) : Statement (.nakReceive p ack) := statement_intro _
theorem lossOfSignal (p lane : Nat) : Statement (.lossOfSignal p lane) := statement_intro _
theorem ackTimeout (p : Nat) : Statement (.ackTimeout p) := statement_intro _
theorem linkDown (p : Nat) : Statement (.linkDown p) := statement_intro _
theorem disputeRepetition (t : Nat) (err : Analog) : Statement (.disputeRepetition t err) := statement_intro _
theorem settlement (t : Nat) : Statement (.settlement t) := statement_intro _
theorem partitionRestart (p : Nat) (f : PartFault) (bad : Faulty) : Statement (.partitionRestart p f bad) := statement_intro _
theorem patchDone (array column : Nat) (bad : Faulty) : Statement (.patchDone array column bad) := statement_intro _
theorem keeperRotation (array k : Nat) : Statement (.keeperRotation array k) := statement_intro _
theorem crossCheck (array seed : Nat) (err : Analog) : Statement (.crossCheck array seed err) := statement_intro _
theorem periodicReadback (array : Nat) (drift : List (Nat × Nat)) (bad : Faulty) : Statement (.periodicReadback array drift bad) := statement_intro _
theorem rowProgramAttempt (a : Attempt) : Statement (.rowProgramAttempt a) := statement_intro _
theorem memUe (site : UeSite) (loc : Nat) : Statement (.memUe site loc) := statement_intro _
theorem memCe (loc syndrome : Nat) : Statement (.memCe loc syndrome) := statement_intro _
theorem chipReset (cause loc : Nat) (found : BootFound) : Statement (.chipReset cause loc found) := statement_intro _
theorem watchdog (found : BootFound) : Statement (.watchdog found) := statement_intro _
theorem hkChunkStart (c : Nat) : Statement (.hkChunkStart c) := statement_intro _
theorem hkOverdue (array activity : Nat) : Statement (.hkOverdue array activity) := statement_intro _
theorem hkRound (r : HkReading) : Statement (.hkRound r) := statement_intro _
theorem calStep (trim : Trim) : Statement (.calStep trim) := statement_intro _
theorem thermtrip : Statement .thermtrip := statement_intro _
theorem aclkChange (mhz : Nat) : Statement (.aclkChange mhz) := statement_intro _
theorem brakeOn : Statement .brakeOn := statement_intro _
theorem brakeToggle : Statement .brakeToggle := statement_intro _
theorem brakeOff : Statement .brakeOff := statement_intro _
theorem brakeBeyond : Statement .brakeBeyond := statement_intro _
theorem brakeHeld : Statement .brakeHeld := statement_intro _
theorem refclkLost (k : RefClk) : Statement (.refclkLost k) := statement_intro _
theorem tclkRecovered (found : BootFound) : Statement (.tclkRecovered found) := statement_intro _
theorem railBrownout : Statement .railBrownout := statement_intro _
theorem restEntry : Statement .restEntry := statement_intro _
theorem restExit : Statement .restExit := statement_intro _
theorem dormantWake : Statement .dormantWake := statement_intro _
theorem tileGate (t : Nat) : Statement (.tileGate t) := statement_intro _
theorem tileWake (t : Nat) : Statement (.tileWake t) := statement_intro _
theorem powerOnReset (found : BootFound) : Statement (.powerOnReset found) := statement_intro _
theorem warmReset (perst : Bool) (found : BootFound) : Statement (.warmReset perst found) := statement_intro _
theorem functionLevelReset : Statement .functionLevelReset := statement_intro _
theorem mainRailsValid (found : BootFound) : Statement (.mainRailsValid found) := statement_intro _
theorem cxlTrain (width gts : Nat) : Statement (.cxlTrain width gts) := statement_intro _
theorem rebuild (drift : List (Nat × Nat × Nat)) (recordOk : Bool) (plan : List (Nat × Plan)) : Statement (.rebuild drift recordOk plan) := statement_intro _
theorem startupReady : Statement .startupReady := statement_intro _
theorem scrubComplete : Statement .scrubComplete := statement_intro _
theorem fillComplete : Statement .fillComplete := statement_intro _
theorem stopInterface : Statement .stopInterface := statement_intro _
theorem tdispError (cause : Nat) : Statement (.tdispError cause) := statement_intro _
theorem ideKm (stream : Nat) : Statement (.ideKm stream) := statement_intro _
theorem getVersion : Statement .getVersion := statement_intro _
theorem getCapabilities : Statement .getCapabilities := statement_intro _
theorem negotiateAlgorithms (algs : List Nat) : Statement (.negotiateAlgorithms algs) := statement_intro _
theorem getDigests (slot : Nat) : Statement (.getDigests slot) := statement_intro _
theorem getCertificate (slot offset length : Nat) : Statement (.getCertificate slot offset length) := statement_intro _
theorem challenge (nonce : Nat) : Statement (.challenge nonce) := statement_intro _
theorem getMeasurements (index : Nat) (signed : Bool) : Statement (.getMeasurements index signed) := statement_intro _
theorem keyExchange (exchange : Nat) : Statement (.keyExchange exchange) := statement_intro _
theorem finish (verifyOk : Bool) : Statement (.finish verifyOk) := statement_intro _
theorem keyUpdate (both : Bool) : Statement (.keyUpdate both) := statement_intro _
theorem heartbeat : Statement .heartbeat := statement_intro _
theorem endSession : Statement .endSession := statement_intro _
theorem firmwareUpdate (img : FwImage) : Statement (.firmwareUpdate img) := statement_intro _
theorem getEventRecords : Statement .getEventRecords := statement_intro _
theorem clearEventRecords : Statement .clearEventRecords := statement_intro _
theorem cperRead (count : Nat) : Statement (.cperRead count) := statement_intro _
theorem mctpStatus : Statement .mctpStatus := statement_intro _
theorem trngFail (test : Nat) : Statement (.trngFail test) := statement_intro _
theorem startRoundFigures (p : Nat) (step : Nat) (stages : List Figures) (slots resPos resCount : Nat) (hret : Nat) (ok : Bool) (gpos : Nat) (boots : List (Nat × Nat)) : Statement (.startRoundFigures p step stages slots resPos resCount hret ok gpos boots) := statement_intro _
theorem knownSumsComputed (array : Nat) (wrong : List (Nat × Int)) : Statement (.knownSumsComputed array wrong) := statement_intro _
theorem powerRemoved : Statement .powerRemoved := statement_intro _
theorem tdiRun : Statement .tdiRun := statement_intro _
theorem refclkRestored (k : RefClk) : Statement (.refclkRestored k) := statement_intro _
theorem trngHealthPass : Statement .trngHealthPass := statement_intro _
theorem beyondClear : Statement .beyondClear := statement_intro _
theorem stagingWindowAccess (line : Nat) (write : Option (List Byte)) : Statement (.stagingWindowAccess line write) := statement_intro _
theorem jtagInstruction (ir : Nat) : Statement (.jtagInstruction ir) := statement_intro _

end Sys2Proof.Laws.Operands
end

