-- ==== Sys2Proof/Tests/Slice0.lean ====
section
/-!
SUPPORT. Tests: small states, one step each. A `wf_` test gives an ill-formed command that a check of WellFormed refuses; a `met_` test shows a
state and operands that meet the hypotheses of the statement it is named after, all of them together; a `test_` theorem compares one result
with the manual's own example or table.
-/

namespace Sys2Proof.Tests

set_option Elab.async false

open Sys2Proof Sys2Proof.Machine

/-! ### Small states -/

/-- A READY device in RUN with its clocks on, outside confidential mode, with a tenant and firmware running. -/
def up : State :=
  { State.reset with
    tick := 1000
    pwr := { State.reset.pwr with phase := 4, rebuilt := true, railsOk := true, pllLock := true, aclk := 800, want := 800 }
    sec := { State.reset.sec with bootOk := true, idOk := true, tenant := some 7 }
    host := { State.reset.host with conf := false, linkW := 16 } }

/-- A packet: opcode, partition, parameter bytes, parameter words from word 2 on, and the expert flag and FLAGS in place. -/
def pkt (op part len : Nat) (ps : List Nat) (flags : Nat := 0) : List Nat := [op + 2 ^ 16 * part + flags, 0x55 + 2 ^ 16 * len] ++ ps

/-- The state with one packet of ring `b` fetched. -/
def fetch (s : State) (b : Nat) (w : List Nat) : State :=
  { s with host := { s.host with fetched := [{ src := .ring b, words := w, running := false, lost := false }] } }

/-- A girth record of `n` stages with this device at position `gpos`; its own device ID is 0. -/
def rec' (gpos n : Nat) : Record :=
  { ledger := 1, gpos, stages := n, n, halterMs := 100
    members := (List.range n).map (fun k => { deviceId := if k = gpos then 0 else 90 + k, stage := k })
    links := (List.range (n - 1)).map (fun k => { gposA := k, gposB := k + 1, portA := 1, portB := 2, use := 1, cable := 50 }) ++
      [{ gposA := n - 1, gposB := 0, portA := 1, portB := 2, use := 2, cable := 50 }], digest := [] }

/-- Partition 1 (cluster 2) with a girth of `n` members, this device at `gpos`, in state `st`. -/
def onGirth (s : State) (gpos n : Nat) (st : GState) : State :=
  (s.setPart 1 { s.part 1 with clusters := 4 }).setGirth 1 { s.girth 1 with
    st, record := some (rec' gpos n), wheel := { k := 4, b := 2, tGap := 100, c := 400, tRing := 50, pfRows := 1 }, t0 := some 0 }

/-- A request of partition 1 at ledger index 65,536 (ledger 1), generation 3. -/
def hd : Nat := mkHandle 65536 3
def withReq (s : State) (e : Entry) : State := s.setEntry 65536 { e with part := 1, gen := 3 }

def pommel : State := onGirth up 0 2 .running
def member : State := onGirth up 1 3 .running

/-- Array 8,192 (tile 128, array 0) belongs to partition 1, which holds weights on it. -/
def layoutEnt : LayoutEnt := { placed := { array := 8192, matrix := 0, seg := 0, firstCh := 0, nch := 1 }, part := 1, ad := [], widths := [4] }
def noPlan : Plan := { placed := [], progs := [], slots := [], rows := [], groups := [], logit := [], dlogit := [] }
def oneArray : Weights := { manifest := [], matrices := [], entries := [layoutEnt], steps := [], plan := noPlan }
def weighted (s : State) : State :=
  { s.setPart 1 { s.part 1 with weights := some oneArray } with stackCopy := [(8192, [(0, 5)])] }
def sums (s : State) : State := s.setArr 8192 { s.arr 8192 with sumsOk := true, calOk := true }



/-! ### Commands that are not well formed: one for each check of WellFormed -/

def okHdr : VecHdr := { eref := 0, blocks := 1, part := false, first := 0, handle := hd, pos := 1, slot := 0, last := true, budget := 0 }
def okBlock : Block := { e8 := 127, n8 := true, fb := false, sat := 0, zero := 0, elems := List.replicate 128 0 }
def okClaim : ClaimMsg :=
  { handle := hd, tier := false, rslot := 0, maxlen := 16, draft := 0, classS := false, embed := false, inlay := none, sel := [], seed := 0, hist := 0
    out := 0, tag := 0, plen := 1, tokens := 0, lateOk := false }
def okHello : Hello := { deviceId := 1, port := 0, hseq := 0, boot := 0, echoSeq := 0, echoV := false, hold := 0, entries := [] }
def okEnt : HelloEnt := { ledger := 0, gpos := 0, state := 0, beatSlots := 1, resPos := 0, resCount := 0, digest := [] }
def okFlit : Flit :=
  { cls := 0, som := true, eom := true, seq := 0, ack := 0, av := false, nak := false, cclass := 0, ccount := 0, girth := 0, epoch := 0, len := 0
    tagOk := true }
def okPlan : Plan := { placed := [], progs := [], slots := [], rows := [], groups := [], logit := [], dlogit := [] }
def okVerdict : VerdictMsg := { handle := hd, a := 0, toks := [], late := false, brake := false, status := 0 }
def msg (h : VecHdr) (b : Payload) : Instr := .ingressMessage 0 0 0 0 h b


/-- A unit of each kind that a C16 does not have. -/
theorem wf_units_refused : ∀ i ∈ ([.submit 17 [], .nop 1024, .add 16, .beatStart 16, .helloSend 8, .grant 0 8 0 0, .lossOfSignal 0 8,
    .readyMark 0 16 0, .readyMark 0 0 16, .crossCheck 65536 0 [], .injectKeep 0 272 false, .rowProgramAttempt ⟨0, 512, []⟩, .keeperRotation 0 8, .sliceRefresh 0 64,
    .mbxSend 4 false, .mbxTimeout 8, .msixRaise 36, .stagingWindowAccess (2 ^ 28) none, .calStep ⟨65536, 0, 0, 0⟩,
    .calStep ⟨0, 272, 0, 0⟩] : List Instr), i.wellFormed = false := by decide +kernel

/-- The last unit of each kind. -/
theorem wf_units_accepted : ∀ i ∈ ([.submit 16 [], .nop 1023, .add 15, .beatStart 15, .grant 0 7 0 0, .lossOfSignal 0 7, .readyMark 0 15 15,
    .crossCheck 65535 0 [], .injectKeep 0 255 false, .rowProgramAttempt ⟨0, 511, []⟩, .keeperRotation 0 7, .sliceRefresh 0 63, .mbxSend 3 false,
    .mbxTimeout 7, .msixRaise 35, .stagingWindowAccess (2 ^ 28 - 1) none,
    .calStep ⟨65535, 271, -32, 31⟩] : List Instr), i.wellFormed = true := by decide +kernel

theorem wf_host_refused : ∀ i ∈ ([.submit 0 [(2 ^ 64, 0)], .loadShard 0 [(5, 0), (5, 1)], .loadCommit 0 [(2 ^ 64, 0)] okPlan [] true,
    .swapBegin 0 [(2 ^ 64, 0)] none, .inlayLoad 0 [(2 ^ 64, 0)], .partitionSet 0 [(2 ^ 64, 0)], .girthSet 0 [(2 ^ 64, 0)],
    .tableLoad 0 [(2 ^ 64, 0)], .logitBiasSet 0 [(2 ^ 64, 0)], .commandFetch 0 [(2 ^ 64, 0)] false,
    .mbxCommandTake 0 [(2 ^ 64, 0)]] : List Instr), i.wellFormed = false := by decide +kernel

theorem wf_plans_refused : ∀ i ∈ ([.loadCommit 0 [] { okPlan with placed := [⟨65536, 0, 0, 0, 1⟩] } [] true,
    .loadCommit 0 [] { okPlan with placed := [⟨0, 0, 0, 2 ^ 20, 1⟩] } [] true,
    .loadCommit 0 [] { okPlan with placed := [⟨0, 0, 0, 0, 257⟩] } [] true, .loadCommit 0 [] { okPlan with progs := [(1024, ⟨0, 0, []⟩)] } [] true,
    .loadCommit 0 [] { okPlan with progs := [(0, ⟨0, 0, List.replicate 3969 ⟨0, .nop⟩⟩)] } [] true,
    .loadCommit 0 [] { okPlan with groups := [(1024, [])] } [] true, .rebuild [(65536, 0, 0)] true [], .rebuild [(0, 512, 0)] true [],
    .rebuild [(0, 0, 272)] true [], .rebuild [] true [(16, okPlan)], .rebuild [] true [(0, { okPlan with groups := [(1024, [])] })],
    .swapBegin 0 [] (some (2 ^ 32))] : List Instr), i.wellFormed = false := by decide +kernel

theorem wf_columns_refused : ∀ i ∈ ([.loadCommit 0 [] okPlan [(65536, [])] true, .swapLayer 0 [(0, [272])], .repairMapEdit 0 [(65536, [])],
    .weightsClear 0 [(65536, 0)] true, .weightsClear 0 [(0, 512 * 272)] true, .proofRun 0 [(65536, 0, 0)], .xcheckRun 0 [(0, 272, 0)],
    .passCodesReady 0 false [(65536, 0, 0)], .proof 0 [(65536, 0, 0)], .crossCheck 0 0 [(65536, 0, 0)], .crossCheck 0 (2 ^ 64) [],
    .disputeRepetition 0 [(65536, 0, 0)], .injectKeep 0 256 false, .injectProof 0 256 false, .injectCe 0 256 false, .patchDone 0 256 [],
    .patchDone 0 0 [(65536, [])], .partitionRestart 0 .fabric [(65536, [])], .periodicReadback 0 [(512, 0)] [], .periodicReadback 0 [(0, 272)] [],
    .periodicReadback 0 [] [(0, [272])], .rowProgramAttempt ⟨0, 0, [272]⟩, .calibrate 0 [⟨0, 0, -33, 0⟩], .calibrate 0 [⟨0, 0, 0, 32⟩],
    .calStep ⟨0, 0, 32, 0⟩, .calStep ⟨0, 0, 0, -33⟩] : List Instr), i.wellFormed = false := by decide +kernel

theorem wf_registers_refused : ∀ i ∈ ([.sqDb 0 (2 ^ 64) false, .cqDb 0 (2 ^ 64) false, .tqDb 0 (2 ^ 64) false, .registerWrite (2 ^ 25) 2 0 false,
    .registerWrite 0 8 0 false, .registerWrite 0 2 (2 ^ 64) false, .rcRead (2 ^ 25) false, .accessErr (2 ^ 25) 2 false false, .accessErr 0 8 false false,
    .mbxTake 3 false, .onDieMbxWrite 0 true (List.replicate 17 0), .onDieMbxWrite 0 true [2 ^ 32], .periodWrite (2 ^ 32) false,
    .jtagInstruction 256, .stagingWindowAccess 0 (some [0])] : List Instr), i.wellFormed = false := by decide +kernel

theorem wf_messages_refused : ∀ i ∈ ([.ingressMessage 0 0 32 0 okHdr (.blocks []), .ingressMessage 0 0 0 16 okHdr (.blocks []),
    msg { okHdr with eref := 256 } (.blocks []), msg { okHdr with blocks := 1024 } (.blocks []), msg { okHdr with first := 512 } (.blocks []),
    msg { okHdr with handle := 2 ^ 32 } (.blocks []), msg { okHdr with pos := 2 ^ 24 } (.blocks []), msg { okHdr with slot := 64 } (.blocks []),
    msg { okHdr with budget := 2 ^ 32 } (.blocks []), msg okHdr (.blocks [{ okBlock with e8 := 256 }]),
    msg okHdr (.blocks [{ okBlock with sat := 256 }]), msg okHdr (.blocks [{ okBlock with zero := 256 }]),
    msg okHdr (.blocks [{ okBlock with elems := [] }]), msg okHdr (.blocks [{ okBlock with n8 := false, elems := List.replicate 128 8 }]),
    msg okHdr (.blocks (List.replicate 513 okBlock)), msg okHdr (.tally []), msg okHdr (.tally (List.replicate 128 (2 ^ 63))),
    msg okHdr (.tally (List.replicate 128 (-2 ^ 63 - 1))), .beatIssue 0 [[{ okBlock with e8 := 256 }]],
    .beatOut 0 64] : List Instr), i.wellFormed = false := by decide +kernel

theorem wf_drafts_refused : ∀ i ∈ ([.draftRecord 0 0 0 ⟨2 ^ 32, false, []⟩, .draftRecord 0 0 0 ⟨0, false, List.replicate 16 (0, [])⟩,
    .draftRecord 0 0 0 ⟨0, false, [(2 ^ 18, [])]⟩, .draftRecord 0 0 0 ⟨0, false, [(0, [(2 ^ 18, 0)])]⟩, .draftRecord 0 0 16 ⟨0, false, []⟩,
    .draftRound 0 (2 ^ 32) [], .draftRound 0 0 [{ okBlock with e8 := 256 }], .verdict 0 0 { okVerdict with handle := 2 ^ 32 },
    .verdict 0 0 { okVerdict with toks := [2 ^ 18] }, .verdict 0 16 okVerdict,
    .commit 0 (2 ^ 32) 0 0 [], .commit 0 0 (2 ^ 24) 0 [], .commit 0 0 0 16 [],
    .commit 0 0 0 0 [2 ^ 18]] : List Instr), i.wellFormed = false := by decide +kernel

theorem wf_claims_refused : ∀ i ∈ ([.claim 0 { okClaim with handle := 2 ^ 32 }, .claim 0 { okClaim with rslot := 256 },
    .claim 0 { okClaim with maxlen := 2 ^ 24 }, .claim 0 { okClaim with draft := 16 }, .claim 0 { okClaim with plen := 2 ^ 24 },
    .claim 0 { okClaim with tokens := 2 ^ 24 }, .claim 0 { okClaim with tag := 2 ^ 16 }, .claim 0 { okClaim with seed := 2 ^ 64 },
    .claim 0 { okClaim with hist := 2 ^ 64 }, .claim 0 { okClaim with out := 2 ^ 64 }, .claim 0 { okClaim with sel := [2 ^ 32] },
    .claim 0 { okClaim with inlay := some (2 ^ 12) }, .claimReturn 0 (2 ^ 32), .refuse 0 (2 ^ 32), .release 0 (2 ^ 32) false,
    .holdDeadline 0 (2 ^ 32), .ttlExpiry 0 (2 ^ 32), .pauseMigrate 0 (2 ^ 32) false, .saddlebagWriteDone 0 (2 ^ 32) [],
    .saddlebagWriteDone 0 0 [2 ^ 32], .resumeRead 0 (2 ^ 32) [], .resumeRead 0 0 [some ⟨2 ^ 32, 0, 0, true⟩],
    .resumeRead 0 0 [some ⟨0, 2 ^ 16, 0, true⟩], .readmit 0 (2 ^ 32)] : List Instr), i.wellFormed = false := by decide +kernel

theorem wf_girths_refused : ∀ i ∈ ([.restart 0 256 0 false, .restart 0 0 16 false, .peerDown 0 256, .linkUp 0 256, .check 0 [⟨256, 0, 0, true⟩] [] [],
    .check 0 [⟨0, 2 ^ 32, 0, true⟩] [] [], .check 0 [] [(2 ^ 32, 0, [])] [], .check 0 [] [(0, 2 ^ 24, [])] [], .check 0 [] [] [2 ^ 32],
    .releaseHalt 0 16, .grant 0 0 32 0, .grant 0 0 0 16, .peerMbx 256 0 0 (.warn true), .peerMbx 0 256 0 (.warn true),
    .girthGo 0 (2 ^ 32), .stop 0 true (.cancel (2 ^ 32)), .knownSumsComputed 0 [(7168, 0)], .knownSumsComputed 0 [(0, 128)],
    .peerMbx 0 0 0 (.words (List.replicate 17 0)),
    .mbxNak 0 (.words [2 ^ 32]), .thermalStop 0 256 false, .startRoundFigures 0 8 [] 0 0 0 0 true 0 [],
    .startRoundFigures 0 0 [] 0 0 0 0 true 256 [],
    .startRoundFigures 0 0 [⟨256, 0, 0, 0, 0, 0, 0⟩] 0 0 0 0 true 0 []] : List Instr), i.wellFormed = false := by decide +kernel

theorem wf_links_refused : ∀ i ∈ ([.lwTrainingDone 0 none (2 ^ 64), .nakReceive 0 (2 ^ 12), .helloReceive 0 { okHello with deviceId := 2 ^ 64 } 0,
    .helloReceive 0 { okHello with port := 8 } 0, .helloReceive 0 { okHello with hseq := 65536 } 0,
    .helloReceive 0 { okHello with boot := 2 ^ 32 } 0, .helloReceive 0 { okHello with echoSeq := 65536 } 0,
    .helloReceive 0 { okHello with entries := List.replicate 17 okEnt } 0,
    .helloReceive 0 { okHello with entries := [{ okEnt with ledger := 16 }] } 0,
    .helloReceive 0 { okHello with entries := [{ okEnt with gpos := 256 }] } 0, .flitReceive 0 { okFlit with cls := 8 },
    .flitReceive 0 { okFlit with seq := 4096 }, .flitReceive 0 { okFlit with ack := 4096 }, .flitReceive 0 { okFlit with cclass := 8 },
    .flitReceive 0 { okFlit with ccount := 256 }, .flitReceive 0 { okFlit with girth := 16 }, .flitReceive 0 { okFlit with epoch := 16 },
    .flitReceive 0 { okFlit with len := 256 }] : List Instr), i.wellFormed = false := by decide +kernel

theorem wf_rest_refused : ∀ i ∈ ([.memUe .slice (2 ^ 64), .memCe (2 ^ 64) 0, .chipReset 16 0 ⟨true, true, 0, 0, true, true⟩,
    .chipReset 0 (2 ^ 64) ⟨true, true, 0, 0, true, true⟩, .hkOverdue 0 8, .hkRound ⟨[(0, 4096)], [], [], []⟩, .hkRound ⟨[], [(0, 4096)], [], []⟩,
    .hkRound ⟨[], [], [(0, 4096)], []⟩, .aclkChange 1024, .cxlTrain 17 64, .cxlTrain 8 256, .tdispError 256, .ideKm 256, .getDigests 8,
    .getCertificate 8 0 0, .getCertificate 0 (2 ^ 16) 0, .getCertificate 0 0 (2 ^ 16), .challenge (2 ^ 256), .getMeasurements 256 false,
    .keyExchange (2 ^ 768), .firmwareUpdate ⟨2 ^ 24, 0, [], true, true⟩, .firmwareUpdate ⟨0, 256, [], true, true⟩,
    .trngFail 4] : List Instr), i.wellFormed = false := by decide +kernel

/-- The terms that the tests above change are well formed as they stand. -/
theorem wf_accepted : ∀ i ∈ ([msg okHdr (.blocks [okBlock]), .claim 0 okClaim, .helloReceive 0 { okHello with entries := [okEnt] } 0,
    .flitReceive 0 okFlit, .verdict 0 15 okVerdict, .loadCommit 0 [(0, 1), (2 ^ 64 - 1, 2)] okPlan [(65535, [271])] true, .mbxTake 4 false,
    .registerWrite (2 ^ 25 - 8) 3 (2 ^ 64 - 1) true] : List Instr), i.wellFormed = true := by decide +kernel
/-! ### Statements met: steps, packets, requests -/

theorem met_EmptyQueuePassesATick : up.pending = [] ∧ up.pwr.tclkOk = true ∧ up.pwr.st ≠ .off ∧
    ({ up with pwr := { up.pwr with tclkOk := false } } : State).pwr.tclkOk = false := by decide +kernel

/-- A command at a device's last tile, and one of the two refused ones. -/
theorem met_WellFormedCommandsNeverFault : (Instr.nop 1023).wellFormed = true ∧ (Instr.jtagInstruction 3).wellFormed = true ∧
    inDebug 0x100000 = true := by decide +kernel

theorem met_FailedPacketChecksReplyRejectParam : up.serves = true ∧
    ((fetch up 16 (pkt 0x88 1 12 [400, 100, 0] 256)).taken 16 0x88).isSome = true ∧ packetOk (.ring 16) (pkt 0x88 1 12 [400, 100, 0] 256) = false := by decide +kernel

/-- SUBMIT of a prompt of 3 tokens, MAXLEN 16, best effort, on ring 1. -/
def submitPkt : List Nat := pkt 0x01 1 56 [0, 0, 3, 16, 0, 0, 9, 0, 0, 0, 0, 0, 0, 0]

theorem met_SubmitOpensAClaim : (fetch pommel 1 submitPkt).InTurn 1 0x01 (.ring 1) submitPkt ∧
    (fetch pommel 1 submitPkt).girthJudge (pktPart submitPkt) = none ∧
    (fetch pommel 1 submitPkt).submitSel [] submitPkt = some selDefault ∧ submitOk submitPkt selDefault = true ∧
    (fetch pommel 1 submitPkt).freeIndex (pktPart submitPkt) = some 65536 ∧ pktFlag submitPkt 9 = false ∧
    (fetch pommel 1 submitPkt).claimSpans (pktPart submitPkt) (mkHandle 65536 0) ((fetch pommel 1 submitPkt).submitEntry submitPkt 65536).streamed
      ((fetch pommel 1 submitPkt).submitEntry submitPkt 65536).rslot ((fetch pommel 1 submitPkt).submitEntry submitPkt 65536).maxlen
      (submitExt submitPkt selDefault).inlay false = some [] := by
  refine ⟨?_, ?_⟩
  · unfold State.InTurn; decide +kernel
  · decide +kernel

/-- A promised SUBMIT that asks for 1 µs, which no wheel can promise, and one at a HELD girth. -/
def hastyPkt : List Nat := pkt 0x01 1 56 [0, 0, 3, 16, 1, 1, 9, 0, 0, 0, 0, 0, 0, 0] 512

theorem met_SubmitIsRefused : (fetch pommel 1 hastyPkt).InTurn 1 0x01 (.ring 1) hastyPkt ∧ (fetch pommel 1 hastyPkt).girthJudge 1 = none ∧
    submitOk hastyPkt selDefault = true ∧ (fetch pommel 1 hastyPkt).freeIndex 1 = some 65536 ∧
    ((fetch pommel 1 hastyPkt).submitEntry hastyPkt 65536).be = false ∧
    ((fetch pommel 1 hastyPkt).judgeSeat 1 (mkHandle 65536 0) ((fetch pommel 1 hastyPkt).submitEntry hastyPkt 65536) 3 true true 1 1).status ≠ 0 ∧
    (fetch (onGirth up 0 2 .held) 1 submitPkt).InTurn 1 0x01 (.ring 1) submitPkt ∧
    (fetch (onGirth up 0 2 .held) 1 submitPkt).girthJudge 1 = some 0x0F := by
  unfold State.InTurn; decide +kernel

def resumePkt : List Nat := pkt 0x04 1 12 [hd, 0, 0]
def paused : State := fetch (withReq pommel { st := .paused, maxlen := 16, l := 5, tokens := 2, row := 0xFF, tRef := 900 }) 1 resumePkt

theorem met_ResumeOpensAClaim : paused.InTurn 1 0x04 (.ring 1) resumePkt ∧ paused.girthJudge (pktPart resumePkt) = none ∧
    paused.named resumePkt = some (paused.entry 65536) ∧ (paused.entry 65536).st = .paused ∧
    (paused.girth (pktPart resumePkt)).claimFor (nthW resumePkt 2) = none ∧ pktFlag resumePkt 9 = false ∧
    (paused.setGirth 1 { paused.girth 1 with thermalStop := true }).girthJudge 1 = some 0x03 ∧
    paused.claimSpans (pktPart resumePkt) (nthW resumePkt 2) (paused.resumeTier (pktPart resumePkt) (nthW resumePkt 2) (paused.entry 65536)).1
      (paused.resumeTier (pktPart resumePkt) (nthW resumePkt 2) (paused.entry 65536)).2 (paused.entry 65536).maxlen
      (paused.extn (handleIdx (nthW resumePkt 2))).rebuilt.inlay true = some [] := by
  unfold State.InTurn; decide +kernel

/-- A request in DECODE with packet `w` of ring 1, and the same request DONE. -/
def withCmd (st : ReqState) (w : List Nat) : State := fetch (withReq pommel { st, maxlen := 16, l := 5, tokens := 2 }) 1 w

theorem met_RequestCommandsAnswer : (withCmd .decode (pkt 2 1 4 [hd])).trusted = false ∧ addrOk 64 256 = true ∧
    (fetch (withReq member { st := .decode }) 1 (pkt 2 1 4 [hd])).isPommel 1 = false ∧
    ((fetch (withReq member { st := .decode }) 1 (pkt 2 1 4 [hd])).named (pkt 2 1 4 [hd])).isSome = true ∧
    ((withCmd .decode []).setExt 65536 { draftAt := some 0 }).extn (handleIdx hd) = { draftAt := some 0 } ∧ ReqState.decode.active = true ∧
    ((withCmd .decode (pkt 2 1 4 [hd])).named (pkt 2 1 4 [hd])).isSome = true ∧ (withCmd .decode (pkt 2 1 4 [hd])).isPommel 1 = true ∧
    (withCmd .decode (pkt 2 1 4 [hd])).InTurn 1 0x02 (.ring 1) (pkt 2 1 4 [hd]) ∧ ReqState.done.active = false ∧
    ((withCmd .decode (pkt 3 1 8 [hd, 0])).named (pkt 3 1 8 [hd, 0])).map (·.st) = some .decode ∧
    (withCmd .decode (pkt 3 1 8 [hd, 0])).InTurn 1 0x03 (.ring 1) (pkt 3 1 8 [hd, 0]) ∧
    ((withCmd .done (pkt 5 1 12 [hd, 0, 0])).named (pkt 5 1 12 [hd, 0, 0])).isSome = true ∧ dword (pkt 5 1 12 [hd, 0, 0]) 3 = 0 ∧
    (withCmd .done (pkt 5 1 12 [hd, 0, 0])).InTurn 1 0x05 (.ring 1) (pkt 5 1 12 [hd, 0, 0]) ∧
    ((withCmd .done (pkt 6 1 4 [hd])).named (pkt 6 1 4 [hd])).map (·.st) = some .done ∧
    (withCmd .done (pkt 6 1 4 [hd])).InTurn 1 0x06 (.ring 1) (pkt 6 1 4 [hd]) := by
  unfold State.InTurn; decide +kernel

theorem met_PartitionSettingsTakeEffect :
    (fetch pommel 1 (pkt 0x81 1 16 [400, 64, 3, 0] 256)).InTurn 1 0x81 (.ring 1) (pkt 0x81 1 16 [400, 64, 3, 0] 256) ∧
    pommel.isPommel 1 = true ∧ bits 400 9 0 = 400 ∧ bits 64 20 0 = 64 ∧ bits (2 ^ 20) 20 0 = 2 ^ 20 ∧ 3 < (pommel.girth 1).wheel.k ∧
    (fetch (up.setPart 1 { clusters := 4 }) 1 (pkt 0x85 1 8 [10, 500] 256)).InTurn 1 0x85 (.ring 1) (pkt 0x85 1 8 [10, 500] 256) ∧
    ((up.setPart 1 { clusters := 4 }).part 1).defined = true ∧ ((up.setPart 1 { clusters := 4 }).girth 1).record = none ∧
    (fetch pommel 1 (pkt 0x87 1 16 [255, 0, 0, 0] 256)).InTurn 1 0x87 (.ring 1) (pkt 0x87 1 16 [255, 0, 0, 0] 256) ∧
    (pommel.part 1).defined = true ∧ pommel.activeOf 1 = [] ∧ biasOk [] = true ∧ (pommel.girth 1).record ≠ none ∧
    (fetch (withReq pommel { st := .decode }) 1 (pkt 0x87 1 16 [0, 0, 0, 0] 256)).activeOf 1 = [hd] := by
  unfold State.InTurn; decide +kernel

def expiring : State := withReq pommel { st := .paused, tRef := 999 }
def heldReq (e : Entry) : State := withReq (onGirth up 0 2 .held) e
def readmitting : State :=
  (withReq pommel { st := .prefill, maxlen := 16 }).setGirth 1 { pommel.girth 1 with readmits := [hd] }

theorem met_RequestsEndAndExpire :
    (expiring.entryOf hd).map (fun e => (e.part, e.st, decide (e.tRef < expiring.tick))) = some (1, .paused, true) ∧ expiring.isPommel 1 = true ∧
    ((heldReq { st := .decode }).entryOf hd).isSome = true ∧ ((heldReq { st := .decode }).girth 1).st = .held ∧
    (heldReq { st := .decode, ttft := 1, tpt := 1, tRef := 0 }).holdOver 1 hd = true ∧ (heldReq { st := .paused }).holdOver 1 hd = false ∧
    (readmitting.girth 1).st = .running ∧ hd ∈ (readmitting.girth 1).readmits ∧
    (readmitting.entryOf hd).map (fun e => (e.st, e.ttft)) = some (.prefill, 0) ∧
    (readmitting.setGirth 1 { readmitting.girth 1 with readmits := (readmitting.girth 1).readmits.filter (· ≠ hd) }).claimSpans 1 hd
      (readmitting.tierFor 1 hd 16).1 (readmitting.tierFor 1 hd 16).2 16 (readmitting.extn (handleIdx hd)).rebuilt.inlay false = some [] ∧
    (readmitting.girth 1).thermalStop = false := by
  decide +kernel

def claiming : State :=
  pommel.setGirth 1 { pommel.girth 1 with
    claims := [{ src := some (.ring 1), words := submitPkt, handle := hd, resume := false, entry := { st := .admitted, part := 1, be := true, gen := 3 } }] }

theorem met_ClaimReturnMakesThePromise : claiming.isPommel 1 = true ∧ ((claiming.girth 1).claimFor hd).map (·.src) = some (some (.ring 1)) ∧
    (claiming.girth 1).st = .running ∧ ((claiming.girth 1).claimFor hd).map (fun c => (c.resume, c.entry.be)) = some (false, true) ∧
    (((claiming.setGirth 1 { claiming.girth 1 with claims := [{ src := none, words := [], handle := hd, resume := false, entry := {} }] }).girth 1).claimFor
      hd).map (·.src) = some none ∧ ((withReq pommel { st := .prefill }).entry (handleIdx hd)).st = .prefill := by
  decide +kernel

theorem met_RefusedAndReleasedClaims : claiming.isPommel 1 = true ∧ ((claiming.girth 1).claimFor hd).isSome = true ∧ member.isPommel 1 = false ∧
    (withReq member { st := .resuming }).isPommel 1 = false ∧ ((withReq member { st := .resuming }).entryOf hd).map (·.st) = some .resuming ∧ ((withReq member { st := .prefill }).entryOf hd).isSome = true := by decide +kernel

/-- A claim at a member; without an inlay of that number loaded there, its spans cannot be had (R342). -/
def claimMsg (inlay : Option Nat) : ClaimMsg :=
  { handle := hd, tier := true, rslot := 0xFF, maxlen := 16, draft := 0, classS := false, embed := false, inlay, sel := selDefault, seed := 0
    hist := 0, out := 0, tag := 0, plen := 3, tokens := 0, lateOk := false }

theorem met_ClaimAtAMember : member.isPommel 1 = false ∧ (member.girth 1).record.isSome = true ∧ (member.girth 1).st = .running ∧
    member.entryOf hd = none ∧ member.claimSpans 1 hd true 0xFF 16 none false = some [] ∧
    member.claimSpans 1 hd true 0xFF 16 (some 4) false = none := by decide +kernel

/-! ### Statements met: beats, steps, pauses, selection -/

/-- A best-effort request in PREFILL at the pommel, its beat due. -/
def issuing : State := withReq pommel { st := .prefill, be := true, plen := 3, maxlen := 16, row := 0xFF }

/-- A promised request in row 1 whose step is not back, before the cadence tick of its row. -/
def awaited : State :=
  ((withReq pommel { st := .decode, ttft := 100, tpt := 100, row := 1, maxlen := 16, l := 5 }).setExt 65536 { inFlight := true, stepPos := 1 }).setGirth 1
    { pommel.girth 1 with t0 := some 900, lastIssue := some 950, beatNo := 5 }

/-- A request that is HELD keeps the wheel going and rides on no beat. -/
def notRiding : State := withReq pommel { st := .decode, be := true, halt := true, maxlen := 16 }

/-- A member with one BEAT entry (port 2, DBUF 0) whose beat message of one slot is complete. -/
def starting : State :=
  (withReq member { st := .prefill, maxlen := 16 }).setPart 1 { member.part 1 with
    table := some { ingress := [{ port := 2, dbuf := 0, group := 0, fv := false, fport := 0, fdbuf := 0, kind := 0, xin := 0 }] }
    beats := [{ arrived := [{ port := 2, dbuf := 0, group := 0, fv := false, fport := 0, fdbuf := 0, kind := 0, xin := 0 }], ready := []
                started := none, slots := [(0, hd, 0, 700)], ended := [] }] }
def started : Beat :=
  { arrived := [{ port := 2, dbuf := 0, group := 0, fv := false, fport := 0, fdbuf := 0, kind := 0, xin := 0 }], ready := []
    started := none, slots := [(0, hd, 0, 700)], ended := [] }

/-- A vector header of the request. -/
def vh : VecHdr := { eref := 120, blocks := 1, part := false, first := 0, handle := hd, pos := 5, slot := 0, last := true, budget := 700 }
def leaving : State := member.setPart 1 { member.part 1 with egress := [(3, 4, vh, .blocks []), (3, 4, { vh with slot := 1 }, .blocks [])] }

theorem met_BeatsLeaveAndStart : issuing.issues 1 = true ∧ issuing.cadence 1 ≤ issuing.tick ∧
    issuing.seated 1 ((issuing.girth 1).beatNo % (issuing.girth 1).wheel.k) = [] ∧ (issuing.girth 1).margin = none ∧
    rideSlots (issuing.fillRides 1 (issuing.girth 1).beatNo (issuing.girth 1).wheel.b (issuing.bestEffort 1)) ≠ [] ∧
    awaited.issues 1 = true ∧ awaited.tick < awaited.cadence 1 ∧ (awaited.seated 1 1).filter (fun h => awaited.mayRide 1 h (awaited.entry 65536)) = [hd] ∧
    awaited.backReady hd (awaited.entry 65536) = false ∧ notRiding.issues 1 = true ∧ notRiding.cadence 1 ≤ notRiding.tick ∧ notRiding.seated 1 0 = [] ∧
    notRiding.fillRides 1 0 2 (notRiding.bestEffort 1) = [] ∧
    starting.isPommel 1 = false ∧ starting.isCantle 1 = false ∧ starting.runs 1 = true ∧ (starting.girth 1).st = .running ∧
    (starting.part 1).swap = none ∧ starting.hk.stop = false ∧ starting.pwr.beyond = false ∧
    startFirst (starting.messageComplete 1) (fun b => { b with started := some starting.tick }) (starting.part 1).beats =
      some (started, [{ started with started := some 1000 }]) ∧
    started.slots.map (·.2.1) = [hd] ∧ started.slots.all (fun x => x.2.1 < 2 ^ 32) = true ∧ (starting.entryOf hd).isSome = true ∧
    (starting.extn 65536).inFlight = false ∧ ((starting.setExt 65536 { inFlight := true, stepPos := 2 }).extn 65536).inFlight = true ∧
    leaving.runs 1 = true ∧ (leaving.part 1).egress.filter (fun x => x.2.2.1.slot = 0) = [(3, 4, vh, .blocks [])] := by decide +kernel

def stepping (s : State) (e : Entry) : State := (withReq s e).setExt 65536 { inFlight := true, stepPos := 1 }
def verdict (status : Nat) : VerdictMsg := { handle := hd, a := 0, toks := [77], late := false, brake := false, status }

theorem met_StepsAreCommitted : ((stepping pommel { st := .decode, l := 5, maxlen := 16 }).entryOf hd).map (fun e => (e.part, e.pend, e.st)) = some (1, .none, .decode) ∧
    (stepping pommel { st := .decode }).isPommel 1 = true ∧ (pommel.girth 1).st = .running ∧
    ((stepping pommel { st := .decode }).extn (handleIdx hd)).inFlight = true ∧
    ((stepping pommel { st := .decode, pend := .cancel }).entryOf hd).map (·.pend) = some .cancel ∧
    (verdict 10).status = 0x0A ∧ (verdict 6).status = 0x06 ∧ (pommel.girth 1).epoch = 0 ∧
    ((member.girth 1).record.map (·.upPort)) = some (some 2) ∧ (stepping member { st := .decode, l := 5 }).setExt 65536 { inFlight := false } ≠ member ∧
    ((stepping member { st := .decode, l := 5 }).entryOf hd).map (fun e => (e.part, e.l)) = some (1, 5) ∧ member.isPommel 1 = false ∧
    (member.girth 1).epoch = 0 ∧ 6 ≤ 5 + ((stepping member { st := .decode, l := 5 }).extn (handleIdx hd)).stepPos := by decide +kernel

/-- A table whose cluster 2 holds one KV layer of one head block, and a PAUSED request of 5 positions with a span there. -/
def kvTs : TableSet := { attn := [(2, [{ (default : AttnDesc) with op := 1 }])] }
def bagged (s : State) (st : ReqState) (x : Ext) : State :=
  ((withReq s { st, l := 5, maxlen := 16 }).setExt 65536 { x with spans := [(2, 0)] }).setPart 1
    { s.part 1 with table := some kvTs, pools := [(4096, 65536)] }

theorem met_PausesAndTheirReads :
    ((withReq pommel { st := .decode, pend := .pause }).entryOf hd).map (fun e => (e.part, e.st, e.pend)) = some (1, .decode, .pause) ∧
    ((withReq pommel { st := .decode, pend := .pause }).extn (handleIdx hd)).inFlight = false ∧ (pommel.girth 1).st = .running ∧
    ((withReq pommel { st := .decode, pend := .pause }).extn (handleIdx hd)).draftAt = none ∧
    ((bagged member .paused { migWait := true }).entryOf hd).map (fun e => (e.part, e.st)) = some (1, .paused) ∧
    ((bagged member .paused { migWait := true }).extn (handleIdx hd)).migWait = true ∧ (member.girth 1).st = .running ∧
    (bagged member .paused { migWait := true }).beyondMigration 1 = false ∧ 0 < (bagged member .paused { migWait := true }).saddleBlocks 1 hd ∧
    (bagged member .paused { migWait := true }).poolFit 1 ((bagged member .paused { migWait := true }).saddleBlocks 1 hd) = some 4096 ∧
    ((bagged member .paused { migrating := true }).extn (handleIdx hd)).migrating = true ∧
    ((bagged member .resuming { lptr := 5, poolData := true }).entryOf hd).map (fun e => (e.part, e.st)) = some (1, .resuming) ∧
    ((bagged member .resuming { lptr := 5, poolData := true }).saddleList 1 hd).zipIdx.all
      (fun b => bagOk hd 0 b.1 (([some ⟨hd, 0, 0, true⟩] : List (Option BagRead))[b.2]?.getD none)) = true ∧
    ((bagged member .resuming { lptr := 5, poolData := true }).saddleList 1 hd).zipIdx.all
      (fun b => bagOk hd 0 b.1 (([some ⟨hd, 1, 0, true⟩] : List (Option BagRead))[b.2]?.getD none)) = false := by decide +kernel

/-- R204: of two equal logits the lower token ID ranks first. -/
theorem met_GreedyTakesTheBestCandidate : rankSort [(9, (1, 0)), (4, (1, 0)), (2, (-1, 3))] = [(4, (1, 0)), (9, (1, 0)), (2, (-1, 3))] := by
  decide +kernel

theorem met_CandidatesAreRanked : rankSort [(2, (-1, 3)), (4, (1, 0))] = [] ++ (4, (1, 0)) :: (2, (-1, 3)) :: [] := by decide +kernel

/-- A block of 128 equal N8 elements, and a full bank of one header. -/
def blk (e8 : Nat) (v : Byte) : Block := { e8, n8 := true, fb := false, sat := 0, zero := 0, elems := List.replicate 128 v }
def bank (bs : List Block) : EngResv := { hdrs := [vh], senders := [0], blks := (List.range bs.length).zip bs, full := true }

/-- Partition 1's cluster 2 holds the logits of tokens 0–127 on reservation 0 of port 66. -/
def logitTs : TableSet := { vocab := 128, logit := [{ cluster := 2, rbuf := 0, nblk := 1, first := 0 }] }
def gathering : State :=
  (((onGirth up 2 3 .running).setPart 1 { (onGirth up 2 3 .running).part 1 with table := some logitTs }).setCluster 2 { logit := [(0, bank [blk 120 3])] })

/-- The claim that the cantle keeps of the request, and a cantle with the list of the slot at hand. -/
def carriedMsg : ClaimMsg := claimMsg none
def selecting : State :=
  (stepping (onGirth up 2 3 .running) { st := .decode, l := 5, maxlen := 16 } |>.setExt 65536 { inFlight := true, stepPos := 1, carried := some carriedMsg }).setPart 1
    { member.part 1 with table := some logitTs, gathered := [{ cluster := 2, hdr := vh, bad := false, pairs := [(7, 0x3F800000), (9, 0x40000000)] }] }

/-- A drafting pommel, its request with L = 5, and the draft run over position 5 awaited with its logits here. -/
def draftTs : TableSet := { vocab := 128, dmax := 4, dlogit := [{ cluster := 2, rbuf := 0, nblk := 1, first := 0 }] }
def drafting (x : Ext) (eng : List EngResv) : State :=
  (((withReq pommel { st := .decode, draft := 2, maxlen := 16, l := 5 }).setExt 65536 x).setPart 1 { pommel.part 1 with table := some draftTs }).setCluster 2
    { logit := eng.map (0, ·) }

/-- A device whose port 2 carries ledger 1. -/
def carrying (s : State) : State := s.setPort 2 { s.port 2 with girths := 2 }

theorem met_SelectionTakesItsLists :
    ((gathering.part 1).table = some logitTs ∧ gathering.runs 1 = true ∧ gathering.isCantle 1 = true ∧ bit (gathering.part 1).clusters 2 = true ∧
      (logitTs.logit.any (fun e => e.cluster = 2)) = true ∧ (gathering.logitBanks logitTs 2).isSome = true ∧
      ((gathering.logitBanks logitTs 2).getD []).flatMap (fun x => x.2.2.hdrs) = [vh] ∧ hdrAgree vh vh = true ∧
      ((gathering.extn (handleIdx vh.handle)).carried.map (·.embed)).getD false = false ∧
      ((((gathering.logitBanks logitTs 2).getD []).flatMap (fun y => entryLogits 128 y.1 y.2.2)).any (fun y => y.2.isNone)) = false) ∧
    ((selecting.part 1).table = some logitTs ∧ (selecting.part 1).gathered.head?.map (·.hdr) = some vh ∧
      (slotLists ((logitTs.logit.map (·.cluster)).eraseDups) ((selecting.part 1).gathered.headD default) (selecting.part 1).gathered).isSome = true ∧
      (selecting.extn (handleIdx vh.handle)).carried = some carriedMsg ∧ (selecting.entryOf vh.handle).map (·.st) = some .decode ∧
      selecting.runs 1 = true ∧ selecting.isCantle 1 = true ∧
      (selecting.extn (handleIdx vh.handle)).inFlight = true ∧ (selecting.extn (handleIdx vh.handle)).seen < (selecting.extn (handleIdx vh.handle)).stepPos ∧
      carriedMsg.embed = false ∧ carriedMsg.handle = vh.handle ∧ (selecting.part 1).abort = []) ∧
    ((drafting {} []).drafting 1 hd = true ∧ (drafting {} []).isPommel 1 = true ∧ (drafting {} []).runs 1 = true ∧
      ((drafting {} []).part 1).table = some draftTs ∧ (drafting {} []).draftBanks draftTs = none ∧ ((drafting {} []).extn 65536).draftAt = none) ∧
    ((drafting { draftAt := some 5 } [bank [blk 120 3]]).drafting 1 hd = true ∧
      ((drafting { draftAt := some 5 } [bank [blk 120 3]]).draftBanks draftTs).isSome = true ∧
      (((drafting { draftAt := some 5 } [bank [blk 120 3]]).draftBanks draftTs).getD []).flatMap (fun y => y.2.2.hdrs) = [vh] ∧ vh.handle = hd ∧
      vh.pos = 5 ∧ ((((drafting { draftAt := some 5 } [bank [blk 120 3]]).draftBanks draftTs).getD []).flatMap
        (fun y => entryLogits 128 y.1 y.2.2)).any (fun y => y.2.isNone) = false) ∧
    ((carrying member).partOfLedger 1 = 1 ∧ bit ((carrying member).port 2).girths 1 = true ∧ ((carrying member).girth 1).st = .running ∧
      ((carrying member).girth 1).epoch = 0 ∧ (carrying member).isPommel 1 = false ∧ (carrying member).isCantle 1 = false ∧
      (carrying selecting).partOfLedger 1 = 1 ∧ (carrying selecting).isCantle 1 = true ∧ (carrying selecting).isPommel 1 = false ∧
      ((carrying selecting).entryOf hd).isSome = true) := by
  decide +kernel
/-! ### Statements met: tiles -/

/-- Tile 128 (partition 1, cluster 2) with a program of the given stitches, its arrays calibrated. -/
def tileAt (tab : List Stitch) (x : Tile) : State :=
  let s := (member.setPart 1 { member.part 1 with table := some { progs := [(128, ⟨0, 4095, tab⟩)] } }).setTile 128 { x with gated := false }
  { s with hk := { s.hk with startCal := true } }

/-- A complete reservation of run 0 that has filled input entry 0. -/
def resv (tally : Bool) : Resv :=
  { tallyKind := tally, base := 0, count := 1, nprod := 1, vreg := 0, ifmt := true, run := 0, seq := 0, senders := [0], granted := true, hdrs := 1
    filled := [0], eref := 120, done := true }
/-- A block with one element of magnitude 3, so that its planes 0 and 1 are not ZERO. -/
def oneBlk : Block := { blk 120 0 with elems := 3 :: List.replicate 127 0 }
def fed (b : Block) : Tile := { inBuf := [(0, { blk := b, rsv := 0 })], resv := [(0, resv false)], hdrs := [(0, vh)] }

theorem met_StitcherGoesOn :
    (tileAt [⟨1, .nop⟩] {}).Stands 128 ⟨1, .nop⟩ ∧
    (tileAt [⟨1, .alt 2 3 0 0 0 0 0⟩] {}).Stands 128 ⟨1, .alt 2 3 0 0 0 0 0⟩ ∧
    ((tileAt [⟨1, .alt 2 3 0 0 0 0 0⟩] {}).tile 128).altFlag 3 0 0 0 = some false ∧
    ((tileAt [⟨1, .alt 2 3 0 0 0 0 0⟩] { fb := true }).tile 128).altFlag 3 0 0 0 = some true ∧
    (tileAt [⟨1, .recv 31 0 0 1 1 3 1⟩] { runs := 1 }).Stands 128 ⟨1, .recv 31 0 0 1 1 3 1⟩ ∧
    (tileAt [⟨1, .wait 0⟩] (fed oneBlk)).Stands 128 ⟨1, .wait 0⟩ ∧
    find? (bankEntry 0 0) ((tileAt [⟨1, .wait 0⟩] (fed oneBlk)).tile 128).resv = some (resv false) ∧ (resv false).run = 0 ∧ (resv false).done = true ∧
    (tileAt [⟨0, .beatEnd⟩] {}).Stands 128 ⟨0, .beatEnd⟩ ∧ ((tileAt [⟨0, .beatEnd⟩] {}).tile 128).kind = .main ∧
    ((tileAt [⟨0, .beatEnd⟩] { kind := .hk }).tile 128).kind = .hk ∧ (tileAt [⟨0, .beatEnd⟩] { kind := .hk, hkAct := some (1, 8192) }).Stands 128 ⟨0, .beatEnd⟩ ∧
    ((tileAt [⟨1, .recv 0 0 0 1 1 3 1⟩] { resv := [(0, { resv false with done := false })] }).tile 128).recvWaits (bankEntry 0 0) = true ∧
    ((tileAt [⟨1, .recv 31 0 0 1 1 3 1⟩] { runs := 1 }).tile 128).recvWaits (bankEntry 1 31) = false ∧
    find? (bankEntry 0 0) ((tileAt [⟨1, .wait 0⟩] {}).tile 128).resv = none := by
  unfold State.Stands; decide +kernel

/-- A PASS of plane 0 or 3 (ZERO) over basic window 0 to array 0. -/
def passing (plane : Nat) : State := tileAt [⟨1, .pass 0 0 0 plane 0 0 1⟩] (fed oneBlk)
def passRec : PassRec :=
  { run := 0, wkind := 0, widx := 0, h := 0, plane := 0, iblk := 0, wr := 0, arrays := [0], base := 0, drive := blockDrive oneBlk 0, e8 := 120, codes := [] }
/-- A wide window over two blocks whose exponents differ, and a target WR that holds another exponent. -/
def wide : State :=
  tileAt [⟨1, .pass 2 0 0 0 0 0 1⟩] { inBuf := [(0, { blk := oneBlk, rsv := 0 }), (1, { blk := { oneBlk with e8 := 121 }, rsv := 0 })]
                                      resv := [(0, { resv false with count := 2, filled := [0, 1] })], hdrs := [(0, vh)] }
def mixed : State :=
  tileAt [⟨1, .pass 0 0 0 0 0 0 1⟩] { fed oneBlk with wrs := [(0, { Wr.empty with exp := some 119 })] }

theorem met_PassesIssueAndComplete :
    (passing 0).Stands 128 ⟨1, .pass 0 0 0 0 0 0 1⟩ ∧ (passing 3).Stands 128 ⟨1, .pass 0 0 0 3 0 0 1⟩ ∧
    ((passing 0).tile 128).present 0 (bankEntry 0 0) = true ∧ ((passing 0).tile 128).wrRead 1 (bankWr 0 0) = false ∧
    (∀ a ∈ maskList 1, ((passing 0).arr ((passing 0).servingArray (arrayAddr 128 a))).prog = none ∧
      (passing 0).calOk ((passing 0).servingArray (arrayAddr 128 a)) = true) ∧
    zeroFlag (((passing 3).tile 128).passDrive 0 0 0 3) = true ∧ zeroFlag (((passing 0).tile 128).passDrive 0 0 0 0) = false ∧
    oneBlk.e8 ≠ 255 ∧ windowExp 0 oneBlk oneBlk = some 120 ∧ (getD Wr.empty (wrKey 0 0) ((passing 0).tile 128).wrs).exp = none ∧
    wide.Stands 128 ⟨1, .pass 2 0 0 0 0 0 1⟩ ∧ (wide.tile 128).present 0 1 = true ∧ windowExp 2 oneBlk { oneBlk with e8 := 121 } = none ∧
    (getD Wr.empty (wrKey 0 0) (mixed.tile 128).wrs).exp = some 119 ∧
    (tileAt [] { flight := [passRec] }).runs ((tileAt [] { flight := [passRec] }).partOfTile 128) = true ∧
    ((tileAt [] { flight := [passRec] }).tile 128).flight = [passRec] := by
  unfold State.Stands; decide +kernel

/-- A WR of array 0 whose one pass gave a code above its bound at column 0, and one whose pass gave 0 everywhere. -/
def compared (codes : List Int) : State :=
  tileAt [] { kcmpQ := [{ seq := 0, run := 0, idx := 0, op := .kcmp 0 1 }]
              wrs := [(0, { exp := some 120, vals := [], recs := [{ passRec with codes := [(0, codes)], serve := [] }] })] }

/-- A proof while its array programs a row, and array 8,192 with its known sums and first calibration. -/
def busyProof : State :=
  (tileAt [⟨1, .proof 0 0 1⟩] {}).setArr 8192 { (tileAt [] {}).arr 8192 with prog := some (0, 0) }
def proofed : State := sums (tileAt [] {})

theorem met_ComparesAndProofs : ((compared []).tile 128).kcmpQ = [{ seq := 0, run := 0, idx := 0, op := .kcmp 0 1 }] ∧
    (compared []).runs ((compared []).partOfTile 128) = true ∧
    (((compared []).tile 128).flight.any (fun p => p.wr = bankWr 0 0 && p.arrays.any ((maskList 1).contains ·))) = false ∧
    (compared []).wrDisputes 128 0 (getD Wr.empty (wrKey 0 (bankWr 0 0)) ((compared []).tile 128).wrs) = [] ∧
    (compared [2]).wrDisputes 128 0 (getD Wr.empty (wrKey 0 (bankWr 0 0)) ((compared [2]).tile 128).wrs) ≠ [] ∧
    (tileAt [⟨1, .proof 0 0 1⟩] {}).Stands 128 ⟨1, .proof 0 0 1⟩ ∧
    (∀ a ∈ maskList 1, ((tileAt [⟨1, .proof 0 0 1⟩] {}).arr ((tileAt [⟨1, .proof 0 0 1⟩] {}).servingArray (arrayAddr 128 a))).prog = none) ∧
    ((busyProof.arr (busyProof.servingArray (arrayAddr 128 0))).prog).isSome = true ∧
    (proofed.arr 8192).sumsOk = true ∧ (proofed.arr 8192).pb = 0 ∧ proofed.calOk (proofed.servingArray 8192) = true ∧
    proofed.ev.injProof.filter (fun y => y.1 = 8192) = none ∧ zeroFlag (blockDrive (proofBlock 0) 0) = false ∧
    ((up.arr 8192).sumsOk = false) := by
  unfold State.Stands; decide +kernel

def tallying : State :=
  tileAt [] { tallyQ := [{ seq := 3, run := 0, idx := 0, op := .tally 0 0 0 1 }], wrs := [(0, { exp := some 120, vals := [5], checked := true })]
              colMaps := [(0, [{ chan := 0, width := 4, base := 0, off := 0, lane := 7 }])], eref := [(0, 120)] }
def skiving : State :=
  tileAt [] { skiveQ := [{ seq := 3, run := 0, idx := 0, op := .skive 0 1 1 0 0 0 31 0 }], slots := [(0, { eref := some 120, lanes := [5] })] }
def sending : State :=
  (tileAt [] { sendQ := [{ seq := 3, run := 0, idx := 0, op := .send 0 0 1 7 5 2 0 1 0 4 }], outBuf := [(0, oneBlk)], hdrs := [(0, vh)] }).setGirth 1
    { member.girth 1 with grants := [(5, 2)] }

/-- A SEND to reservation 2 of the neighbouring tile, whose credit is granted. -/
def sendOn : QEnt := { seq := 3, run := 0, idx := 0, op := .send 0 0 1 1 0 2 0 1 0 4 }
def sendingOn : State :=
  let s := tileAt [] { sendQ := [sendOn], outBuf := [(0, oneBlk)], hdrs := [(0, vh)] }
  s.setTile 129 { s.tile 129 with gated := false, resv := [(2, { resv false with filled := [], done := false, senders := [] })] }

theorem met_TalliesAreSkivedAndSent :
    (tallying.tile 128).tallyQ = [{ seq := 3, run := 0, idx := 0, op := .tally 0 0 0 1 }] ∧ tallying.runs (tallying.partOfTile 128) = true ∧
    (∀ a ∈ maskList 1, a < 62 ∧ (getD Wr.empty (wrKey a (bankWr 0 0)) (tallying.tile 128).wrs).checked = true) ∧
    (tallying.tile 128).vregReady 0 3 (bankVreg 0 0) = true ∧
    ((tallying.tile 128).tallySlots 0 0 1).any ((tallying.tile 128).slotRead 3) = false ∧
    (skiving.tile 128).skiveQ = [{ seq := 3, run := 0, idx := 0, op := .skive 0 1 1 0 0 0 31 0 }] ∧ skiving.runs (skiving.partOfTile 128) = true ∧
    (skiving.tile 128).slotPending 3 (bankEntry 0 0) = false ∧ (skiving.tile 128).tallyResvDone 0 3 (bankEntry 0 0) = true ∧
    (skiving.tile 128).slotRead 3 (bankEntry 0 0) = false ∧ (skiving.tile 128).outRead 3 (bankEntry 0 31) = false ∧
    (sending.tile 128).sendQ = [{ seq := 3, run := 0, idx := 0, op := .send 0 0 1 7 5 2 0 1 0 4 }] ∧ sending.runs (sending.partOfTile 128) = true ∧
    (sending.part (sending.partOfTile 128)).table.isSome = true ∧ (sending.tile 128).hdrOf 0 = some vh ∧
    (sending.tile 128).sendReady { seq := 3, run := 0, idx := 0, op := .send 0 0 1 7 5 2 0 1 0 4 } = true ∧
    (sending.girth (sending.partOfTile 128)).grants.contains (5 % 16, 2) = true ∧
    sending.sendWaits 128 { seq := 3, run := 0, idx := 0, op := .send 0 0 1 7 5 2 0 1 0 4 } = [] ∧
    sending.outBlocks (sending.tile 128) (bankEntry 0 0) 1 = ([oneBlk], sending) ∧
    (sendingOn.tile 128).sendQ = [sendOn] ∧ (sendingOn.tile 128).sendReady sendOn = true ∧ sendingOn.sendWaits 128 sendOn = [] ∧
    (skive true true 0 0 0 ((skiving.tile 128).skiveLanes 0 0)).overflow = false := by decide +kernel

/-- INLAY of a request that binds inlay 4 or none, and the engine's turn with no difference in the segment. -/
def inlayOp : QEnt := { seq := 3, run := 0, idx := 0, op := .inlay 0 9 0 0 4 }
def inlaying (n : Option Nat) (asked : Bool) : State :=
  ((tileAt [] { inlayQ := [inlayOp], hdrs := [(0, vh)], eref := [(0, 120)]
                inBuf := [(0, { blk := oneBlk, rsv := 0 }), (1, { blk := oneBlk, rsv := 0 }), (2, { blk := oneBlk, rsv := 0 }), (3, { blk := oneBlk, rsv := 0 })]
                resv := [(0, { resv false with count := 4, filled := [0, 1, 2, 3] })] }).setExt 65536 { inlay := n }).setCluster 2
    { inlayQ := if asked then [(128, 3)] else [] }
def stalled : State := sending.setGirth 1 { member.girth 1 with grants := [] }

theorem met_InlaysAndStalls :
    ((inlaying none false).tile 128).inlayQ.find? (fun q => !((inlaying none false).cluster (128 / 64)).inlayQ.contains (128, q.seq)) = some inlayOp ∧
    (inlaying none false).runs ((inlaying none false).partOfTile 128) = true ∧ ((inlaying none false).tile 128).hdrOf inlayOp.run = some vh ∧
    ((inlaying (some 4) false).extn (handleIdx vh.handle)).inlay = some 4 ∧ ((inlaying none false).extn (handleIdx vh.handle)).inlay = none ∧
    ((inlaying (some 4) true).cluster 2).inlayQ = [(128, 3)] ∧
    ((inlaying (some 4) true).tile 128).inlayQ.find? (fun q => q.seq = 3) = some inlayOp ∧
    ((List.range 4).all (fun k => ((inlaying (some 4) true).tile 128).present 0 (bankEntry 0 0 + k))) = true ∧
    ((inlaying (some 4) true).tile 128).vregReady 0 3 (bankVreg 0 0) = true ∧ ((inlaying (some 4) true).tile 128).slotRead 3 (bankEntry 0 0) = false ∧
    (getD [] 4 ((inlaying (some 4) true).part 1).inlays).filter (fun d => d.tile = 128 && d.seg = 9) = [] ∧
    ((getD Slot.empty 0 ((inlaying (some 4) true).tile 128).slots).add 120 ((List.range 128).map (fun _ => (0 : Int)))).isSome = true ∧
    (stalled.tile 128).sendQ ≠ [] ∧ stalled.containment = false ∧
    (stalled.tile 128).sendReady { seq := 3, run := 0, idx := 0, op := .send 0 0 1 7 5 2 0 1 0 4 } = true ∧
    stalled.sendWaits 128 { seq := 3, run := 0, idx := 0, op := .send 0 0 1 7 5 2 0 1 0 4 } ≠ [] := by decide +kernel

/-! ### Statements met: fabric, burnisher, attention -/

/-- A piece on its way to tile 128: header in, one block left, for the open reservation 0 of a run. -/
def copyTo (epoch : Nat) (hdrIn : Bool) : Copy :=
  { part := 1, epoch, group := 1024, bank := 0, dest := { cluster := 2, port := 0, rbuf := 0 }, chan := .bulk, hdr := { vh with first := 0 }
    hdrIn, body := .blocks [oneBlk], index := 1, mesh := none, flits := 2, total := 3, bytes := 16, drop := false }
def arriving (cp : Copy) : State :=
  { tileAt [] { resv := [(0, { resv false with filled := [], done := false })] } with fabric := [cp] }

/-- A KV write of position 6 of the request, its two bytes unwritten before, while no copy is on the way. -/
def kvWriting : State :=
  let s := { tileAt [] {} with kv := [(7, 1), (9, 2)], kvWr := [{ part := 1, epoch := 0, cluster := 2, handle := hd, layer := 0, pos := 6
                                                                  was := [(7, none), (9, some 5)] }] }
  s.setCluster 2 { s.cluster 2 with wrote := [(hd, 0, 6)] }

/-- The buffer of router 0 is full of an earlier message's flits, none of which has gone on. -/
def jammed : State :=
  { arriving { copyTo 0 true with mesh := some 1, flits := 0 } with
    fabric := [{ copyTo 0 true with mesh := some 1, flits := 0 }, { copyTo 0 true with mesh := some 2, flits := 0 }]
    mesh := [{ no := 1, chan := .bulk, src := 0, edge := false, crossed := [(0, 256)] }, { no := 2, chan := .bulk, src := 0, edge := false, crossed := [] }] }

theorem met_PiecesAreDelivered : (arriving (copyTo 0 true)).awake = true ∧ (arriving (copyTo 0 true)).fabric[0]? = some (copyTo 0 true) ∧
    (copyTo 0 true).epoch = ((arriving (copyTo 0 true)).part 1).epoch ∧ ((arriving (copyTo 0 true)).meshNext (copyTo 0 true)).2 = true ∧
    (copyTo 0 true).hdrIn = true ∧ (copyTo 0 true).dest.port < 64 ∧ (copyTo 0 true).body = .blocks [oneBlk] ∧
    (copyTo 0 true).bytes + (copyTo 0 true).pieceBytes ≤ 64 * ((copyTo 0 true).flits + 1) ∧
    64 * (0 + 1) < ({ copyTo 0 true with flits := 0 } : Copy).bytes + ({ copyTo 0 true with flits := 0 } : Copy).pieceBytes ∧
    find? 0 ((arriving (copyTo 0 true)).tile 128).resv = some { resv false with filled := [], done := false } ∧
    ((arriving (copyTo 0 true)).tile 128).filledInRun 0 0 = false ∧
    oneBlk.e8 ≠ 255 ∧ (copyTo 5 true).epoch ≠ ((arriving (copyTo 5 true)).part 1).epoch ∧ (arriving (copyTo 0 true)).containment = false ∧
    (jammed.meshNext { copyTo 0 true with mesh := some 2, flits := 0 }).2 = false ∧ kvWriting.awake = true ∧ kvWriting.fabric = [] ∧ kvWriting.kvWr.length = 1 ∧ Memory.wf kvWriting.kv = true ∧ up.pwr.st = .run := by
  decide +kernel

/-- Cluster 2 with one burnisher descriptor ready: its banks hold one block each. -/
def burnDesc (op : Nat) : BurnDesc :=
  { op, rbufA := 0, rbufB := 1, ofmt := true, wb := true, group := 0, addr := 2 ^ 24 - 1024, nblk := 0, nprod := 1, tbl := 0, x8 := 0, k := 0, param := 0x3F800000 }
def burning (op : Nat) : State :=
  (member.setPart 1 { member.part 1 with table := some { burn := [(2, [burnDesc op])] } }).setCluster 2
    { burnQ := [0], burn := [(0, bank [blk 120 3]), (2, bank [blk 121 2])] }

/-- The same with a second input of another position. -/
def crossed (op : Nat) : State :=
  (burning op).setCluster 2 { (burning op).cluster 2 with burn := [(0, bank [blk 120 3]), (2, { bank [blk 121 2] with hdrs := [{ vh with pos := 9 }] })] }

theorem met_BurnisherComputesItsOperation :
    (∀ op ∈ [1, 2, 3, 4, 5, 6, 7, 8, 9], ((burning op).burnReady 2 op).map (fun x => (x.agree, x.n, x.desc.addr + 8 * (128 * x.n))) =
      some (true, 1, 2 ^ 24)) ∧
    ((crossed 5).burnReady 2 5).map (·.agree) = some false := by decide +kernel

theorem met_BurnisherStoresOnlyItsVector : Memory.wfZ (burning 1).spill = true ∧ (∃ u, exec (.add 2) (burning 1) = .next u) ∧ (∃ u, exec (.store 2) (burning 9) = .next u) ∧
    (∃ u, exec (.act 2) (burning 4) = .next u) ∧ (burning 4).burnReady 2 1 = none ∧ ((burning 1).burnReady 2 1).map (·.desc.wb) = some true :=
  ⟨by decide +kernel, ⟨_, rfl⟩, ⟨_, rfl⟩, ⟨_, rfl⟩, by decide +kernel, by decide +kernel⟩

/-- Cluster 2 with one attention descriptor ready for the request at position 5; the request holds a span there. -/
def attnDesc (op : Nat) : AttnDesc :=
  { op, rbufQ := 0, rbufX := 1, group := 0, layer := 0, nbl := 0, dh := 1, ofmt := true, g := 1, nx := 0, nexp := 0, win := 1, param := 0x3F800000 }
def attending (op pos : Nat) : State :=
  (((withReq member { st := .decode, streamed := true, l := 5, maxlen := 16 }).setExt 65536 { spans := [(2, 0)] }).setPart 1
    { member.part 1 with table := some { attn := [(2, [attnDesc op])] } }).setCluster 2
    { attnQ := [0], attn := [(0, { bank [blk 120 3, blk 120 3] with hdrs := [{ vh with pos }] }), (2, { bank [blk 121 2, blk 119 1] with hdrs := [{ vh with pos }] })] }

/-- The same in a draft run: its senders are a draft run's. -/
def draftFiring (pos : Nat) : State :=
  let s := attending 1 pos
  (s.setExt 65536 { s.extn 65536 with ld := pos }).setCluster 2
    { s.cluster 2 with attn := (s.cluster 2).attn.map (fun y => (y.1, { y.2 with senders := [2 ^ 40] })) }

theorem met_AttentionWritesAndReads :
    (∀ op ∈ [1, 2, 3, 4, 5], ((attending op 5).attnReady 2 op).map (fun x => (x.agree, x.hdr.pos, x.p)) = some (true, 5, 1) ∧
      (((attending op 5).attnReady 2 op).bind (fun x => (attending op 5).attnEntry x)).map (fun e => (e.l, e.maxlen)) = some (5, 16) ∧
      (((attending op 5).attnReady 2 op).bind (fun x => (attending op 5).layerRegion x.ts 2 hd x.desc.layer)).isSome = true) ∧
    ((attending 1 5).extn (handleIdx hd)).inFlight = false ∧ (attending 3 5).storedAt 2 hd 0 = none ∧
    ({ inFlight := true, stepPos := 2 } : Ext).commitDue 5 6 false = false ∧ ({ inFlight := true, stepPos := 2 } : Ext).commitDue 5 7 false = true ∧
    (((draftFiring 5).attnReady 2 1).map (fun x => (x.agree, x.draft)) = some (true, true)) := by decide +kernel

theorem met_KvChangesOnlyInItsRegion : (blk 0 3).e8 < 256 ∧ (blk 255 3).e8 < 256 ∧ (blk 120 3).elems.length = 128 ∧ 0 + 128 ≤ 128 ∧ 9 < 10 := by
  decide +kernel

theorem met_MissingPositionsAndRanges :
    (∀ pos ∈ [7, 16], ((attending 1 pos).attnReady 2 1).map (fun x => (x.agree, x.hdr.pos)) = some (true, pos) ∧
      ((attending 3 pos).attnReady 2 3).map (fun x => (x.agree, x.hdr.pos)) = some (true, pos)) ∧
    (attending 1 7).wroteAt 2 hd 0 5 = false ∧ (attending 1 7).containment = false ∧
    (((attending 3 7).attnReady 2 3).bind (fun x => (attending 3 7).layerRegion x.ts 2 hd x.desc.layer)).isSome = true ∧
    ((attending 3 7).storedAt 2 hd 0).map (· + 1) = none ∧ ((draftFiring 5).extn (handleIdx hd)).ld = 5 := by decide +kernel

/-! ### Statements met: rings, registers, mailboxes, window -/

/-- Ring 1 enabled with an SQ entry to fetch, one CQ entry and one token record to post. -/
def tokRec (first : Bool) : TokRec :=
  { words := [hd, 9, 6, 0], histAddr := 4096, histData := [1, 2, 3, 4], handle := hd, first
    verdict := some { handle := hd, a := 0, toks := [9], late := false, brake := false, status := 0 } }
def ringed (s : State) : State :=
  s.setRing 1 { s.ring 1 with en := true, sqBase := 0x10000, cqBase := 0x20000, tqBase := 0x30000, sqTail := 1, cqTail := 15, cqHead := 3
                              cqWait := [[5, 6]], tqWait := [tokRec true] }

/-- Ring 1 with entries written since its vectors' last raise, both holdoffs over. -/
def newEntries : State := up.setRing 1 { up.ring 1 with cqNew := true, tqNew := true, holdUs := 10, cqRaised := some 0, tqRaised := some 0 }

theorem met_RingsFetchAndPost : (ringed up).serves = true ∧ ((ringed up).ring 1).en = true ∧ ((ringed up).ring 1).sqHead ≠ ((ringed up).ring 1).sqTail ∧
    (ringed up).inflight 1 < 64 ∧ (fetch up 1 (pkt 0x99 0 0 [])).serves = true ∧
    ((fetch up 1 (pkt 0x99 0 0 [])).nextOf 1 [] (fetch up 1 (pkt 0x99 0 0 [])).host.fetched).map (fun c => opListed (pktOp c.words)) = some false ∧
    ((ringed up).ring 1).cqWait = [5, 6] :: [] ∧ (ringed up).hostRuns = true ∧
    ringFree ((ringed up).ring 1).cqLog2 ((ringed up).ring 1).cqHead ((ringed up).ring 1).cqTail = true ∧
    ((ringed up).ring 1).cqBase + 32 * ((ringed up).ring 1).cqTail < 2 ^ 63 ∧
    ({ up with host := { up.host with vecRaised := [35] } } : State).host.vecRaised.contains 35 = true ∧ up.pwr.st ≠ .rest ∧
    6 ∉ newEntries.host.vecRaised ∧ vectorRing 6 = some (1, false) ∧ (newEntries.ring 1).cqNew = true ∧
    newEntries.vecReady (newEntries.ring 1).holdUs (newEntries.ring 1).cqRaised = true ∧ vectorRing 7 = some (1, true) ∧
    (newEntries.ring 1).tqNew = true ∧ 7 ∉ newEntries.host.vecRaised := by decide +kernel

/-- The cantle with a record to post: in time, or late without LATE_OK. -/
def posting (missed : Bool) : State := (ringed selecting).setExt 65536 { selecting.extn 65536 with missed }
/-- A step whose budget is not used up. -/
def inTime : State := (posting false).setEntry 65536 { (posting false).entry 65536 with budget := 700, tIn := 1000 }

theorem met_TokenRecordsArePosted : ((posting true).ring 1).tqWait = [tokRec true] ∧ (posting true).hostRuns = true ∧ (posting true).runs 1 = true ∧
    ((posting true).ring 1).en = true ∧ ringFree ((posting true).ring 1).tqLog2 ((posting true).ring 1).tqHead ((posting true).ring 1).tqTail = true ∧
    (posting true).stepMissed 1 hd = true ∧ ((((posting true).extn (handleIdx hd)).carried.map (·.lateOk)).getD false) = false ∧
    inTime.stepMissed 1 hd = false ∧ (inTime.ring 1).tqWait = [tokRec true] ∧ (tokRec true).histAddr < 2 ^ 63 ∧ (tokRec true).histData ≠ [] ∧
    (inTime.ring 1).tqBase + 16 * (inTime.ring 1).tqTail < 2 ^ 63 ∧ (tokRec true).words.length = 4 := by decide +kernel

/-- A disabled ring 16 with its bases set, and the same ring in REST. -/
def bases (b : Nat) (s : State) : State := s.setRing b { s.ring b with sqBase := 0x1000, cqBase := 0x2000, tqBase := 0x3000 }
def resting : State := { up with pwr := { up.pwr with st := .rest, aclk := 0, pllLock := false } }

/-- An enabled ring 1 of a defined partition with nothing in flight, and a ring whose SQ base no address may be. -/
def emptied : State := (ringed pommel).setRing 1 { (ringed pommel).ring 1 with cqWait := [], tqWait := [] }
def badBase : State := up.setRing 16 { up.ring 16 with sqBase := 2 ^ 63, cqBase := 0x2000, tqBase := 0x3000 }

theorem met_RingRegistersAct :
    (bases 16 up).Reaches (ringOff 16 0x1C) 2 false ∧ (bases 16 resting).Reaches (ringOff 16 0x1C) 2 false ∧
    ((bases 16 up).ring 16).en = false ∧ baseOk ((bases 16 up).ring 16).sqBase = true ∧ baseOk ((bases 16 up).ring 16).cqBase = true ∧
    baseOk ((bases 16 up).ring 16).tqBase = true ∧ (emptied.part 1).defined = true ∧
    emptied.Reaches (ringOff 1 0x1C) 2 false ∧ (emptied.touch (ringOff 1 0x1C)).inflight 1 = 0 ∧
    (emptied.touch (ringOff 1 0x1C)).ringUsed 1 = false ∧ (emptied.ring 1).en = true ∧ (ringed pommel).inflight 1 ≠ 0 ∧
    (ringed pommel).Reaches (ringOff 1 0x1C) 2 false ∧ up.Reaches (ringOff 3 0x1C) 2 false ∧ (up.part 3).defined = false ∧ (up.ring 3).en = false ∧
    (badBase.Reaches (ringOff 16 0x1C) 2 false ∧ baseOk (badBase.ring 16).sqBase = false) ∧
    (up.ring 16).en = false := by
  unfold State.Reaches; decide +kernel

theorem met_RingRegistersAct_doorbells :
    (ringed up).Reaches (dbOff 1 0) 3 false ∧ ringDist 4 1 15 ≤ 2 ^ 4 - 1 - ringDist 4 0 1 ∧ 15 < 2 ^ ((ringed up).ring 1).sqLog2 ∧
    (ringed up).Reaches (dbOff 1 1) 3 false ∧ ringDist 4 3 15 ≤ ringDist 4 3 15 ∧
    (ringed up).Reaches (dbOff 1 2) 3 false ∧ ringDist 4 0 0 ≤ ringDist 4 0 0 ∧ 2 ^ ((ringed up).ring 1).sqLog2 ≤ 16 % 2 ^ 16 ∧
    up.Reaches (dbOff 0 0) 3 false ∧ (up.ring 0).en = false := by
  unfold State.Reaches; decide +kernel

def mailed (m : Nat) (ws : List Nat) (s : State) : State := s.setMbx m { s.mbx m with staging := [1, 2], held := some ws, since := 0 }
def late : State := { mailed 3 [8] up with tick := 250000 }

theorem met_MailboxesHoldOneMessage :
    up.Reaches (mbxOff 2 0x40) 2 false ∧ (up.mbx 2).held = none ∧ (mailed 2 [7] up).Reaches (mbxOff 2 0x40) 2 false ∧
    ((mailed 2 [7] up).mbx 2).held ≠ none ∧ up.pwr.st ≠ .rest ∧
    ({ up with sec := { up.sec with tdi := .run } } : State).Reaches (mbxOff 0 0x40) 2 true ∧
    (mailed 6 [7] up).barOn = true ∧ ((mailed 6 [7] up).mbx 6).held = some [7] ∧
    ({ mailed 4 [7] up with sec := { up.sec with tdi := .run } } : State).trusted = true ∧
    (mailed 2 [2] up).mbxRuns = true ∧ ((mailed 2 [2] up).mbx 6).held = none ∧
    (late.mbx 3).held = some [8] ∧ (late.mbx 3).tmoDone = false ∧ (up.mbx 6).held = none ∧ (up.mbx 6).taken = false ∧
    ((up.setMbx 6 { up.mbx 6 with taken := true }).mbx 6).taken = true ∧ up.trusted = false ∧
    ((late.setMbx 3 { late.mbx 3 with tmoDone := true }).mbx 3).held ≠ none ∧ (late.mbx 3).since + 25000 * max 1 late.host.tmoMs ≤ late.tick ∧
    find? (2 * 15 + (if true then 0 else 1)) up.host.onDie = none ∧
    find? 31 ({ up with host := { up.host with onDie := [(31, [4])] } } : State).host.onDie ≠ none := by
  unfold State.Reaches; decide +kernel

def tdiRun : State := { up with sec := { up.sec with tdi := .run } }

theorem met_RegisterAccessesAct : up.Reaches 0x60008 2 false ∧ inDebug 0x60008 = false ∧ up.accessCause 0x60008 3 false = some 0 ∧
    up.accessCause 0x6FFFC 2 false = some 1 ∧ up.accessCause 0x20000 2 false = some 2 ∧ up.barOn = true ∧
    tdiRun.trusted = true ∧ teeOpen 0x60008 = false ∧ tdiRun.accessCause 0x60008 2 false = none ∧
    up.Reaches 0x40000 2 false ∧ up.Reaches 0x30040 2 false ∧ up.host.conf = false ∧ up.Reaches (portOff 7 0) 2 false ∧ up.Reaches 0x60000 2 false ∧
    ({ up with host := { up.host with conf := true } } : State).Reaches 0x30040 2 false ∧ inSecureMbx 0x20400 = true ∧ regWidth 0x20400 ≠ none ∧
    up.trusted = false ∧ up.readReg 0x60008 ≠ none ∧ regWidth 0x60008 ≠ none ∧ inSecureMbx 0x60008 = false ∧
    regWidth 0x12C ≠ none ∧ ringOff 1 0x2C = 0x8102C := by
  unfold State.Reaches; decide +kernel
/-- The example of R445–R446: CLK_FLOOR 800, W(1) 20,000, BRAKE_W 200, ALLOW_US 10 give FP_SAFE 627. -/
def capped : State :=
  let s := member.setPart 1 { member.part 1 with table := some { w := [20000] } }
  { s with pwr := { s.pwr with clkFloor := 800, brakeW := 200, allowUs := 10 } }
theorem test_fp_safe_example : capped.fpSafe 1 = 627 ∧ capped.fpSafe 2 = 0 ∧ aBrkOf 200 = 250 ∧ capped.barOn = true ∧
    (capped.part 1).table.isSome = true := by decide +kernel

theorem met_RegisterBitsActByTheirCodes : (up.ring 16).en = false ∧ (bits 425 9 0 % 25 = 0 ∧ 100 ≤ bits 425 9 0 ∧ bits 425 9 0 ≤ 800) ∧
    ¬ (bits 410 9 0 % 25 = 0 ∧ 100 ≤ bits 410 9 0 ∧ bits 410 9 0 ≤ 800) ∧ ¬ (bits 75 9 0 % 25 = 0 ∧ 100 ≤ bits 75 9 0) ∧
    ¬ (bits 825 9 0 ≤ 800) ∧ 7 < 8 ∧ 16 < 17 ∧
    ((ringed up).ring 1).en = true ∧ (up.lwErr 7 3).ev.fresh.contains (portOff 7 8, 3) = true ∧ up.ev.fresh = [] := by decide +kernel

theorem met_WindowAndJtag : (2 ^ 28 - 1 < 2 ^ 28) ∧ (List.replicate 64 (7 : Byte)).length = 64 ∧ up.barOn = true ∧ up.pwr.phase ≠ 0 ∧ up.pwr.st ≠ .rest ∧
    ({ up with host := { up.host with conf := true } } : State).host.conf = true ∧
    ({ up with sec := { up.sec with jtag := true } } : State).sec.jtag = true ∧ up.host.conf = false := by decide +kernel

def logged : State := up.raise 0x0050 1
def ereadPkt : List Nat := pkt 0x40 0 12 [0x5000, 0, 1024]
def sreadPkt (sel : Nat) : List Nat := pkt 0x41 1 16 [sel, 0x6000, 0, 16]
def psetPkt : List Nat := pkt 0x20 2 20 [3, 1000, 0x7000, 0, 0]

/-- A cap that lowers ALLOW_US while a promised request admitted earlier is active. -/
def capPkt : List Nat := pkt 0x88 0 12 [150, 50, 5] 256
def promisedUp : State :=
  let s := withReq pommel { st := .decode, be := false, ttft := 100, tpt := 100, maxlen := 16, l := 5 }
  fetch ({ s with pwr := { s.pwr with allowUs := 10 } }) 16 capPkt

theorem met_RecordReadsAndSettings :
    (fetch logged 16 ereadPkt).InTurn 16 0x40 (.ring 16) ereadPkt ∧ nthW ereadPkt 4 ≠ 0 ∧ nthW ereadPkt 4 ≤ 1024 ∧
    addrOk (dword ereadPkt 2) (32 * nthW ereadPkt 4) = true ∧ (fetch logged 16 ereadPkt).ev.log ≠ [] ∧ dword ereadPkt 2 < 2 ^ 63 ∧
    (fetch pommel 1 (sreadPkt 0)).InTurn 1 0x41 (.ring 1) (sreadPkt 0) ∧
    ((fetch pommel 1 (sreadPkt 0)).statusWords (pktPart (sreadPkt 0)) (nthW (sreadPkt 0) 2)).isSome = true ∧
    addrOk (dword (sreadPkt 0) 3) (nthW (sreadPkt 0) 5) = true ∧
    (fetch pommel 16 psetPkt).InTurn 16 0x20 (.ring 16) psetPkt ∧ ((fetch pommel 16 psetPkt).girth (pktPart psetPkt)).st = .unset ∧
    (fetch pommel 16 psetPkt).activeOf (pktPart psetPkt) = [] ∧ nthW psetPkt 6 ≤ 16 ∧ addrOk (dword psetPkt 4) (16 * nthW psetPkt 6) = true ∧
    isRect (nthW psetPkt 2) = true ∧
    ((List.range 16).any (fun k => k ≠ pktPart psetPkt && (pommel.part k).clusters &&& nthW psetPkt 2 ≠ 0)) = false ∧
    poolList [] 0 = some [] ∧
    (fetch up 16 (pkt 0x88 0 12 [150, 50, 10000] 256)).InTurn 16 0x88 (.ring 16) (pkt 0x88 0 12 [150, 50, 10000] 256) ∧
    up.promisedBefore up.tick = false ∧ promisedUp.InTurn 16 0x88 (.ring 16) capPkt ∧ promisedUp.promisedBefore promisedUp.tick = true ∧
    nthW capPkt 4 < promisedUp.pwr.allowUs := by
  unfold State.InTurn; decide +kernel
/-! ### Statements met: girths, halter, links -/

/-- The girth record of a pair (R233): pommel (device 0) and cantle (device 91), one forward link and one return link. -/
def pairRec (gpos : Nat) : List Byte :=
  wordBytes ([1 + 2 ^ 4 * 1 + 2 ^ 8 * 1 + 2 ^ 16 * 1 + 2 ^ 24 * gpos, 2, 0] ++ List.replicate 13 0 ++ [0, 0, 0, 0] ++ [91, 0, 1, 0] ++
    [0 + 2 ^ 8 * 1 + 2 ^ 16 * 1 + 2 ^ 19 * 2 + 2 ^ 22 * 1, 0] ++ [1 + 2 ^ 8 * 0 + 2 ^ 16 * 3 + 2 ^ 19 * 4 + 2 ^ 22 * 2, 0])
def gsetPkt : List Nat := pkt 0x21 1 12 [0x4000, 0, 112]
def pairMem : HostMem := (List.range 112).zip (pairRec 0) |>.map (fun x => (0x4000 + x.1, x.2))
def unset : State := up.setPart 1 { clusters := 4 }
def tables (s : State) : State := s.setPart 1 { s.part 1 with table := some {} }
def figs (k : Nat) : Figures := { stage := k, w := 10, ar := 1, as := 1, hopIn := 2, hkPerm := 20, hkChunk := 100 }
def goReady : State :=
  (tables (onGirth up 0 2 .linked)).setGirth 1 { (onGirth up 0 2 .linked).girth 1 with round := some 900, figs := [figs 0, figs 1], kidsIn := 1 }
/-- The pommel in step 1 and in step 3 of its round, and a member that has passed the request on, with one child. -/
def inStep1 : State :=
  (tables (onGirth up 0 2 .linked)).setGirth 1 { (onGirth up 0 2 .linked).girth 1 with round := some 900, b := 64, resPos := 100, resCount := 9 }
def inStep3 : State := goReady.setGirth 1 { goReady.girth 1 with figs := [figs 0], kidsIn := 0 }
def rounding : State :=
  let s := tables (onGirth up 1 3 .linked)
  s.setGirth 1 { s.girth 1 with round := some 900, b := 64, resPos := 100, resCount := 9 }
/-- A member with a SEND entry of port 2 whose XIN is 5. -/
def sendEntry : Ingress := { port := 2, dbuf := 3, group := 0, fv := false, fport := 0, fdbuf := 0, kind := 1, xin := 5 }
def withXin : State := rounding.setPart 1 { rounding.part 1 with table := some { ingress := [sendEntry] } }

theorem met_GirthsAreSetStartedAndStopped :
    (fetch unset 1 gsetPkt).InTurn 1 0x21 (.ring 1) gsetPkt ∧ addrOk (dword gsetPkt 2) (nthW gsetPkt 4) = true ∧
    nthW gsetPkt 4 ≤ 64 + 16 * 256 + 8 * 1024 ∧ recordShape ((fetch unset 1 gsetPkt).readMem pairMem 0x4000 112) = true ∧
    (parseRecord (pairRec 0)).ok = true ∧ bits (wordAt (pairRec 0) 0) 7 4 = 1 ∧ (parseRecord (pairRec 0)).deviceAt 0 = unset.host.devId ∧
    unset.girths = [] ∧ (unset.part 1).defined = true ∧ (unset.girth 1).record = none ∧ unset.portClash 1 (parseRecord (pairRec 0)) = false ∧
    (fetch (tables (onGirth up 0 2 .linked)) 1 (pkt 0x22 1 0 [])).InTurn 1 0x22 (.ring 1) (pkt 0x22 1 0 []) ∧
    (tables (onGirth up 0 2 .linked)).isPommel 1 = true ∧ (tables (onGirth up 0 2 .linked)).canStart 1 = true ∧
    ((tables (onGirth up 0 2 .linked)).girth 1).round = none := by
  unfold State.InTurn; decide +kernel

theorem met_GirthsAreSetStartedAndStopped_rounds :
    goReady.isPommel 1 = true ∧ (goReady.girth 1).round ≠ none ∧ (goReady.girth 1).figs.length = (rec' 0 2).stages ∧
    (rec' 0 2).childPorts.length ≤ (goReady.girth 1).kidsIn ∧ (rec' 1 3).childPorts = [1] ∧ (rec' 2 3).childPorts = [] ∧
    inStep1.isPommel 1 = true ∧ (inStep1.girth 1).figs = [] ∧ (inStep1.girth 1).round ≠ none ∧ (inStep3.girth 1).figs ≠ [] ∧
    rounding.isPommel 1 = false ∧ rounding.canStart 1 = true ∧ (tables (onGirth up 1 3 .set)).canStart 1 = false ∧
    (withXin.part 1).table = some { ingress := [sendEntry] } ∧ sendEntry.xin < 6 ∧
    (((fetch unset 1 gsetPkt).part 1).table.map (fun ts => ts.strayPort (parseRecord (pairRec 0)))).getD false = false ∧
    ((onGirth up 1 3 .linked).girth 1).st = .linked ∧ (onGirth up 1 3 .linked).isPommel 1 = false ∧
    900 + 2500000 < ({ goReady with tick := 2500901 } : State).tick ∧
    (tables (onGirth up 1 3 .linked)).canStart 1 = true ∧ ((tables (onGirth up 1 3 .linked)).part 1).table = some {} ∧
    (fetch pommel 1 (pkt 0x23 1 0 [])).InTurn 1 0x23 (.ring 1) (pkt 0x23 1 0 []) ∧ (pommel.girth 1).record ≠ none ∧ (pommel.girth 1).round = none ∧
    (pommel.girth 1).st = .running ∧ (rec' 0 2).childPorts ≠ [] ∧ (pommel.girth 1).stops = [] ∧
    (member.girth 1).st = .running ∧
    (fetch member 1 (pkt 0x23 1 0 [])).InTurn 1 0x23 (.ring 1) (pkt 0x23 1 0 []) := by
  unfold State.InTurn; decide +kernel

theorem met_GirthsAreSetStartedAndStopped_stops :
    (fetch (onGirth up 0 2 .held) 1 (pkt 0x23 1 0 [])).InTurn 1 0x23 (.ring 1) (pkt 0x23 1 0 []) ∧
    (fetch (onGirth up 1 3 .linked) 1 (pkt 0x23 1 0 [])).InTurn 1 0x23 (.ring 1) (pkt 0x23 1 0 []) ∧
    ((onGirth up 1 3 .linked).girth 1).round = none ∧ ((onGirth up 0 2 .held).girth 1).stops = [] := by
  unfold State.InTurn; decide +kernel

def lateBeat : State := pommel.setGirth 1 { pommel.girth 1 with issued := [{ j := 0, tick := 100, slots := [(0, hd, 5, 700)] }] }
def holding : State :=
  (onGirth up 0 2 .held).setGirth 1 { (onGirth up 0 2 .held).girth 1 with boots := [(1, 9)] }

theorem met_HalterHoldsAndReleases : pommel.isPommel 1 = true ∧ (pommel.girth 1).st = .running ∧ (pommel.girth 1).thermalStop = false ∧
    ((lateBeat.girth 1).issued.any (fun b => b.tick + 2 * (lateBeat.girth 1).wheel.c + (lateBeat.girth 1).swapBound < lateBeat.tick)) = true ∧
    (member.isPommel 1 = false ∧ (member.girth 1).st = .running) ∧
    ((holding.setGirth 1 { holding.girth 1 with down := [1, 2] }).girth 1).down.contains 1 = true ∧ ([1, 2].erase 1 ≠ []) ∧
    (holding.isPommel 1 = true ∧ (holding.girth 1).st = .held ∧ (holding.girth 1).down = []) ∧
    (∀ k, 1 ≤ k → k < 2 → ∃ m ∈ [({ gpos := 1, boot := 9, state := 5, intact := true } : CheckReport)], m.gpos = k) ∧
    ((1, 9) ∈ (holding.girth 1).boots) ∧ ((onGirth up 1 3 .held).isPommel 1 = false ∧ ((onGirth up 1 3 .held).girth 1).st = .held) ∧
    ((holding.setGirth 1 { holding.girth 1 with checked := true }).girth 1).checked = true ∧ (holding.girth 1).restartPend = false ∧
    (holding.part 1).restarting = none ∧ (1, 8) ∉ (holding.girth 1).boots ∧ (member.girth 1).st ≠ .held ∧
    ((onGirth up 1 3 .linked).girth 1).st = .linked ∧ ((onGirth up 1 3 .linked).part 1).restarting = none ∧ ((onGirth up 1 3 .held).part 1).restarting = none ∧
    ((onGirth up 1 3 .held).girth 1).heldTick + 25000 * (rec' 1 3).halterMs ≤ ({ onGirth up 1 3 .held with tick := 2500000 } : State).tick := by
  refine ⟨by decide +kernel, by decide +kernel, by decide +kernel, by decide +kernel, by decide +kernel, by decide +kernel, by decide +kernel,
    by decide +kernel, ?_, by decide +kernel⟩
  intro k h1 h2; exact ⟨_, List.mem_singleton.2 rfl, by show 1 = k; omega⟩

def stoppedPommel : State := onGirth up 0 2 .stopped
/-- A record whose pommel has two children. -/
def twoKids : Record :=
  { rec' 0 3 with links := [{ gposA := 0, gposB := 1, portA := 1, portB := 2, use := 1, cable := 50 },
                            { gposA := 0, gposB := 2, portA := 3, portB := 2, use := 1, cable := 50 }] }
def draining : State := pommel.setGirth 1 { pommel.girth 1 with thermal := some 200, thermalStop := true }

theorem met_ReinMessagesAct : pommel.isPommel 1 = true ∧ (pommel.girth 1).record = some (rec' 0 2) ∧
    ((withReq pommel { st := .decode }).entryOf hd).map (·.part) = some 1 ∧ member.isPommel 1 = false ∧
    (member.girth 1).record = some (rec' 1 3) ∧ (pommel.girth 1).st = .running ∧ (member.girth 1).st = .running ∧ (pommel.girth 1).epoch = 0 ∧
    7 ≠ (pommel.girth 1).epoch ∧ pommel.serves = true ∧
    ({ pommel with pwr := { pommel.pwr with phase := 2 } } : State).serves = false ∧ (draining.girth 1).thermal = some 200 ∧
    200 + 2 * (draining.girth 1).wheel.c ≤ draining.tick ∧ (stoppedPommel.girth 1).st = .stopped ∧
    (rec' 0 2).childPorts.length ≤ (stoppedPommel.girth 1).stopIn + 1 ∧ ((onGirth up 0 2 .held).girth 1).st = .held ∧ (rec' 0 2).gpos = 0 ∧
    pommel.host.peerBox = none ∧ ({ pommel with host := { pommel.host with peerBox := some (0, []) } } : State).host.peerBox ≠ none ∧
    twoKids.childPorts.length = 2 ∧ (rec' 1 3).gpos = 1 := by decide +kernel

def entry2 : Ingress := { port := 2, dbuf := 0, group := 3, fv := true, fport := 1, fdbuf := 4, kind := 0, xin := 0 }
def onPort2 : State :=
  (member.setPart 1 { member.part 1 with table := some { ingress := [entry2] }, beats := [] }).setPort 2 { st := .up, en := true, keyed := true, girths := 2 }

/-- The same while a swap holds its layer at the barrier. -/
def barred : State := onPort2.setPart 1 { onPort2.part 1 with swap := some { announced := 0, swapUs := 0, matrices := [], image := [], newSteps := [], swapped := [], held := [8192] } }

theorem met_BeatMessagesAreTaken : onPort2.partOfLedger 1 = 1 ∧ bit (onPort2.port 2).girths 1 = true ∧ 5 ≠ (onPort2.girth 1).epoch ∧
    (onPort2.girth 1).st = .running ∧ onPort2.runs 1 = true ∧ (onPort2.part 1).table.isSome = true ∧
    [entry2].findIdx? (fun e => e.port = 2 && e.dbuf = 0) = some 0 ∧ [entry2][0]? = some entry2 ∧
    (onPort2.part 1).swapHeld = false ∧ (barred.part 1).swapHeld = true ∧ barred.runs 1 = true := by decide +kernel

def ported (q : Port) : State := up.setPort 5 { q with en := true }
def hello : Hello := { deviceId := 91, port := 2, hseq := 4, boot := 9, echoSeq := 3, echoV := true, hold := 10, entries := [] }
def flit (seq cls : Nat) (ok : Bool) : Flit :=
  { cls, som := true, eom := true, seq, ack := 0, av := false, nak := false, cclass := 0, ccount := 0, girth := 0, epoch := 0, len := 0, tagOk := ok }

/-- A port whose last hello of the present entries went just now, and one whose peer has used its MGMT pool up. -/
def notDue : State := ported { keyed := true, st := .up, helloTick := some 990, gotH := some 1, echoed := true }
def overPool : State := ported { keyed := true, st := .up, owed := [(poolKey 0 5, 16)] }

theorem met_LinksTrainRunAndFall : ((ported { keyed := true, st := .up }).port 5).carries = true ∧
    notDue.helloDue 5 = false ∧ (ported { keyed := true, st := .hello, sentH := [3] }).helloDue 5 = true ∧
    poolSize 5 ≤ (overPool.port 5).used 0 5 + getD 0 (poolKey 0 5) (overPool.port 5).owed ∧
    ((ported { keyed := true, st := .up }).port 5).used 0 5 + getD 0 (poolKey 0 5) ((ported { keyed := true, st := .up }).port 5).owed < poolSize 5 ∧ (ported { st := .training }).mayTrain 5 = true ∧ ((ported { st := .training }).port 5).st = .training ∧
    ((ported { keyed := true, txCount := 2 ^ 32, rxCount := 2 ^ 32 }).port 5).keyed = true ∧
    2 ^ 32 * (((ported { keyed := true, txCount := 2 ^ 32 }).port 5).txGen + 1) ≤ ((ported { keyed := true, txCount := 2 ^ 32 }).port 5).txCount ∧
    ((ported { keyed := true, st := .hello, sentH := [3] }).port 5).st = .hello ∧ hello.echoV = true ∧
    ((ported { keyed := true, st := .hello, sentH := [3] }).port 5).sentH.contains hello.echoSeq = true ∧
    (flit 0 5 false).tagOk = false ∧ (flit 0 5 true).av = false ∧ (flit 0 5 true).cls < 6 ∧ (flit 0 5 true).seq = ((ported { keyed := true, st := .up }).port 5).seqExp ∧
    (flit 4095 5 true).seq ≠ ((ported { keyed := true, st := .up }).port 5).seqExp ∧ ((ported { st := .up }).port 5).en = true ∧
    ((ported { st := .up, replayBuf := [0], ackTick := 500 }).port 5).replayBuf ≠ [] ∧ 500 + 500 ≤ up.tick ∧ PortState.up ≠ .disabled := by decide +kernel

/-! ### Statements met: disputes, arrays, housekeeping, power, resets -/

def disputed (perm : Bool) (expect : List (Nat × Int)) : Dispute :=
  { det := .proof, pass := { passRec with codes := [(0, [])] }, array := 0, cols := [1], expect, reps := [], perm, injected := false }
def disputing (d : Dispute) : State := weighted (tileAt [] { disputes := [d] })
/-- Tile 128 in its housekeeping sequence with an activity on array 8,192; the partition holds weights there. -/
def sequenced (act : Nat) (s : State) : State :=
  s.setTile 128 { s.tile 128 with gated := false, kind := .hk, at_ := 3968, hkAct := some (act, 8192) }
def raised : State := member.setPart 1 { member.part 1 with restarting := some (6, 3, 128), epoch := 15 }

/-- Every row of array 8,192 is as the stack copy has it. -/
def readable : State :=
  sums { weighted member with stackCopy := [], arrays := [(8192, { (weighted member).arr 8192 with rows := [] })] }

theorem met_DisputesAreRepeatedAndSettled :
    (disputing (disputed false [(1, 0)])).runs ((disputing (disputed false [(1, 0)])).partOfTile 128) = true ∧
    ((disputing (disputed false [(1, 0)])).tile 128).disputes = disputed false [(1, 0)] :: [] ∧ (disputed false [(1, 0)]).perm = false ∧
    (disputing (disputed false [(1, 0)])).repClean 8192 { disputed false [(1, 0)] with reps := [(disputing (disputed false [(1, 0)])).passCodes 8192 0 (blockDrive oneBlk 0) []] } = true ∧
    (disputing (disputed false [(1, 3)])).repClean 8192 { disputed false [(1, 3)] with reps := [(disputing (disputed false [(1, 3)])).passCodes 8192 0 (blockDrive oneBlk 0) []] } = false ∧
    (disputed true []).perm = true ∧
    (sequenced 1 (sums (weighted (tileAt [] {})))).inSequence 128 1 8192 = true ∧ (sums (weighted (tileAt [] {}))).inSequence 128 1 8192 = false ∧
    (sequenced 1 (sums (weighted (tileAt [] {})))).xcheckOk 8192 = true ∧ (sequenced 3 readable).inSequence 128 3 8192 = true ∧
    (sequenced 3 readable).inPass ((sequenced 3 readable).servingArray 8192) = false ∧ (sequenced 3 readable).holderOf 8192 ≠ none ∧
    ((sequenced 3 readable).arr 8192).sumsOk = true ∧
    ((sums (weighted (tileAt [] {}))).arr 8192).sumsOk = true ∧ isReserve 8192 = false ∧ isTracing 8192 = false ∧
    (sums (weighted (tileAt [] {}))).calOk 8192 = true ∧ (sums (weighted (tileAt [] {}))).calOk (pairReserve 8192) = true ∧
    (weighted member).holderOf 8192 ≠ none ∧ (weighted member).awake = true ∧
    (raised.part 1).restarting = some (6, 3, 128) ∧ raised.awake = true ∧ (raised.girth 1).st ≠ .held ∧
    ((onGirth up 1 3 .held).girth 1).st = .held := by decide +kernel

theorem readRow_of_empty (s : State) (a r : Nat) (h1 : s.servingArray a = a) (h2 : (s.arr a).rows = []) (h3 : s.stackCopy = [])
    (h4 : logicalOf (s.repair a) 0 = 0) : s.readRow a r = s.logicalRow a r % 2 ^ 256 := by
  simp only [State.readRow, State.logicalRow, h1, h2, h3]
  exact h4
theorem met_PeriodicReadback : ∀ r, r < 512 → (sequenced 3 readable).readRow 8192 r = (sequenced 3 readable).logicalRow 8192 r % 2 ^ 256 :=
  fun r _ => readRow_of_empty _ 8192 r (by decide +kernel) (by decide +kernel) (by decide +kernel) (by decide +kernel)

def kept (k : Keeper) : State := weighted (member.setArr 8192 { member.arr 8192 with keepers := [(7, k)], calOk := true })

theorem met_ArraysAreRepairedAndFaultsRaised : (kept {}).awake = true ∧ (sequenced 4 (kept { st := .stand, stand := 15, passes := 9 })).inSequence 128 4 8192 = true ∧
    (sequenced 4 (kept { st := .stand, stand := 15, passes := 9 })).inPass 8192 = false ∧ (kept {}).servingArray 8192 = 8192 ∧
    (sequenced 5 (kept { st := .rotate, rot := 480 })).inSequence 128 5 8192 = true ∧ (sequenced 5 (kept { st := .rotate, rot := 480 })).rotationDue 8192 7 = true ∧
    512 ≤ (((kept { st := .rotate, rot := 496 }).arr 8192).keeper 7).rot + 16 ∧
    (kept {}).inPass 8192 = false ∧ sortedKeys ((kept {}).arr 8192).rows = true ∧ knownSums (getD [] 8192 ({ kept {} with stackCopy := [(8192, [(1, 5)])] } : State).stackCopy) 0 ≠ [] ∧
    ((kept { st := .stand, stand := 15, passes := 9 }).arr ((kept { st := .stand, stand := 15 }).servingArray 8192)).standFor 15 = some 7 ∧
    (((kept { st := .rotate, rot := 480 }).arr 8192).keeper 7).st = .rotate ∧ (((kept { st := .rotate, rot := 480 }).arr 8192).keeper 7).rot + 16 < 512 ∧
    (kept {}).calOk ((kept {}).servingArray 8192) = true ∧ (kept {}).holderOf 8192 ≠ none ∧
    (kept {}).arrays.any (fun x => x.2.prog.isSome && x.1 ≠ 8192 && x.1 / 64 = 128) = false ∧
    ((kept {}).arrays.filter (fun x => x.2.prog.isSome && x.1 ≠ 8192)).length < 64 ∧ ((kept {}).arr 8192).prog = none ∧
    find? 8192 (kept {}).stackCopy ≠ none ∧ up.pwr.st ≠ .off ∧ up.pwr.st ≠ .dormant ∧ up.ev.halted = false ∧ up.ev.resetDue = none ∧
    ({ up with ev := { up.ev with resetDue := some (1, 5) } } : State).ev.resetDue = some (1, 5) ∧ up.pwr.tclkOk = true ∧ up.sec.bootOk = true := by
  decide +kernel

def chunky : State := tileAt [⟨1, .nop⟩] {} |>.setCluster 2 { credit := 500, creditTick := 0 }
def calibrating : State := member.setTile 128 { gated := false, calib := some (8192, 3, 400) }

/-- Cluster 2 in debt, without and with beat input waiting at one of its tiles. -/
def idleChunk : State := (tileAt [⟨1, .nop⟩] {}).setCluster 2 { credit := -999999, creditTick := 1000 }
def waitingChunk : State := (tileAt [⟨1, .nop⟩] { hdrs := [(0, vh)] }).setCluster 2 { credit := -999999, creditTick := 1000 }
/-- A tracing array's calibration in its tile's housekeeping sequence. -/
def tracingStep : State := member.setTile 128 { gated := false, kind := .hk, at_ := 3968, hkAct := some (2, 8254), calib := some (8254, 0, 400) }

theorem met_HousekeepingRuns : chunky.runs (chunky.partOfCluster 2) = true ∧ (chunky.cluster 2).chunk = false ∧ 0 < ((chunky.accrue 2).cluster 2).credit ∧
    (∃ i, i < 64 ∧ chunky.betweenRuns (2 * 64 + i) = true) ∧
    ((waitingChunk.accrue 2).cluster 2).credit ≤ 0 ∧ (waitingChunk.accrue 2).noInput 1 = false ∧ waitingChunk.runs 1 = true ∧
    (waitingChunk.cluster 2).chunk = false ∧ ((idleChunk.accrue 2).cluster 2).credit ≤ 0 ∧ (idleChunk.accrue 2).noInput 1 = true ∧
    tracingStep.isReady = true ∧ isTracing 8254 = true ∧ tracingStep.inSequence 128 2 8254 = true ∧ calibrating.inSequence 128 2 8192 = false ∧
    (tracingStep.tile 128).calib = some (8254, 0, 400) ∧ tracingStep.calRuns = true ∧ (tracingStep.arr 8254).prog = none ∧
    ({ sums member with tick := 400000 } : State).activityAge 8192 0 = some (400000, 200000) ∧ 2 * 200000 ≤ 400000 ∧
    ((sums member).arr 8192).overdue.contains 0 = false ∧ up.pwr.st ≠ .off ∧ up.pwr.tclkOk = true ∧
    (calibrating.tile 128).calib = some (8192, 3, 400) ∧ calibrating.calRuns = true ∧ (calibrating.arr 8192).prog = none ∧
    ((calibrating.tile 128).disputes.any (fun d => d.array = 0)) = false ∧ isTracing 8192 = false ∧
    standInOk (calibrating.arr 8192) (calibrating.repair 8192) 3 = true ∧
    (calOrder (calibrating.arr 8192) (calibrating.repair 8192))[3]? = some 3 ∧
    3 + 1 < (calOrder (calibrating.arr 8192) (calibrating.repair 8192)).length := by
  refine ⟨by decide +kernel, by decide +kernel, by decide +kernel, ⟨0, by decide +kernel, by decide +kernel⟩, by decide +kernel⟩

def braked (f : Filter) : State := { up with pwr := { up.pwr with filter := f, brakeOn := some 100 } }
def gateable : State := (member.setPart 1 { member.part 1 with table := some { gate := true, progs := [(128, ⟨0, 4095, [⟨1, .nop⟩]⟩)] } }).setTile 128 { gated := false }

theorem met_PowerFollowsThePins : up.filterRuns = true ∧ up.pwr.filter = .clear ∧ up.pwr.filter ≠ .toggle ∧ (braked .toggle).filterRuns = true ∧
    (braked .toggle).braking = true ∧ up.pwr.beyond = false ∧ 25 * (braked .braked).pwr.allowUs < (braked .braked).brakedTicks ∧
    ({ up with pwr := { up.pwr with beyond := true } } : State).brakedTicks ≤ 25 * up.pwr.allowUs ∧
    (({ braked .braked with tick := 2500100 } : State).pwr.brakeOn = some 100 ∧ 2500000 ≤ 2500100 - 100 ∧ up.pwr.heldRaised = false) ∧
    (up.pwr.pllLock = true ∧ up.pwr.trip = false) ∧ (up.pwr.st = .run ∧ up.pwr.cxlRef = true ∧ up.pwr.tclkOk = true) ∧
    (up.awake = true ∧ up.isReady = true ∧ up.pwr.restEn = true ∧ up.quiet = true ∧
      max 1 up.pwr.restDelay * 25000 ≤ ({ up with tick := 250000 } : State).tick - up.pwr.idleSince) ∧ resting.pwr.st = .rest ∧
    ((gateable.part (gateable.partOfTile 128)).table.map (·.gate)) = some true ∧ gateable.tileIdle 128 = true ∧
    (((gateable.setTile 128 { gated := true }).setCluster 2 { chunk := true }).tile 128).gated = true ∧
    (((gateable.setTile 128 { gated := true }).setCluster 2 { chunk := true }).cluster (128 / 64)).chunk = true ∧ gateable.hk.stop = false := by
  decide +kernel

def found : BootFound := { idOk := true, pair0Ok := true, slotA := 0, slotB := 0, cfgSig := true, certOk := true }
def phased (n : Nat) : State := { up with pwr := { up.pwr with phase := n, rebuilt := decide (n = 3) } }

theorem met_ResetsAndStartUp : found.idOk = true ∧ found.pair0Ok = true ∧ { found with idOk := false }.idOk = false ∧ up.pwr.st ≠ .off ∧ up.pwr.st ≠ .dormant ∧
    up.pwr.railsOk = true ∧ State.reset.pwr.railsOk = false ∧ State.reset.pwr.st ≠ .off ∧ State.reset.pwr.st ≠ .dormant ∧ State.reset.pwr.tclkOk = true ∧
    ({ up with pwr := { up.pwr with st := .dormant } } : State).pwr.st = .dormant ∧ find? 3 (up.setArr 3 { rows := [(0, 1)] }).arrays ≠ none ∧
    (cxlModeOk 8 64 = true ∧ (phased 1).pwr.phase = 1 ∧ (phased 1).sec.bootOk = true ∧ (phased 1).pwr.cxlRef = true ∧ (phased 1).ev.halted = false ∧
      (phased 1).pwr.st = .run) ∧ ((phased 2).awake = true ∧ (phased 2).pwr.phase = 2 ∧ (phased 2).pwr.rebuilt = false) ∧
    ((phased 3).pwr.phase = 3 ∧ (phased 3).pwr.rebuilt = true) ∧
    (({ up with pwr := { up.pwr with tclkOk := false, chipHold := true } } : State).pwr.chipHold = true) ∧
    (up.barOn = true ∧ up.sec.bootOk = true ∧ up.ev.halted = false ∧ up.ev.resetDue = none) := by decide +kernel


/-! ### Weights, swaps and inlays -/

/-- A host memory that holds bytes from address 0 on and their SHA-512 digest at 0x10000. -/
def hostOf (bs : List Byte) : HostMem := (List.range bs.length).zip bs ++ (List.range' 0x10000 64).zip (sha512 bs)

/-- A manifest: KIND, and its sections' words, each section whole. -/
def manifest (kind n : Nat) (ws : List Nat) (swapUs : Nat := 0) (nhold : Nat := 0) : List Byte :=
  wordBytes ([1 + 2 ^ 8 * kind, n, swapUs, nhold] ++ List.replicate 12 0 ++ ws)

/-- A PVAL section: BEAT_SLOTS 1, no vocabulary, no draft head (R312). -/
def pvalSec : List Nat := [1, 1, 32, 0, 1, 0, 0, 0, 0, 0, 0xFFFF0000, 0]
/-- A MATRIX section with one matrix of one weight: layer 0, shard 9, receiving group 5 (R313). -/
def matrixSec : List Nat := [2, 1, 64, 0, 0, 9, 0, 1, 1, 1, 0, 5] ++ List.replicate 8 0

def loadBytes : List Byte := manifest 0 2 (pvalSec ++ matrixSec)
def onePlan : Plan := { placed := [⟨8192, 0, 0, 0, 1⟩], progs := [], slots := [], rows := [], groups := [(5, [⟨2, 0, 0⟩])], logit := [], dlogit := [] }
/-- Partition 1 holds cluster 2, and shard 9 is the FP8 number 0x38, which is 1. -/
def empty1 : State := { up.setPart 1 { up.part 1 with clusters := 4 } with shards := [(9, (true, [0x38]))] }
def loading : State := fetch empty1 1 (pkt 0x11 1 12 [0, 0, 192])
def shardPkt (n : Nat) : State := fetch up 0 (pkt 0x10 0 24 [0, 0, n, 9, 0x10000, 0] 512)

theorem met_LoadShard : (shardPkt 1).InTurn 0 0x10 (.ring 0) (pkt 0x10 0 24 [0, 0, 1, 9, 0x10000, 0] 512) ∧
    (shardPkt 0).InTurn 0 0x10 (.ring 0) (pkt 0x10 0 24 [0, 0, 0, 9, 0x10000, 0] 512) ∧ find? 9 (shardPkt 1).shards = none ∧
    1 ≤ (shardPkt 1).shardRoom ∧ addrOk 0 1 = true ∧ addrOk 0x10000 64 = true ∧
    (shardPkt 1).digestOk (hostOf [0x38]) 0x10000 ((shardPkt 1).readMem (hostOf [0x38]) 0 1) = true := by
  unfold State.InTurn; decide +kernel

/-- The state after step 5 of LOAD_COMMIT writes its record, by the statement's own expressions. -/
def committed : Option (Prepared × State) :=
  match readManifest 0 false loadBytes with
  | none => none
  | some m => match loading.prepare 1 0 loadBytes m onePlan with
    | .inl _ => none
    | .inr x =>
      let as := x.weights.entries.map (·.placed.array)
      let s0 := loading.writeStack 1 x.rows
      let r := (s0.setPart 1 { s0.part 1 with weights := none, table := none }).programAll [] as
      let r2 := r.1.freeShards x.weights.matrices
      if r.2 then (((r2.setPart 1 { r2.part 1 with weights := some x.weights }).freshSums as).writeRecord true).map (fun s => (x, s)) else none

theorem met_LoadCommit : loading.InTurn 1 0x11 (.ring 1) (pkt 0x11 1 12 [0, 0, 192]) ∧ (loading.part 1).swap = none ∧ loading.activeOf 1 = [] ∧
    (loading.part 1).defined = true ∧ loading.readMem (hostOf loadBytes) 0 192 = loadBytes ∧ addrOk 0 192 = true ∧ loading.awake = true ∧
    ({ loading with pwr := { loading.pwr with aclk := 0 } } : State).awake = false ∧
    committed.map (fun x => (x.1.weights.entries.length, decide (((loading.setPart 1 { loading.part 1 with weights := some x.1.weights }).layoutOf 0).bytes.length
      ≤ 2 ^ 25))) = some (1, true) := by
  unfold State.InTurn; decide +kernel



def tableBytes : List Byte := manifest 2 1 pvalSec
def tabling : State := fetch (empty1.setPart 1 { empty1.part 1 with table := none }) 1 (pkt 0x80 1 20 [0, 0, 112, 0x10000, 0] 256)
def tableParts : Option (Manifest × PVal) := (readManifest 2 false tableBytes).bind (fun m => m.pval.map (fun v => (m, v)))
theorem met_TableLoad : tabling.InTurn 1 0x80 (.ring 1) (pkt 0x80 1 20 [0, 0, 112, 0x10000, 0] 256) ∧ tabling.activeOf 1 = [] ∧
    (tabling.part 1).defined = true ∧ addrOk 0 112 = true ∧ addrOk 0x10000 64 = true ∧
    tabling.digestOk (hostOf tableBytes) 0x10000 (tabling.readMem (hostOf tableBytes) 0 112) = true ∧
    tabling.readMem (hostOf tableBytes) 0 112 = tableBytes ∧
    ((tableParts.bind (fun x => (tableOf false x.2 x.1).check (tabling.part 1).clusterList tabling.heldMap x.1.members (x.2.resCount ≠ 0xFFFF))).isSome
      = true) := by
  unfold State.InTurn; decide +kernel

/-- Partition 1 holds the one matrix of one weight. -/
def oneMat : MatrixEnt :=
  { layer := 0, cmask := 0, shard := 9, offset := 0, stride := 1, inDim := 1, outDim := 1, targetW := 4, scaleV := false, trace := false, outKind := 0
    outPort := 0, outDbuf := 0, inGroup := 5, outGroup := 0, scaleOff := 0 }
def heavy : State :=
  let s := weighted empty1
  s.setPart 1 { s.part 1 with weights := some { oneArray with matrices := [oneMat], steps := [[31781]] } }
def inlaySecs : List (Nat × List (Nat × Nat × Nat)) := [(0, [(0, 0, 0x3F80)])]
def inlayBs : List Byte := wordBytes [1, 0, 0, 0, 0, 1, 0, 0, 0x3F800000, 0]
def ilPkt (n : Nat) : List Nat := pkt 0x15 1 24 [7, 0, 0, n, 0x10000, 0]
theorem met_InlayLoad : (fetch heavy 1 (ilPkt 40)).InTurn 1 0x15 (.ring 1) (ilPkt 40) ∧ find? 7 (heavy.part 1).inlays = none ∧
    (fetch heavy 1 (ilPkt 40)).digestOk (hostOf inlayBs) 0x10000 ((fetch heavy 1 (ilPkt 40)).readMem (hostOf inlayBs) 0 40) = true ∧
    (fetch heavy 1 (ilPkt 40)).readMem (hostOf inlayBs) 0 40 = inlayBs ∧ wordAt inlayBs 0 = 1 ∧ wordAt inlayBs 1 = 0 ∧ wordAt inlayBs 2 = 0 ∧
    wordAt inlayBs 3 = 0 ∧ readInlay [oneMat] 1 (inlayBs.drop 16) = some inlaySecs ∧ (inlaySecs.map (·.1)).Nodup := by
  unfold State.InTurn; decide +kernel



/-- No section: an inlay without differences, which every limit admits. -/
def ilNone : List Byte := wordBytes [0, 0, 0, 0]
def inlaid : State := fetch (heavy.setPart 1 { heavy.part 1 with inlays := [(7, [])] }) 1 (pkt 0x16 1 4 [7])
theorem met_InlayLoadEmpty : (fetch heavy 1 (ilPkt 16)).InTurn 1 0x15 (.ring 1) (ilPkt 16) ∧
    (fetch heavy 1 (ilPkt 16)).digestOk (hostOf ilNone) 0x10000 ((fetch heavy 1 (ilPkt 16)).readMem (hostOf ilNone) 0 16) = true ∧
    (fetch heavy 1 (ilPkt 16)).readMem (hostOf ilNone) 0 16 = ilNone ∧ readInlay [oneMat] 0 (ilNone.drop 16) = some [] ∧
    inlayLimits [oneMat] [] = true ∧ ((heavy.part 1).table.map (fun ts => ts.inlayFits [])).getD true = true := by
  unfold State.InTurn; decide +kernel

theorem met_InlayDrop :
    (∀ c ∈ List.range 16, inlayBytes c ([] :: heavy.parts.flatMap (fun x => x.2.inlays.map (·.2))) ≤ 2 ^ 23) ∧
    inlaid.InTurn 1 0x16 (.ring 1) (pkt 0x16 1 4 [7]) ∧ find? 7 (inlaid.part 1).inlays ≠ none ∧
    inlaid.ledger.any (fun x => x.2.part = 1 && x.2.st.active && (inlaid.extn x.1).inlay = some 7) = false ∧
    (inlaid.girth 1).claims.any (fun c => (inlaid.extn (handleIdx c.handle)).inlay = some 7) = false := by
  unfold State.InTurn; decide +kernel

/-- WEIGHTS_CLEAR of cluster 2. -/
def clearing : State := fetch heavy 16 (pkt 0x8A 0 8 [4, 65531] 256)
theorem met_WeightsClear : clearing.InTurn 16 0x8A (.ring 16) (pkt 0x8A 0 8 [4, 65531] 256) ∧ clearing.awake = true ∧
    clearing.arraysBusy (fun a => bit 4 (a / 4096)) = false ∧
    ((((clearing.loaded.filter (fun x => x.2.entries.any (fun e => bit 4 (e.placed.array / 4096)))).map (·.1)).foldl
      (fun s p => (s.loseWeights p).startTiles p) (clearing.eraseClusters 4)).writeRecord true).isSome = true := by
  unfold State.InTurn; decide +kernel

def swapBytes : List Byte := manifest 1 1 matrixSec 5000 2
def swapBytes' : List Byte := manifest 1 1 matrixSec
def swapPkt : List Nat := pkt 0x12 1 12 [0, 0, 144]
def swapReady (s : State) (w : List Nat) : State :=
  fetch { (weighted s).setPart 1 { (weighted s).part 1 with weights := some { oneArray with matrices := [oneMat], steps := [[31781]] } } with
    shards := [(9, (true, [0x30]))] } 1 w
def swapFor (s : State) (bs : List Byte) (pm : Bool) : Option Swap :=
  (readManifest 1 pm bs).bind (fun m => s.swapOf (s.part 1).clusters m { oneArray with matrices := [oneMat], steps := [[31781]] })
theorem met_SwapBegin : (swapReady pommel swapPkt).InTurn 1 0x12 (.ring 1) swapPkt ∧ (swapReady member swapPkt).InTurn 1 0x12 (.ring 1) swapPkt ∧
    (∀ k ∈ List.range 16, ((swapReady pommel swapPkt).part k).swap = none) ∧ addrOk 0 144 = true ∧ ((swapReady pommel swapPkt).part 1).inlays = [] ∧ (swapReady pommel swapPkt).readMem (hostOf swapBytes) 0 144 = swapBytes ∧
    (swapReady member swapPkt).readMem (hostOf swapBytes') 0 144 = swapBytes' ∧ (swapReady pommel swapPkt).isPommel 1 = true ∧
    (swapReady member swapPkt).isPommel 1 = false ∧
    (swapFor (swapReady pommel swapPkt) swapBytes true).map (fun sw =>
      (sw.newSteps, sw.announced, decide ((swapReady pommel swapPkt).holdBound 1 sw.matrices ≤ 5000))) = some ([(0, [31525])], 10000, true) ∧
    (swapFor (swapReady member swapPkt) swapBytes' false).map (fun sw => decide ((swapReady member swapPkt).holdBound 1 sw.matrices ≤ 5000)) =
      some true := by
  unfold State.InTurn; decide +kernel

def swapping (w : List Nat) : State :=
  let s := swapReady member w
  match swapFor s swapBytes' false with
  | some sw => s.setPart 1 { s.part 1 with swap := some sw }
  | none => s
def swapBusy : State :=
  let s := swapping (pkt 0x13 1 4 [0])
  s.setPart 1 { s.part 1 with beats := [⟨[], [], some 5, [], []⟩] }
def swapStopped : State :=
  let s := swapBusy.setPart 1 { swapBusy.part 1 with swap := (swapBusy.part 1).swap.map (fun sw => sw.hold 0) }
  { s with hk := { s.hk with stop := true } }
theorem met_SwapLayerAndEnd : swapStopped.InTurn 1 0x13 (.ring 1) (pkt 0x13 1 4 [0]) ∧
    (swapStopped.part 1).swap.map (fun sw => swapStopped.hk.stop && sw.held.contains 0) = some true ∧ swapBusy.InTurn 1 0x13 (.ring 1) (pkt 0x13 1 4 [0]) ∧ swapBusy.atBarrier 1 = false ∧ swapBusy.awake = true ∧
    (swapBusy.part 1).swap.map (fun sw => sw.matrices.any (fun m => m.2.layer = 0)) = some true ∧
    (swapping (pkt 0x13 1 4 [0])).InTurn 1 0x13 (.ring 1) (pkt 0x13 1 4 [0]) ∧
    ((swapping []).part 1).swap.map (fun sw => sw.matrices.any (fun m => m.2.layer = 0)) = some true ∧ (swapping []).awake = true ∧
    (swapping []).atBarrier 1 = true ∧ ({ swapping [] with pwr := { up.pwr with aclk := 0 } } : State).awake = false ∧ (swapping (pkt 0x14 1 0 [])).InTurn 1 0x14 (.ring 1) (pkt 0x14 1 0 []) ∧
    (((swapping []).part 1).swap.bind (fun sw => (swapping []).closeSwap 1 sw true)).isSome = true := by
  unfold State.InTurn; decide +kernel

/-! ### Expert commands, tenants and firmware -/

def xp (op : Nat) (ps : List Nat) : List Nat := pkt op 0 (4 * ps.length) ps 256
def calm : State := sums (weighted member)

/-- The same with the cluster's housekeeping credit used up. -/
def inDebt : State := (fetch calm 16 (xp 0x82 [8192])).setCluster 2 { calm.cluster 2 with credit := -999999, creditTick := 1000 }

theorem met_ExpertCommandsAct : calm.awake = true ∧ (fetch calm 16 (xp 0x82 [8192])).InTurn 16 0x82 (.ring 16) (xp 0x82 [8192]) ∧
    pktAll (xp 0x82 [8192]) = false ∧ isReserve 8192 = false ∧ isTracing 8192 = false ∧
    (fetch calm 16 (xp 0x83 [8192])).InTurn 16 0x83 (.ring 16) (xp 0x83 [8192]) ∧
    (fetch calm 16 (xp 0x84 [8192])).InTurn 16 0x84 (.ring 16) (xp 0x84 [8192]) ∧
    (fetch calm 16 (xp 0x86 [8192, 64, 0])).InTurn 16 0x86 (.ring 16) (xp 0x86 [8192, 64, 0]) ∧ addrOk 64 17408 = true ∧
    (fetch calm 16 (xp 0x82 [8192])).hkTurn 8192 = true ∧ (fetch calm 16 (xp 0x82 [8192])).namedArrays (xp 0x82 [8192]) = some [8192] ∧
    ((fetch calm 16 (xp 0x82 [8192])).host.fetched.find? (fun f => f.src = .ring 16 && f.words = xp 0x82 [8192])).bind (·.todo) = none ∧
    inDebt.hkTurn 8192 = false ∧ inDebt.InTurn 16 0x82 (.ring 16) (xp 0x82 [8192]) := by
  unfold State.InTurn; decide +kernel

/-- REPAIR_MAP_EDIT of array 8,193: the location names pair 0 of its tile. -/
def editPkt (edit : Nat) : List Nat := xp 0x89 [8193, edit]
theorem met_RepairMapEdit : (∀ e ∈ [0, 1, 2, 3], (fetch calm 16 (editPkt e)).InTurn 16 0x89 (.ring 16) (editPkt e) ∧ bits e 28 24 = 8193 / 64 % 64 / 2 ∧
    (fetch calm 16 (editPkt e)).arraysBusy (fun x => x = 8193 || x = (fetch calm 16 (editPkt e)).contentOf 8193) = false) := by
  unfold State.InTurn; decide +kernel

def noTenant : State := { up with sec := { up.sec with tenant := none } }
def scrubbed (sc : Scrub) : State := { up with sec := { up.sec with tenant := none, scrub := sc } }
def tdiAt (t : Tdi) : State :=
  { up with sec := { up.sec with tdi := t, viaTrust := true, ideKeys := [0, 1], spdm := { up.sec.spdm with session := true } } }

theorem met_TenantsBeginAndEnd : (fetch noTenant 16 (pkt 0x30 0 8 [7, 0])).InTurn 16 0x30 (.ring 16) (pkt 0x30 0 8 [7, 0]) ∧
    noTenant.sec.tenant = none ∧ noTenant.host.conf = false ∧ noTenant.sec.trngOk = true ∧
    (fetch member 16 (pkt 0x31 0 8 [7, 0])).InTurn 16 0x31 (.ring 16) (pkt 0x31 0 8 [7, 0]) ∧
    (fetch member 16 (pkt 0x31 0 8 [7, 0])).sec.tenant = some (dword (pkt 0x31 0 8 [7, 0]) 2) ∧
    (scrubbed .scrubbing).awake = true ∧ (scrubbed .scrubbing).sec.scrub = .scrubbing ∧ (scrubbed .filling).sec.scrub = .filling ∧
    (scrubbed .filling).sec.trngOk = true ∧ (tdiAt .run).sec.tdi = .run ∧ (tdiAt .run).sec.tenant ≠ none ∧ (tdiAt .run).sec.viaTrust = true ∧
    (tdiAt .locked).sec.tdi = .locked ∧ ((tdiAt .locked).sec.bootOk = true ∧ (tdiAt .locked).sec.spdm.session = true ∧
    (tdiAt .locked).sec.ideKeys.contains 0 = true ∧ (tdiAt .locked).sec.ideKeys.contains 1 = true ∧ (tdiAt .locked).sec.tdi ≠ .error) := by
  unfold State.InTurn; decide +kernel

def spdm (x : Spdm) : State := { up with sec := { up.sec with spdm := x, certOk := true } }
def allOf : Spdm := { version := true, caps := true, algs := true }

theorem met_FirmwareAnswers : (spdm allOf).sec.bootOk = true ∧ (spdm allOf).sec.spdm.version = true ∧ (spdm allOf).sec.spdm.caps = true ∧
    (∀ n, n < 5 → n ∈ [0, 1, 2, 3, 4]) ∧ (spdm allOf).sec.spdm.algs = true ∧ (spdm allOf).sec.certOk = true ∧
    (spdm allOf).sec.spdm.session = false ∧ (spdm allOf).sec.trngOk = true ∧ ((spdm allOf).measurement 2).isSome = true ∧
    (spdm { allOf with exchanged := true }).sec.spdm.exchanged = true ∧ (spdm { allOf with session := true }).sec.spdm.session = true ∧
    up.pwr.st ≠ .off ∧ up.pwr.st ≠ .dormant ∧ up.mctpOn = true := by decide +kernel

/-! ### Rules that hold of several commands, stored forms, memory -/

def stale : State := withReq pommel { st := .decode, maxlen := 16, gen := 3 }
def stalePkt (op n : Nat) : List Nat := pkt op 1 n (mkHandle 65536 4 :: List.replicate (n / 4 - 1) 0)
theorem met_UnknownHandlesAreRejected :
    (stale.entry (handleIdx (nthW (stalePkt 2 4) 2))).gen ≠ handleGen (nthW (stalePkt 2 4) 2) ∧ (up.entry (handleIdx (nthW (stalePkt 2 4) 2))).st = .free ∧
    (fetch stale 1 (stalePkt 2 4)).InTurn 1 0x02 (.ring 1) (stalePkt 2 4) ∧ (fetch stale 1 (stalePkt 3 8)).InTurn 1 0x03 (.ring 1) (stalePkt 3 8) ∧
    (fetch stale 1 (stalePkt 4 12)).InTurn 1 0x04 (.ring 1) (stalePkt 4 12) ∧ (fetch stale 1 (stalePkt 5 12)).InTurn 1 0x05 (.ring 1) (stalePkt 5 12) ∧
    (fetch stale 1 (stalePkt 6 4)).InTurn 1 0x06 (.ring 1) (stalePkt 6 4) := by
  unfold State.InTurn; decide +kernel

/-- The next packet of ring 1 has opcode `op` and no expert flag. -/
def plain (op : Nat) : Fetched := { src := .ring 1, words := pkt op 1 0 [], running := false, lost := false }
def posted (w : List Nat) : State := up.setMbx 0 { up.mbx 0 with held := some w }
theorem met_UnlistedAndExpertOpcodes : (∀ op ∈ [0, 7, 0x7F, 0x8B, 0xFF], opListed (pktOp (plain op).words) = false ∧
      (fetch member 1 (plain op).words).nextOf 1 [] (fetch member 1 (plain op).words).host.fetched = some (plain op)) ∧
    (∀ op ∈ List.range' 0x80 11, pktExpert (plain op).words = false ∧ pktOp (plain op).words = op ∧
      (fetch member 1 (plain op).words).nextOf 1 [] (fetch member 1 (plain op).words).host.fetched = some (plain op)) ∧
    (fetch member 1 (plain 0).words).serves = true ∧ ((posted (pkt 7 0 0 [])).mbx 0).held = some (pkt 7 0 0 []) ∧
    (posted (pkt 7 0 0 [])).mbxRuns = true ∧ ((posted (pkt 7 0 0 [])).mbx 4).held = none := by decide +kernel

def fullMbx : State := { up with host := { up.host with onDie := [(4, [1, 2, 3])] } }
def busyTable : State := fetch (withReq pommel { st := .paused, maxlen := 16 }) 1 (pkt 0x80 1 20 [0, 0, 112, 0x10000, 0] 256)
theorem met_BusyTargetsAreRefused : busyTable.InTurn 1 0x80 (.ring 1) (pkt 0x80 1 20 [0, 0, 112, 0x10000, 0] 256) ∧
    busyTable.ledger = [(65536, { ReqState.paused |> fun st => ({ st, maxlen := 16 } : Entry) with part := 1, gen := 3 })] ∧
    find? (2 * 2 + 0) fullMbx.host.onDie = some [1, 2, 3] := by
  unfold State.InTurn; decide +kernel

/-- The widest legal form of each stitch, and the narrowest legal engine descriptors: every form at a bound of its fields. -/
def wideOps : List StitchOp :=
  [.nop, .pass 1 3 1 6 31 1 (2 ^ 64 - 1), .pass 3 3 0 6 31 1 (2 ^ 64 - 1), .alt 4095 3 4095 3 3 7 31, .alt 4095 0 4095 2 1 6 31,
   .tally 31 1 3 (2 ^ 64 - 1), .skive 31 1 1 255 255 255 31 63, .send 31 2 63 7 1023 31 1 1 3 511, .recv 31 1 31 63 7 3 1, .wait 31,
   .proof 63 3 (2 ^ 64 - 1), .kcmp 1 (2 ^ 62 - 1), .inlay 31 127 31 3 65535, .beatEnd]
def wideBurn : BurnDesc :=
  { op := 5, rbufA := 31, rbufB := 31, ofmt := true, wb := true, group := 1023, addr := 2 ^ 32 - 64, nblk := 511, nprod := 63, tbl := 7, x8 := 255
    k := 15, param := 2 ^ 32 - 1 }
def wideAttn : AttnDesc :=
  { op := 1, rbufQ := 31, rbufX := 31, group := 1023, layer := 255, nbl := 5, dh := 2, ofmt := true, g := 64, nx := 1023, nexp := 255
    win := 2 ^ 24 - 1, param := 2 ^ 32 - 1 }
theorem met_StoredFormsSurviveEncoding : (∀ op ∈ wideOps, stitchLegal ⟨4095, op⟩ = true) ∧ stitchLegal ⟨0, .pass 0 0 0 0 0 0 0⟩ = true ∧
    (∀ op ∈ [1, 2, 3, 4, 5, 6, 7, 8, 9], burnLegal { wideBurn with op, rbufB := if op = 5 then 31 else 0 } = true) ∧
    (∀ op ∈ [1, 4, 5], attnLegal { wideAttn with op } = true) ∧ attnLegal { wideAttn with op := 2, rbufX := 0, nx := 1007 } = true ∧
    attnLegal { wideAttn with op := 3, group := 0, nx := 1007 } = true ∧ (decodeStitch 0xB).isSome = true ∧
    (decodeBurn (encodeBurn wideBurn)).isSome = true ∧ (decodeAttn (encodeAttn wideAttn)).isSome = true := by decide +kernel

/-- A state whose memories hold bytes, with a command in front that keeps them. -/
def byted : State :=
  { up with pending := [.mctpStatus], staging := [(0, 1), (65, 0)], kv := [(7, 0)], spill := [(1, 3)] }
theorem met_MemoryStaysCanonical : byted.memOk = true ∧ (∃ t, step byted = .next t) := ⟨by decide +kernel, ⟨_, rfl⟩⟩
theorem met_OnlyTheseCommandsChangeMemory : (∃ t, exec .mctpStatus byted = .next t) ∧ Instr.losesMemory .mctpStatus = false ∧
    Instr.writesKv .mctpStatus = false ∧ Instr.writesSpill .mctpStatus = false ∧ Instr.writesHost .mctpStatus = false :=
  ⟨⟨_, rfl⟩, by decide +kernel⟩

/-- O1 and O2: the queue's front command, and a tick on an empty queue, are steps of every state; so is a well-formed command (O3). -/
theorem met_WellFormedCommands : byted.pendingOk = true ∧ State.reset.pending = [] := by decide +kernel

/-! ### Results against the manual's own words -/

/-- R76, R77: `PASS` (OP 1 in [3:0]) with NEXT 0x123 in [15:4], WKIND 2 in [17:16], WIDX 1 in [19:18], PLANE 5 in [23:21], IBLK 9 in [28:24],
WR 1 in [30] and ARRAYS 0x8000000000000001 in [95:32], written out bit by bit. -/
theorem test_pass_stitch_word : decodeStitch 0x800000000000000149A61231 =
    some ⟨0x123, .pass 2 1 0 5 9 1 0x8000000000000001⟩ := by decide +kernel
/-- R97: a stitch whose reserved bit 29 is set is refused. -/
theorem test_stitch_reserved_bit : decodeStitch (0x800000000000000149A61231 + 2 ^ 29) = none := by decide +kernel
/-- FIPS 180-4's own example: the first bytes of SHA-512 of "abc". -/
theorem test_sha512_abc : (sha512 [0x61, 0x62, 0x63]).take 8 = [0xDD, 0xAF, 0x35, 0xA1, 0x93, 0x61, 0x7A, 0xBA] := by decide +kernel

end Sys2Proof.Tests
end

section
/-!
PROOFS. Which commands complete: a command whose units exist on a C16 answers a next state (O3), and what becomes of a packet that fails its
checks or has no row in the opcode table (O4, O55).
-/

namespace Sys2Proof.Machine

open Sys2Proof

/-! ### The units of a well-formed command -/

/-- Every unit that a well-formed command names exists. -/
theorem unit_lt_count {i : Instr} (hi : i.wellFormed = true) {k : UnitKind} {n : Nat} (hu : (k, n) ∈ i.units) : n < k.count := by
  simp only [Instr.wellFormed, Bool.and_eq_true, List.all_eq_true, decide_eq_true_eq] at hi
  exact hi.1 (k, n) hu

theorem operandsFit_of_wellFormed {i : Instr} (hi : i.wellFormed = true) : i.operandsFit = true := by
  simp only [Instr.wellFormed, Bool.and_eq_true] at hi
  exact hi.2

theorem completes_next (s : State) : Completes (.next s) := ⟨s, rfl⟩

theorem completes_guardUnit {ok : Bool} (h : ok = true) (s : State) : Completes (guardUnit ok s) := ⟨s, guardUnit_next.2 ⟨h, rfl⟩⟩

/-- The guard of two units: both exist. -/
theorem completes_guardUnit_both {p q : Prop} [Decidable p] [Decidable q] (hp : p) (hq : q) (s : State) :
    Completes (guardUnit (decide p && decide q) s) := completes_guardUnit (by simp [hp, hq]) s

section
variable {i : Instr} (hi : i.wellFormed = true)
include hi

theorem completes_onTile {t : Nat} (hu : (.tile, t) ∈ i.units) (s : State) : Completes (onTile t s) := ⟨s, onTile_in (unit_lt_count hi hu) s⟩
theorem completes_onCluster {c : Nat} (hu : (.cluster, c) ∈ i.units) (s : State) : Completes (onCluster c s) := ⟨s, onCluster_in (unit_lt_count hi hu) s⟩
theorem completes_onPart {p : Nat} (hu : (.partition, p) ∈ i.units) (s : State) : Completes (onPart p s) := ⟨s, onPart_in (unit_lt_count hi hu) s⟩
theorem completes_onPort {p : Nat} (hu : (.port, p) ∈ i.units) (s : State) : Completes (onPort p s) := ⟨s, onPort_in (unit_lt_count hi hu) s⟩
theorem completes_onBlock {b : Nat} (hu : (.ring, b) ∈ i.units) (s : State) : Completes (onBlock b s) := ⟨s, onBlock_in (unit_lt_count hi hu) s⟩
theorem completes_onArray {a : Nat} (hu : (.array, a) ∈ i.units) (s : State) : Completes (onArray a s) := ⟨s, onArray_in (unit_lt_count hi hu) s⟩

end

/-! ### Commands with more than one outcome -/

theorem execFabricFlitArrive_completes (n : Nat) (ue : Option Channel) (s : State) : Completes (exec (.fabricFlitArrive n ue) s) := by
  show Completes (execFabricFlitArrive n ue s)
  unfold execFabricFlitArrive
  split
  · exact completes_next _
  · split
    · exact completes_next _
    · split
      · split <;> exact completes_next _
      · dsimp only
        split <;> exact completes_next _

theorem execMemUe_completes (site : UeSite) (loc : Nat) (s : State) : Completes (exec (.memUe site loc) s) := by
  show Completes (execMemUe site loc s)
  unfold execMemUe
  split <;> exact completes_next _

theorem execMemCe_completes (loc syndrome : Nat) (s : State) : Completes (exec (.memCe loc syndrome) s) := by
  show Completes (execMemCe loc syndrome s)
  unfold execMemCe
  split <;> exact completes_next _

theorem execFinish_completes (verifyOk : Bool) (s : State) : Completes (exec (.finish verifyOk) s) := by
  show Completes (execFinish verifyOk s)
  unfold execFinish
  split
  · exact completes_next _
  · exact completes_next _

/-- A register write completes, unless it meets the debug unit outside confidential mode. -/
theorem execRegisterWrite_outcome (offset size value : Nat) (trusted : Bool) (s : State) :
    Completes (exec (.registerWrite offset size value trusted) s) ∨
      (exec (.registerWrite offset size value trusted) s = .refused .debugUnit ∧ s.host.conf = false ∧ inDebug offset = true) := by
  show Completes (execRegisterWrite offset size value trusted s) ∨ (execRegisterWrite offset size value trusted s = _ ∧ _)
  unfold execRegisterWrite
  split
  next h => exact .inr ⟨rfl, by simpa using h.2.1, h.1⟩
  next => exact .inl (completes_next _)

/-- A register read completes, unless it meets the debug unit outside confidential mode. -/
theorem execRcRead_outcome (offset : Nat) (trusted : Bool) (s : State) :
    Completes (exec (.rcRead offset trusted) s) ∨
      (exec (.rcRead offset trusted) s = .refused .debugUnit ∧ s.host.conf = false ∧ inDebug offset = true) := by
  show Completes (execRcRead offset trusted s) ∨ (execRcRead offset trusted s = _ ∧ _)
  unfold execRcRead
  split
  next h => exact .inr ⟨rfl, by simpa using h.2.1, h.1⟩
  next => exact .inl (completes_next _)

/-- A JTAG instruction completes, unless it is one of the part's own with the port open. -/
theorem execJtagInstruction_outcome (ir : Nat) (s : State) :
    Completes (exec (.jtagInstruction ir) s) ∨
      (exec (.jtagInstruction ir) s = .refused .debugUnit ∧ s.host.conf = false ∧ 2 < ir) := by
  match ir with
  | 0 | 1 | 2 => exact .inl (completes_next _)
  | n + 3 =>
    show Completes (execJtagInstruction (n + 3) s) ∨ (execJtagInstruction (n + 3) s = _ ∧ _)
    simp only [execJtagInstruction]
    split
    next => exact .inl (completes_next _)
    next h => exact .inr ⟨rfl, by simp_all, by omega⟩

/-! ### Every well-formed command (O3) -/

/-- Settles O3: every command that names a unit is guarded by that unit alone, which exists; the others complete as they stand, but for the two
register accesses and the JTAG instruction that can meet the debug unit. -/
theorem wellFormedCommandsNeverFault : Obligations.WellFormedCommandsNeverFault := by
  unfold Obligations.WellFormedCommandsNeverFault
  intro i s hi
  cases i with
  | registerWrite offset size value trusted =>
    exact (execRegisterWrite_outcome offset size value trusted s).imp_right
      (fun ⟨hr, hc, hd⟩ => ⟨hr, hc, .inl ⟨offset, size, value, trusted, rfl, hd⟩⟩)
  | rcRead offset trusted =>
    exact (execRcRead_outcome offset trusted s).imp_right (fun ⟨hr, hc, hd⟩ => ⟨hr, hc, .inr (.inl ⟨offset, trusted, rfl, hd⟩)⟩)
  | jtagInstruction ir =>
    exact (execJtagInstruction_outcome ir s).imp_right (fun ⟨hr, hc, hd⟩ => ⟨hr, hc, .inr (.inr ⟨ir, rfl, hd⟩)⟩)
  | fabricFlitArrive n ue => exact .inl (execFabricFlitArrive_completes n ue s)
  | memUe site loc => exact .inl (execMemUe_completes site loc s)
  | memCe loc syndrome => exact .inl (execMemCe_completes loc syndrome s)
  | finish verifyOk => exact .inl (execFinish_completes verifyOk s)
  | submit b h | cancel b | pause b | resume b | query b | drop b | loadShard b h | loadCommit b h plan bad flashOk | swapBegin b h us
  | swapLayer b bad | swapEnd b flashOk | inlayLoad b h | inlayDrop b | partitionSet b h | girthSet b h | girthStart b | girthStop b
  | tenantBegin b | tenantEnd b | eventRead b | statusRead b | tableLoad b h | promiseModelSet b | calibrate b trims | proofRun b err
  | xcheckRun b err | housekeepSet b | arrayReadback b | logitBiasSet b h | powerCapSet b | repairMapEdit b bad
  | weightsClear b residue flashOk | unsupportedOpcode b | commandFetch b h err | cqWrite b | sqDb b value trusted | cqDb b value trusted
  | tqDb b value trusted | ringEnable b trusted | ringDisable b trusted =>
    exact .inl (completes_onBlock hi (List.mem_cons_self ..) _)
  | nop t | pass t | passCodesReady t tracing err | alt t | tally t | skive t | send t | recv t | wait t | proof t err | kcmp t | inlay t
  | beatEnd t | fabStall t | disputeRepetition t err | settlement t | tileGate t | tileWake t =>
    exact .inl (completes_onTile hi (List.mem_cons_self ..) _)
  | onDieMbxWrite c toSaddler words | inlayEngineCommit c | add c | rmsnorm c | lnorm c | act c | gate c | rope c | scale c | route c | store c
  | attn c | stload c | ststore c | dispatch c | combine c | hkChunkStart c =>
    exact .inl (completes_onCluster hi (List.mem_cons_self ..) _)
  | tokenRecordPost p | beatIssue p emb | beatStart p | beatOut p slot | awlSelect p | verdict p epoch v | draftRound p handle vec
  | commit p handle newL epoch toks | claim p m | claimReturn p handle | refuse p handle | release p handle undo | stop p up k
  | restart p gpos epoch chipReset | peerDown p gpos | linkUp p gpos | flush p | check p reports commits ended | releaseHalt p epoch
  | peerMbx gpos dst p m | mbxNak p m | thermalStop p gpos drain | thermalDrainTimeout p | girthGo p tGap | startRoundTimeout p
  | beatReturnTimeout p | halterTimeout p | holdDeadline p handle | ttlExpiry p handle | pauseMigrate p handle writeFails
  | saddlebagWriteDone p handle failed | resumeRead p handle blocks | readmit p handle | partitionRestart p f bad
  | startRoundFigures p step stages slots resPos resCount hret ok gpos boots =>
    exact .inl (completes_onPart hi (List.mem_cons_self ..) _)
  | lwRetrain p trusted | lwEnable p on trusted | ingressMessage p girth dbuf epoch hdr body | readyMark p girth epoch
  | draftRecord p girth epoch dr | lwTrainingDone p result peerKeyId | linkKeyUpdate p tx | helloSend p | helloReceive p hello rtt
  | flitReceive p f | nakReceive p ack | ackTimeout p | linkDown p =>
    exact .inl (completes_onPort hi (List.mem_cons_self ..) _)
  | patchDone array column bad | crossCheck array seed err | periodicReadback array drift bad | hkOverdue array activity | calStep trim
  | knownSumsComputed array wrong =>
    exact .inl (completes_onArray hi (List.mem_cons_self ..) _)
  | msixRaise v => exact .inl (completes_guardUnit (decide_eq_true (unit_lt_count hi (k := .vector) (List.mem_cons_self ..))) _)
  | mbxSend m trusted | mbxWithdraw m trusted | mbxCommandTake m h =>
    exact .inl (completes_guardUnit (decide_eq_true (unit_lt_count hi (k := .inbox) (List.mem_cons_self ..))) _)
  | mbxTake m trusted =>
    exact .inl (completes_guardUnit_both (of_decide_eq_true (operandsFit_of_wellFormed hi))
      (unit_lt_count hi (k := .mailbox) (List.mem_cons_self ..)) _)
  | mbxTimeout m => exact .inl (completes_guardUnit (decide_eq_true (unit_lt_count hi (k := .mailbox) (List.mem_cons_self ..))) _)
  | stagingWindowAccess line write =>
    exact .inl (completes_guardUnit (decide_eq_true (unit_lt_count hi (k := .line) (List.mem_cons_self ..))) _)
  | sliceRefresh c bank =>
    exact .inl (completes_guardUnit_both (unit_lt_count hi (k := .cluster) (List.mem_cons_self ..))
      (unit_lt_count hi (k := .bank) (List.mem_cons_of_mem _ (List.mem_cons_self ..))) _)
  | awlGather c p =>
    exact .inl (completes_guardUnit_both (unit_lt_count hi (k := .cluster) (List.mem_cons_self ..))
      (unit_lt_count hi (k := .partition) (List.mem_cons_of_mem _ (List.mem_cons_self ..))) _)
  | grant p port dbuf epoch =>
    exact .inl (completes_guardUnit_both (unit_lt_count hi (k := .partition) (List.mem_cons_self ..))
      (unit_lt_count hi (k := .port) (List.mem_cons_of_mem _ (List.mem_cons_self ..))) _)
  | lossOfSignal p lane =>
    exact .inl (completes_guardUnit_both (unit_lt_count hi (k := .port) (List.mem_cons_self ..))
      (unit_lt_count hi (k := .lane) (List.mem_cons_of_mem _ (List.mem_cons_self ..))) _)
  | keeperRotation array k =>
    exact .inl (completes_guardUnit_both (unit_lt_count hi (k := .array) (List.mem_cons_self ..))
      (unit_lt_count hi (k := .stage) (List.mem_cons_of_mem _ (List.mem_cons_self ..))) _)
  | rowProgramAttempt a =>
    exact .inl (completes_guardUnit_both (unit_lt_count hi (k := .array) (List.mem_cons_self ..))
      (unit_lt_count hi (k := .row) (List.mem_cons_of_mem _ (List.mem_cons_self ..))) _)
  | accessErr | dormantRequest | periodWrite | injectKeep | injectProof | injectCe | chipReset | watchdog | hkRound | thermtrip | aclkChange
  | brakeOn | brakeToggle | brakeOff | brakeBeyond | brakeHeld | refclkLost | tclkRecovered | railBrownout | restEntry | restExit
  | dormantWake | powerOnReset | warmReset | functionLevelReset | mainRailsValid | cxlTrain | rebuild | startupReady | scrubComplete
  | fillComplete | stopInterface | tdispError | firmwareUpdate | getEventRecords | clearEventRecords | cperRead | mctpStatus | trngFail
  | powerRemoved | tdiRun | refclkRestored | trngHealthPass | beyondClear | ideKm | getVersion | getCapabilities | negotiateAlgorithms
  | getDigests | getCertificate | challenge | getMeasurements | keyExchange | keyUpdate | heartbeat | endSession =>
    exact .inl (completes_next _)

/-! ### Packets that fail their checks (O4, O55) -/

/-- A packet that fails the checks of `packetOk` is answered REJECT_PARAM, whatever its command's effect would be. -/
theorem command_rejects {s : State} {b op : Nat} {c : Fetched} (hb : b < 17) (hs : s.serves = true) (hc : s.taken b op = some c)
    (hp : packetOk c.src c.words = false) (f : CmdEffect) : command b op f s = .next (s.reply c.src c.words 0x04) := by
  simp [command, onBlock_in hb, hs, hc, hp]

/-- Settles O4: the one operation that carries out packets asks for `packetOk` before the effect. -/
theorem failedPacketChecksReplyRejectParam : Obligations.FailedPacketChecksReplyRejectParam :=
  fun _ _ f _ _ hb hs hc hp => command_rejects hb hs hc hp f

/-- A packet of an expert opcode without its flag fails its checks (R11). -/
theorem packetOk_expert {w : List Nat} (src : CmdSrc) (he : pktExpert w = false) (ho : 0x80 ≤ pktOp w) : packetOk src w = false := by
  simp [packetOk, he, Nat.not_lt.2 ho]

/-- An expert command's packet without its flag is answered REJECT_PARAM (R11). -/
theorem command_rejects_expert {s : State} {b op : Nat} {c : Fetched} (hb : b < 17) (hs : s.serves = true) (he : pktExpert c.words = false)
    (ho : 0x80 ≤ op) (hc : s.taken b op = some c) (f : CmdEffect) : command b op f s = .next (s.reply c.src c.words 0x04) :=
  command_rejects hb hs hc (packetOk_expert c.src he ((State.taken_mem hc).2 ▸ ho)) f

/-- UNSUPPORTED from a ring (R13): the next packet of the block has an unlisted opcode. -/
theorem execUnsupportedOpcode_replies {s : State} {b : Nat} {c : Fetched} (hb : b < 17) (hs : s.serves = true)
    (hc : s.nextOf b [] s.host.fetched = some c) (ho : opListed (pktOp c.words) = false) :
    exec (.unsupportedOpcode b) s = .next (s.reply c.src c.words 0x0E) := by
  show execUnsupportedOpcode b s = _
  simp [execUnsupportedOpcode, onBlock_in hb, hs, hc, ho]

/-- A mailbox that firmware reads gives its message to the command that the message spells. -/
theorem execMbxCommandTake_takes {s : State} {m : Nat} {w : List Nat} (hm : m < 4) (hw : (s.mbx m).held = some w) (hr : s.mbxRuns = true)
    (he : (s.mbx (m + 4)).held = none) (h : HostMem) :
    exec (.mbxCommandTake m h) s = .next ((s.setMbx m { s.mbx m with held := none }).mbxCommand m w) := by
  show execMbxCommandTake m h s = _
  simp [execMbxCommandTake, guardUnit, hm, hw, hr, he]

/-- Settles O55: an unlisted opcode is refused before any other check, an expert opcode without its flag by the checks of `packetOk`. -/
theorem unlistedAndExpertOpcodes : Obligations.UnlistedAndExpertOpcodes := by
  unfold Obligations.UnlistedAndExpertOpcodes
  refine ⟨fun s b c hb hs hc ho => execUnsupportedOpcode_replies hb hs hc ho, fun s b c hb hs he => ?_, fun s m h w hm hw hr hf ho => ?_⟩
  · have reject (op : Nat) (ho : 0x80 ≤ op) (f : CmdEffect) (hc : s.taken b op = some c) :
        command b op f s = .next (s.reply c.src c.words 0x04) := command_rejects_expert hb hs he ho hc f
    simp only [exec, execTableLoad, execPromiseModelSet, execCalibrate, execProofRun, execXcheckRun, execHousekeepSet, execArrayReadback,
      execLogitBiasSet, execPowerCapSet, execRepairMapEdit, execWeightsClear]
    exact ⟨fun hc _ => reject 0x80 (by decide) _ hc, reject 0x81 (by decide) _, fun hc _ => reject 0x82 (by decide) _ hc,
      fun hc _ => reject 0x83 (by decide) _ hc, fun hc _ => reject 0x84 (by decide) _ hc, reject 0x85 (by decide) _,
      reject 0x86 (by decide) _, fun hc _ => reject 0x87 (by decide) _ hc, reject 0x88 (by decide) _,
      fun hc _ => reject 0x89 (by decide) _ hc, fun hc _ _ => reject 0x8A (by decide) _ hc⟩
  · rw [execMbxCommandTake_takes hm hw hr hf, State.mbxCommand]
    simp [ho]

end Sys2Proof.Machine
end

section
/-!
PROOFS. The registers of BAR0: which register an offset names, what a write does to the bits of a register (O36), and what register accesses
do (O35).
-/

namespace Sys2Proof.Machine

open Sys2Proof

/-! ### Bits of a number -/

theorem bit_eq_testBit (n i : Nat) : bit n i = n.testBit i := by
  rw [bit, Nat.testBit_eq_decide_div_mod_eq]; rfl

/-- The number whose bits below `n` are given by `p`. -/
def ofBitsBelow (p : Nat → Bool) (n : Nat) : Nat := ((List.range n).map (fun i => if p i then 2 ^ i else 0)).sum

theorem ofBitsBelow_succ (p : Nat → Bool) (n : Nat) : ofBitsBelow p (n + 1) = ofBitsBelow p n + (if p n then 2 ^ n else 0) := by
  simp [ofBitsBelow, List.range_succ]

theorem ofBitsBelow_lt (p : Nat → Bool) (n : Nat) : ofBitsBelow p n < 2 ^ n := by
  induction n with
  | zero => simp [ofBitsBelow]
  | succ n ih =>
    rw [ofBitsBelow_succ, Nat.pow_succ]
    split <;> omega

theorem testBit_ofBitsBelow (p : Nat → Bool) (n j : Nat) (hj : j < n) : (ofBitsBelow p n).testBit j = p j := by
  induction n with
  | zero => omega
  | succ n ih =>
    rw [ofBitsBelow_succ, Nat.add_comm]
    rcases Nat.lt_succ_iff_lt_or_eq.1 hj with h | rfl
    · cases p n
      · simpa using ih h
      · simpa [Nat.testBit_two_pow_add_gt h] using ih h
    · have hn : (ofBitsBelow p j).testBit j = false := Nat.testBit_lt_two_pow (ofBitsBelow_lt p j)
      cases hp : p j
      · simpa using hn
      · simp [Nat.testBit_two_pow_add_eq, hn]

/-- What a write leaves of an RW1C register, bit by bit (R8, R10). -/
theorem State.bit_rw1c (s : State) (off x v : Nat) {i : Nat} (hi : i < 32) : bit (s.rw1c off x v) i = (bit x i && !s.clears off v i) := by
  rw [bit_eq_testBit]
  exact testBit_ofBitsBelow (fun i => bit x i && !s.clears off v i) 32 i hi

/-! ### Offsets -/

/-- The offset of a port's register names that port and register. -/
theorem State.writeReg_portOff (s : State) {p o : Nat} (hp : p < 8) (ho : o < 0x800) (v : Nat) :
    s.writeReg (portOff p o) v = s.writePort p o v := by
  have region : portOff p o / 0x10000 = 7 := by unfold portOff; omega
  have port : portOff p o % 0x10000 / 0x800 = p := by unfold portOff; omega
  have reg : portOff p o % 0x10000 % 0x800 = o := by unfold portOff; omega
  simp only [State.writeReg, region, port, reg]

/-- The offset of a ring block's register names that block and register. -/
theorem State.writeReg_ringOff (s : State) {b o : Nat} (hb : b < 17) (ho : o < 0x1000) (v : Nat) :
    s.writeReg (ringOff b o) v = s.writeRing b o v := by
  by_cases h : b = 16
  · subst h
    have region : (0x100 + o) / 0x10000 = 0 := by omega
    have low : (0x100 + o) % 0x10000 = 0x100 + o := by omega
    have reg : 0x100 + o - 0x100 = o := by omega
    simp only [ringOff, if_pos, State.writeReg, region, low, reg]
    rw [if_neg (by omega), if_pos (by omega)]
  · have region : (0x80000 + 0x1000 * b + o) / 0x10000 = 8 := by omega
    have block : (0x80000 + 0x1000 * b + o) % 0x10000 / 0x1000 = b := by omega
    have reg : (0x80000 + 0x1000 * b + o) % 0x10000 % 0x1000 = o := by omega
    simp only [ringOff, if_neg h, State.writeReg, region, block, reg]

/-! ### Register bits (O36) -/

/-- LW_ERR of a port after a write (R244). -/
theorem State.writeReg_lwErr (s : State) {p : Nat} (hp : p < 8) (v : Nat) :
    s.writeReg (portOff p 8) v = s.setPort p { s.port p with err := s.rw1c (portOff p 8) (s.port p).err v } := by
  rw [s.writeReg_portOff hp (by decide), show portOff p 8 = 0x70008 + 0x800 * p by unfold portOff; omega]
  rfl

/-- CLK_FLOOR after a write (R436, R437). -/
theorem State.writeReg_clkFloor (s : State) (v : Nat) : s.writeReg 0x60008 v =
    if bits v 9 0 % 25 = 0 ∧ 100 ≤ bits v 9 0 ∧ bits v 9 0 ≤ 800 then { s with pwr := { s.pwr with clkFloor := bits v 9 0 } } else s := rfl

/-- Settles O36: each register's write goes through the offset it names; the RW1C registers are read bit by bit with `State.bit_rw1c`. -/
theorem registerBitsActByTheirCodes : Obligations.RegisterBitsActByTheirCodes := by
  unfold Obligations.RegisterBitsActByTheirCodes
  intro s v
  refine ⟨fun i hi => ⟨s.bit_rw1c 0x30000 _ v hi, s.bit_rw1c 0x40018 _ v hi, s.bit_rw1c 0x60024 _ v hi, fun p hp => ?_⟩,
    fun b hb => ?_, rfl, fun h => ?_, fun h => ?_, rfl⟩
  · rw [s.writeReg_lwErr hp, State.setPort_same]
    exact s.bit_rw1c _ _ v hi
  · rw [s.writeReg_ringOff hb (o := 0x00) (by decide), s.writeReg_ringOff hb (o := 0x08) (by decide),
      s.writeReg_ringOff hb (o := 0x10) (by decide)]
    exact ⟨fun hen => by simp [State.writeRing, hen], fun hen => by simp [State.writeRing, hen]⟩
  · rw [s.writeReg_clkFloor, if_pos h]
  · rw [s.writeReg_clkFloor, if_neg h]

/-! ### Accesses that meet the device (O35) -/

theorem State.touch_alwaysOn (s : State) {off : Nat} (h : inAlwaysOn off = true) : s.touch off = s := by simp [State.touch, h]

@[simp] theorem State.leaveRest_host (s : State) : s.leaveRest.host = s.host := by
  simp only [State.leaveRest]; split <;> rfl

@[simp] theorem State.touch_host (s : State) (off : Nat) : (s.touch off).host = s.host := by
  simp only [State.touch]; split <;> simp

/-- The secure mailboxes lie in a region that the always-on domain serves. -/
theorem inAlwaysOn_of_inSecureMbx {off : Nat} (h : inSecureMbx off = true) : inAlwaysOn off = true := by
  simp only [inSecureMbx, Bool.and_eq_true, decide_eq_true_eq] at h
  have : off / 0x10000 = 2 := by omega
  simp [inAlwaysOn, this]

/-- A register outside the debug region is written as `onWrite` has it. -/
theorem execRegisterWrite_open {off : Nat} (hd : inDebug off = false) (s : State) (size v : Nat) (tr : Bool) :
    exec (.registerWrite off size v tr) s = .next (s.onWrite off size tr (fun s => s.writeReg off (v % 2 ^ (8 * 2 ^ size)))) := by
  show execRegisterWrite off size v tr s = _
  simp [execRegisterWrite, hd]

/-- A write that reaches no register is logged (R276). -/
theorem State.onWrite_logged {s : State} {off size c : Nat} {tr : Bool} (hb : s.barOn = true)
    (hc : (s.touch off).accessCause off size tr = some c) (f : State → State) :
    s.onWrite off size tr f = (s.touch off).logAccess off size c true := by
  simp [State.onWrite, hb, hc]

/-- A write that would reach its register from outside the trusted stream is discarded (R418). -/
theorem State.onWrite_refused {s : State} {off size : Nat} (hb : s.barOn = true) (hc : (s.touch off).accessCause off size false = none)
    (ht : (s.touch off).trusted = true) (ho : teeOpen off = false) (f : State → State) :
    s.onWrite off size false f = (s.touch off).teeRefuse off := by
  simp [State.onWrite, hb, hc, ht, ho]

/-- An access that reaches no register is logged, and a read of that kind returns zero (R276). -/
theorem execAccessErr_logged {s : State} {off size c : Nat} {tr : Bool} (hb : s.barOn = true)
    (hc : (s.touch off).accessCause off size tr = some c) (wr : Bool) :
    exec (.accessErr off size wr tr) s =
      .next ((if wr then s.touch off else (s.touch off).emit (.readData off 0)).logAccess off size c wr) := by
  show execAccessErr off size wr tr s = _
  simp [execAccessErr, hb, hc]

/-- CHK_INJECT is armed by a write that reaches it outside confidential mode. -/
theorem State.inject_open (s : State) (hc : s.host.conf = false) (a c : Nat) (keep proof ce : Bool) :
    s.inject a c keep proof ce = { s with ev := { s.ev with
      injArray := a % 2 ^ 16, injColumn := c % 2 ^ 8
      injKeep := if keep then some (a % 2 ^ 16, c % 2 ^ 8) else s.ev.injKeep
      injProof := if proof then some (a % 2 ^ 16, c % 2 ^ 8) else s.ev.injProof
      injCe := if ce then some (a % 2 ^ 16) else s.ev.injCe } } := by
  simp [State.inject, hc]

/-- CHK_INJECT does nothing in confidential mode (R428). -/
theorem State.inject_conf (s : State) (hc : s.host.conf = true) (a c : Nat) (keep proof ce : Bool) : s.inject a c keep proof ce = s := by
  simp [State.inject, hc]

/-- A write that reaches CHK_INJECT, of any of its three commands. -/
theorem exec_inject {s : State} {tr : Bool} (h : s.Reaches 0x30040 2 tr) (a c : Nat) :
    exec (.injectKeep a c tr) s = .next ((s.touch 0x30040).inject a c true false false) ∧
    exec (.injectProof a c tr) s = .next ((s.touch 0x30040).inject a c false true false) ∧
    exec (.injectCe a c tr) s = .next ((s.touch 0x30040).inject a c false false true) :=
  ⟨congrArg _ (State.onWrite_reaches h _), congrArg _ (State.onWrite_reaches h _), congrArg _ (State.onWrite_reaches h _)⟩

/-- The injection commands that reach CHK_INJECT: each arms its own injection, none in confidential mode. -/
theorem exec_inject_acts {s : State} {tr : Bool} (h : s.Reaches 0x30040 2 tr) (a c : Nat) :
    (s.host.conf = false →
      CompletesWith (exec (.injectKeep a c tr) s) (fun t => t.ev.injKeep = some (a % 2 ^ 16, c % 2 ^ 8)) ∧
      CompletesWith (exec (.injectProof a c tr) s) (fun t => t.ev.injProof = some (a % 2 ^ 16, c % 2 ^ 8)) ∧
      CompletesWith (exec (.injectCe a c tr) s) (fun t => t.ev.injCe = some (a % 2 ^ 16))) ∧
    (s.host.conf = true → ∀ i ∈ [Instr.injectKeep a c tr, .injectProof a c tr, .injectCe a c tr], exec i s = .next (s.touch 0x30040)) := by
  obtain ⟨keep, proof, ce⟩ := exec_inject h a c
  have conf : (s.touch 0x30040).host.conf = s.host.conf := by rw [State.touch_host]
  refine ⟨fun hc => ?_, fun hc => ?_⟩
  · rw [hc] at conf
    rw [keep, proof, ce, State.inject_open _ conf, State.inject_open _ conf, State.inject_open _ conf]
    exact ⟨⟨_, rfl, rfl⟩, ⟨_, rfl, rfl⟩, ⟨_, rfl, rfl⟩⟩
  · rw [hc] at conf
    simp only [List.forall_mem_cons, keep, proof, ce, State.inject_conf _ conf]
    simp

/-! ### RC_READ (R8) -/

section
variable {s : State} (hb : s.barOn = true)
include hb

/-- ACC_CNT reads its count and is cleared. -/
theorem execRcRead_accCnt (tr : Bool) : exec (.rcRead 0x30 tr) s =
    .next { s.emit (.readData 0x30 s.host.accCnt) with host := { s.host with accCnt := 0 } } := by
  show execRcRead 0x30 tr s = _
  simp [execRcRead, hb, inDebug, inSecureMbx, s.touch_alwaysOn (off := 0x30) (by decide)]

/-- BRK_CNT reads its count and is cleared. -/
theorem execRcRead_brkCnt (tr : Bool) : exec (.rcRead 0x6001C tr) s =
    .next { s.emit (.readData 0x6001C s.pwr.brkCnt) with pwr := { s.pwr with brkCnt := 0 } } := by
  show execRcRead 0x6001C tr s = _
  simp [execRcRead, hb, inDebug, inSecureMbx, s.touch_alwaysOn (off := 0x6001C) (by decide)]

/-- NOTICE_LOST of the management block reads its count and is cleared. -/
theorem execRcRead_mgmtNoticeLost (tr : Bool) : exec (.rcRead 0x12C tr) s =
    .next ((s.emit (.readData 0x12C (s.ring 16).noticeLost)).setRing 16 { s.ring 16 with noticeLost := 0 }) := by
  show execRcRead 0x12C tr s = _
  simp [execRcRead, hb, inDebug, inSecureMbx, s.touch_alwaysOn (off := 0x12C) (by decide)]

/-- NOTICE_LOST of a partition's block reads its count and is cleared. -/
theorem execRcRead_noticeLost {p : Nat} (hp : p < 16) (tr : Bool) :
    exec (.rcRead (ringOff p 0x2C) tr) s = .next (((s.touch (ringOff p 0x2C)).emit
      (.readData (ringOff p 0x2C) ((s.touch (ringOff p 0x2C)).ring p).noticeLost)).setRing p
        { (s.touch (ringOff p 0x2C)).ring p with noticeLost := 0 }) := by
  have off : ringOff p 0x2C = 0x80000 + 0x1000 * p + 0x2C := if_neg (by omega)
  have region : ringOff p 0x2C / 0x10000 = 8 ∧ ringOff p 0x2C % 0x1000 = 0x2C := by omega
  have block : ringOff p 0x2C % 0x10000 / 0x1000 = p := by omega
  have debug : inDebug (ringOff p 0x2C) = false := by simp [inDebug]; omega
  have mbx : inSecureMbx (ringOff p 0x2C) = false := by simp [inSecureMbx]; omega
  show execRcRead (ringOff p 0x2C) tr s = _
  simp only [execRcRead, hb, debug, mbx, block]
  rw [if_neg (by simp), if_neg (by simp), if_neg (by simp), if_neg (by simp), if_neg (by omega), if_neg (by omega), if_neg (by omega),
    if_pos region]

/-- A secure mailbox outside the trusted stream reads zero, and the read is logged (R303). -/
theorem execRcRead_secure {off : Nat} {tr : Bool} (hd : inDebug off = false) (hm : inSecureMbx off = true) (hw : regWidth off ≠ none)
    (ht : s.trusted = false ∨ tr = false) :
    exec (.rcRead off tr) s = .next ((s.emit (.readData off 0)).logAccess off 2 2 false) := by
  have outside : ¬ (s.trusted = true ∧ tr = true) := by rcases ht with h | h <;> simp [h]
  show execRcRead off tr s = _
  simp [execRcRead, hd, hb, hm, s.touch_alwaysOn (inAlwaysOn_of_inSecureMbx hm), Option.isSome_iff_ne_none.2 hw, outside]

/-- Any other register reads the value that the state gives it. -/
theorem execRcRead_plain {off v : Nat} {tr : Bool} (hd : inDebug off = false) (hm : inSecureMbx off = true → s.trusted = true ∧ tr = true)
    (hw : regWidth off ≠ none) (ha : off ≠ 0x30) (hk : off ≠ 0x6001C) (hn : off ≠ 0x12C) (hr : ¬ (off / 0x10000 = 8 ∧ off % 0x1000 = 0x2C))
    (h15 : 0x20400 ≤ off → off < 0x20800 → off % 0x100 ≠ 0x3C) (hv : (s.touch off).readReg off = some v) :
    exec (.rcRead off tr) s = .next ((s.touch off).emit (.readData off v)) := by
  have inside : ¬ (inSecureMbx off = true ∧ (regWidth off).isSome = true ∧ ¬ ((s.touch off).trusted = true ∧ tr = true)) := by
    rintro ⟨hs, -, ht⟩
    rw [s.touch_alwaysOn (inAlwaysOn_of_inSecureMbx hs)] at ht
    exact ht (hm hs)
  have plain : ¬ ((regWidth off).isNone = true ∨ (0x20400 ≤ off ∧ off < 0x20800 ∧ off % 0x100 = 0x3C)) := by
    rintro (h | ⟨h1, h2, h3⟩)
    · exact hw (Option.isNone_iff_eq_none.1 h)
    · exact h15 h1 h2 h3
  show execRcRead off tr s = _
  simp only [execRcRead, hb, hd]
  rw [if_neg (by simp), if_neg (by simp), if_neg (by simp), if_neg inside, if_neg ha, if_neg hk, if_neg hn, if_neg hr, State.plainRead,
    if_neg plain, hv]

end

/-- PWR_STAT as its fields. -/
theorem State.readReg_pwrStat (s : State) : s.readReg 0x60004 = some (pstateCode s.pwr.st +
    8 * b2n s.braking + 16 * b2n s.pwr.beyond + 32 * b2n (s.pwr.capClk < 800) + 64 * b2n (s.pwr.filter = .toggle)) := rfl

/-- CLK_STAT as its fields: ACLK in MHz, and twice that in the field from bit 10. -/
theorem State.readReg_clkStat (s : State) : s.readReg 0x6000C = some (s.pwr.aclk + 2048 * s.pwr.aclk + 2 ^ 21 * b2n s.pwr.pllLock +
    2 ^ 22 * b2n s.pwr.cxlRef + 2 ^ 23 * b2n s.pwr.lref0 + 2 ^ 24 * b2n s.pwr.lref1) := by
  have double : 2 ^ 10 * (2 * s.pwr.aclk) = 2048 * s.pwr.aclk := by omega
  show some (s.pwr.aclk + 2 ^ 10 * (2 * s.pwr.aclk) + _ + _ + _ + _) = _
  rw [double]

/-- The power region holds FP_SAFE from offset 0x100 on. -/
theorem State.readPwr_fpSafe (s : State) {o : Nat} (ho : 0x100 ≤ o) : s.readPwr o = s.fpSafe ((o - 0x100) / 4) := by
  unfold State.readPwr
  split
  case h_12 => exact if_pos ho
  all_goals exact absurd ho (by decide)

/-- FP_SAFE of a partition (R445). -/
theorem State.readReg_fpSafe (s : State) {p : Nat} (hp : p < 16) : s.readReg (0x60100 + 4 * p) = some (s.fpSafe p) := by
  have region : (0x60100 + 4 * p) / 0x10000 = 6 := by omega
  have low : (0x60100 + 4 * p) % 0x10000 = 0x100 + 4 * p := by omega
  have index : (0x100 + 4 * p - 0x100) / 4 = p := by omega
  simp only [State.readReg, region, low]
  rw [s.readPwr_fpSafe (by omega), index]

/-- Settles O35: a write goes through `onWrite`, whose three outcomes are said once, a read through RC_READ's cases. -/
theorem registerAccessesAct : Obligations.RegisterAccessesAct := by
  unfold Obligations.RegisterAccessesAct
  refine ⟨fun s off size v tr h hd => ?_, fun s off size v c wr tr hb hd hc => ⟨?_, execAccessErr_logged hb hc wr⟩,
    fun s off size v hb hd hc ht ho => ?_, fun s v a c tr => ⟨fun h => congrArg _ (State.onWrite_reaches h _), fun h => exec_inject_acts h a c⟩,
    fun s p on tr hp h => ⟨?_, ?_⟩, fun s tr h => ?_, fun s tr hb => ⟨execRcRead_accCnt hb tr, execRcRead_brkCnt hb tr,
      execRcRead_mgmtNoticeLost hb tr, fun p hp => execRcRead_noticeLost hb hp tr, fun off hd hm hw ht => execRcRead_secure hb hd hm hw ht,
      fun off v hd hm hw ha hk hn hr h15 hv => execRcRead_plain hb hd hm hw ha hk hn hr h15 hv, rfl, ?_, s.readReg_clkStat, fun p ts hp ht => ?_⟩⟩
  · rw [execRegisterWrite_open hd, State.onWrite_reaches h]
  · rw [execRegisterWrite_open hd, State.onWrite_logged hb hc]
  · rw [execRegisterWrite_open hd, State.onWrite_refused hb hc ht ho]
  · show onPort p _ = _
    rw [onPort_in hp, State.onWrite_reaches h]
  · show onPort p _ = _
    rw [onPort_in hp, State.onWrite_reaches h]
  · show Host.Outcome.next _ = _
    rw [State.onWrite_reaches h, s.touch_alwaysOn (by decide)]
  · rw [s.readReg_pwrStat]
    cases s.pwr.st <;> rfl
  · rw [s.readReg_fpSafe hp, State.fpSafe, ht]
    rfl

end Sys2Proof.Machine
end

section
/-!
PROOFS. The records that the host reads and the settings that it makes (O38): EVENT_READ, STATUS_READ, PARTITION_SET, POWER_CAP_SET.
-/

namespace Sys2Proof.Machine

open Sys2Proof

/-! ### What stands while tiles start -/

/-- What PARTITION_SET says of a partition, and its table set. -/
def Part.setup (x : Part) : Nat × Nat × List (Nat × Nat) × Option TableSet := (x.clusters, x.ttlMs, x.pools, x.table)

/-- What the work of tiles leaves as it is: the commands in flight, the replies that wait, and the partitions' setup. -/
def State.standing (s : State) : List Fetched × (Nat → List CqEntry) × (Nat → Nat × Nat × List (Nat × Nat) × Option TableSet) :=
  (s.host.fetched, fun b => (s.ring b).cqWait, fun p => (s.part p).setup)

theorem State.standing_congr {s t : State} (hh : t.host = s.host) (hp : t.parts = s.parts) : t.standing = s.standing := by
  simp only [State.standing, State.ring, State.part, hh, hp]

theorem State.standing_setPart (s : State) (p : Nat) (x : Part) (h : x.setup = (s.part p).setup) : (s.setPart p x).standing = s.standing := by
  have setups : (fun k => ((s.setPart p x).part k).setup) = fun k => (s.part k).setup := by
    funext k
    by_cases hk : k = p
    · rw [hk, State.setPart_same, h]
    · rw [State.setPart_other _ _ _ _ hk]
  simp only [State.standing, setups, State.setPart_host, State.setPart_ring_at]

theorem State.standing_setRing (s : State) (b : Nat) (x : Ring) (h : x.cqWait = (s.ring b).cqWait) : (s.setRing b x).standing = s.standing := by
  have waits : (fun k => ((s.setRing b x).ring k).cqWait) = fun k => (s.ring k).cqWait := by
    funext k
    by_cases hk : k = b
    · rw [hk, State.setRing_same, h]
    · rw [State.setRing_other _ _ _ _ hk]
  simp only [State.standing, waits, State.setRing_part_at]
  rfl

@[simp] theorem State.setTile_standing (s : State) (t : Nat) (x : Tile) : (s.setTile t x).standing = s.standing := rfl
@[simp] theorem State.setCluster_standing (s : State) (c : Nat) (x : Cluster) : (s.setCluster c x).standing = s.standing := rfl
theorem State.withArrays_standing (s : State) (a : Tbl Arr) : ({ s with arrays := a } : State).standing = s.standing := rfl
@[simp] theorem State.meshPrune_standing (s : State) : s.meshPrune.standing = s.standing := rfl
@[simp] theorem State.rein_standing (s : State) (p : Nat) (m : Rein) : (s.rein p m).standing = s.standing :=
  State.standing_congr (State.rein_host s p m) (State.rein_parts s p m)

@[simp] theorem State.launchOne_standing (s : State) (p sender group : Nat) (chan : Channel) (mesh : Option Nat) (hdr : VecHdr) (body : Payload)
    (m : Member) : (s.launchOne p sender group chan mesh hdr body m).standing = s.standing := by
  unfold State.launchOne
  split
  · rfl
  · dsimp only
    split
    · split <;> rfl
    · rfl

@[simp] theorem State.launch_standing (s : State) (p sender group : Nat) (chan : Channel) (src : Option MeshSrc) (hdr : VecHdr) (body : Payload)
    (ms : List Member) : (s.launch p sender group chan src hdr body ms).standing = s.standing := by
  unfold State.launch
  split
  · exact State.foldl_keeps State.standing _ (fun s m => s.launchOne_standing ..) _ _
  · exact State.foldl_keeps State.standing _ (fun s m => s.launchOne_standing ..) _ _

theorem State.feedOne_standing {s t : State} {p : Nat} {draft : Bool} (h : s.feedOne p draft = some t) : t.standing = s.standing := by
  unfold State.feedOne at h
  split at h
  · dsimp only at h
    split at h
    · cases h
    · cases h
      refine (State.foldl_keeps State.standing _ (fun s i => s.launch_standing ..) _ _).trans (State.standing_setPart _ _ _ ?_)
      split <;> rfl
  · cases h

@[simp] theorem State.feed_standing (n : Nat) (s : State) (p : Nat) : (State.feed n s p).standing = s.standing := by
  induction n generalizing s with
  | zero => rfl
  | succ n ih =>
    rw [State.feed]
    split
    next h => exact (ih _).trans (State.feedOne_standing h)
    next =>
      split
      next h => exact (ih _).trans (State.feedOne_standing h)
      next => rfl

@[simp] theorem State.issueAll_standing (n : Nat) (s : State) (t : Nat) : (State.issueAll n s t).standing = s.standing := by
  induction n generalizing s with
  | zero => rfl
  | succ n ih =>
    unfold State.issueAll
    split
    · rfl
    · split
      · exact ih _
      · rfl

@[simp] theorem State.edgeGrants_standing (s : State) (p : Nat) : (s.edgeGrants p).standing = s.standing := by
  unfold State.edgeGrants
  split
  · refine State.foldl_keeps State.standing _ (fun s i => ?_) _ _
    dsimp only
    split
    · rfl
    · split
      · rfl
      · split
        · rfl
        · split
          · rfl
          · rw [State.rein_standing]
            exact State.standing_setPart _ _ _ rfl
  · rfl

@[simp] theorem State.settle_standing (s : State) (t : Nat) : (s.settle t).standing = s.standing := by
  simp [State.settle]

@[simp] theorem State.resetUnits_standing (s : State) (p : Nat) : (s.resetUnits p).standing = s.standing := by
  unfold State.resetUnits
  refine (State.standing_setPart _ _ _ ?_).trans ((State.withArrays_standing _ _).trans ((State.standing_setRing _ _ _ ?_).trans ?_))
  · rfl
  · rfl
  · exact (State.foldl_keeps State.standing _ (fun s c => s.setCluster_standing ..) _ _).trans
      (State.foldl_keeps State.standing _ (fun s t => s.setTile_standing ..) _ _)

/-- A partition's tiles start without touching what stands. -/
@[simp] theorem State.startTiles_standing (s : State) (p : Nat) : (s.startTiles p).standing = s.standing := by
  unfold State.startTiles
  exact (State.foldl_keeps State.standing _ (fun s t => s.settle_standing t) _ _).trans
    ((State.foldl_keeps State.standing _ (fun s t => s.setTile_standing ..) _ _).trans (s.resetUnits_standing p))

theorem State.fetched_of_standing {s t : State} (h : t.standing = s.standing) : t.host.fetched = s.host.fetched := congrArg (·.1) h

theorem State.cqWait_of_standing {s t : State} (h : t.standing = s.standing) (b : Nat) : (t.ring b).cqWait = (s.ring b).cqWait :=
  congrFun (congrArg (·.2.1) h) b

theorem State.setup_of_standing {s t : State} (h : t.standing = s.standing) (p : Nat) : (t.part p).setup = (s.part p).setup :=
  congrFun (congrArg (·.2.2) h) p

/-! ### Host memory -/

@[simp] theorem State.writeMem_host (s : State) (a : Nat) (data : List Byte) : (s.writeMem a data).host = s.host := by
  unfold State.writeMem
  split
  · rfl
  · split
    · rfl
    · exact State.foldl_keeps State.host _ (fun s l => State.emit_host s (.backInvalidate l)) _ _

@[simp] theorem State.asks_host (s : State) (a n : Nat) : (s.asks a n).host = s.host := by
  unfold State.asks; split <;> rfl

@[simp] theorem State.asks_parts (s : State) (a n : Nat) : (s.asks a n).parts = s.parts := by
  unfold State.asks; split <;> rfl

@[simp] theorem State.asks_ring_at (s : State) (a n b : Nat) : (s.asks a n).ring b = s.ring b := by simp only [State.ring, State.asks_host]

@[simp] theorem State.asks_part_at (s : State) (a n p : Nat) : (s.asks a n).part p = s.part p := by simp only [State.part, State.asks_parts]

@[simp] theorem State.reply_part_at (s : State) (src : CmdSrc) (w : List Nat) (st : Nat) (res : List Nat) (p : Nat) :
    (s.reply src w st res).part p = s.part p := by simp only [State.part, State.reply_parts]

/-- A read that leaves the device changes nothing that a read returns. -/
@[simp] theorem State.readMem_asks (s : State) (h : HostMem) (a n a' n' : Nat) : (s.asks a n).readMem h a' n' = s.readMem h a' n' := by
  unfold State.asks; split <;> rfl

/-! ### EVENT_READ and STATUS_READ (R293, R299) -/

/-- EVENT_READ of at most 1,024 records at an address that may be named. -/
theorem execEventRead_inTurn {s : State} {b : Nat} {src : CmdSrc} {w : List Nat} (h : s.InTurn b 0x40 src w) (h0 : nthW w 4 ≠ 0)
    (hm : nthW w 4 ≤ 1024) (ha : addrOk (dword w 2) (32 * nthW w 4) = true) :
    let u := s.writeMem (dword w 2) ((s.ev.log.take (nthW w 4)).flatMap (fun e => wordBytes e.words))
    exec (.eventRead b) s = .next (({ u with ev := { u.ev with log := s.ev.log.drop (nthW w 4), dropped := 0 } } : State).reply src w 0x00
      [(s.ev.log.take (nthW w 4)).length, s.ev.dropped, (s.ev.log.drop (nthW w 4)).length]) := by
  intro u
  refine command_replies h eventReadCmd ?_ (congrArg (·.fetched) (s.writeMem_host _ _))
  simp [eventReadCmd, h0, Nat.not_lt.2 hm, ha, u]

/-- STATUS_READ of a SEL that the table does not list. -/
theorem execStatusRead_unlisted {s : State} {b : Nat} {src : CmdSrc} {w : List Nat} (h : s.InTurn b 0x41 src w)
    (hw : s.statusWords (pktPart w) (nthW w 2) = none) : exec (.statusRead b) s = .next (s.reply src w 0x04) :=
  command_replies h statusReadCmd (by simp [statusReadCmd, hw]) rfl

/-- STATUS_READ of a listed record at an address that may be named. -/
theorem execStatusRead_listed {s : State} {b : Nat} {src : CmdSrc} {w : List Nat} (h : s.InTurn b 0x41 src w) {ws : List Nat}
    (hw : s.statusWords (pktPart w) (nthW w 2) = some ws) (ha : addrOk (dword w 3) (nthW w 5) = true) :
    exec (.statusRead b) s = .next ((s.writeMem (dword w 3) ((wordBytes ws).take (nthW w 5))).reply src w 0x00
      [((wordBytes ws).take (nthW w 5)).length]) :=
  command_replies h statusReadCmd (by simp [statusReadCmd, hw, ha]) (congrArg (·.fetched) (s.writeMem_host _ _))

/-! ### PARTITION_SET (R120, R298) -/

/-- Tiles restart at stitch 0 and gate. -/
def State.gateTiles (s : State) (ts : List Nat) : State := ts.foldl (fun s t => s.setTile t { (s.tile t).restart 0 with gated := true }) s

@[simp] theorem State.gateTiles_host (s : State) (ts : List Nat) : (s.gateTiles ts).host = s.host :=
  State.foldl_keeps State.host _ (fun s t => State.setTile_host s t _) _ _

@[simp] theorem State.gateTiles_parts (s : State) (ts : List Nat) : (s.gateTiles ts).parts = s.parts :=
  State.foldl_keeps State.parts _ (fun s t => State.setTile_parts s t _) _ _

/-- Partition `p` takes new settings: its old tiles gate, the new ones start. -/
def State.repartition (s : State) (p clusters ttlMs : Nat) (pools : List (Nat × Nat)) : State :=
  let s := s.gateTiles (s.part p).tileList
  (s.setPart p { s.part p with clusters, ttlMs, pools }).startTiles p

/-- What stands after a repartition is what stood before, with the partition's new settings. -/
theorem State.repartition_standing (s : State) (p clusters ttlMs : Nat) (pools : List (Nat × Nat)) :
    (s.repartition p clusters ttlMs pools).standing = (s.setPart p { s.part p with clusters, ttlMs, pools }).standing :=
  (State.startTiles_standing _ _).trans
    (State.standing_congr (s.gateTiles_host _) (by simp only [State.setPart, State.part, State.gateTiles_parts]))

theorem State.repartition_fetched (s : State) (p clusters ttlMs : Nat) (pools : List (Nat × Nat)) :
    (s.repartition p clusters ttlMs pools).host.fetched = s.host.fetched :=
  (State.fetched_of_standing (s.repartition_standing p clusters ttlMs pools)).trans rfl

theorem State.repartition_cqWait (s : State) (p clusters ttlMs : Nat) (pools : List (Nat × Nat)) (b : Nat) :
    ((s.repartition p clusters ttlMs pools).ring b).cqWait = (s.ring b).cqWait :=
  (State.cqWait_of_standing (s.repartition_standing p clusters ttlMs pools) b).trans rfl

/-- The settings of a repartitioned partition; every other partition keeps its own. -/
theorem State.repartition_setup (s : State) (p clusters ttlMs : Nat) (pools : List (Nat × Nat)) :
    ((s.repartition p clusters ttlMs pools).part p).setup = (clusters, ttlMs, pools, (s.part p).table) ∧
    ∀ k, k ≠ p → ((s.repartition p clusters ttlMs pools).part k).setup = (s.part k).setup := by
  have stands := State.setup_of_standing (s.repartition_standing p clusters ttlMs pools)
  refine ⟨(stands p).trans ?_, fun k hk => (stands k).trans ?_⟩
  · rw [State.setPart_same]; rfl
  · rw [State.setPart_other _ _ _ _ hk]

/-- PARTITION_SET without a girth or an active request, of no cluster or of a rectangle that no other partition holds. -/
theorem execPartitionSet_inTurn {s : State} {b : Nat} {src : CmdSrc} {w : List Nat} {h : HostMem} {pools : List (Nat × Nat)}
    (ht : s.InTurn b 0x20 src w) (hg : (s.girth (pktPart w)).st = .unset) (hr : s.activeOf (pktPart w) = []) (hn : nthW w 6 ≤ 16)
    (ha : addrOk (dword w 4) (16 * nthW w 6) = true)
    (hm : nthW w 2 = 0 ∨ (isRect (nthW w 2) = true ∧ ∀ k, k < 16 → k ≠ pktPart w → (s.part k).clusters &&& nthW w 2 = 0))
    (hp : poolList (s.readMem h (dword w 4) (16 * nthW w 6)) (nthW w 6) = some pools) :
    exec (.partitionSet b h) s = .next (((s.asks (dword w 4) (16 * nthW w 6)).repartition (pktPart w) (nthW w 2) (nthW w 3) pools).reply
      src w 0x00) := by
  have guard : ¬ ((s.girth (pktPart w)).st ≠ .unset ∨ ¬ (s.activeOf (pktPart w)).isEmpty = true ∨ 16 < nthW w 6 ∨
      ¬ addrOk (dword w 4) (16 * nthW w 6) = true ∨ (nthW w 2 ≠ 0 ∧ (¬ isRect (nthW w 2) = true ∨
        (List.range 16).any (fun k => decide (k ≠ pktPart w) && decide ((s.part k).clusters &&& nthW w 2 ≠ 0)) = true))) := by
    rintro (h | h | h | h | ⟨h0, hc⟩)
    · exact h hg
    · exact h (by rw [hr]; rfl)
    · omega
    · exact h ha
    · obtain ⟨rect, apart⟩ := hm.resolve_left h0
      refine hc.elim (fun hc => hc rect) (fun hc => ?_)
      obtain ⟨k, hk, hck⟩ := List.any_eq_true.1 hc
      simp only [Bool.and_eq_true, decide_eq_true_eq] at hck
      exact hck.2 (apart k (List.mem_range.1 hk) hck.1)
  show execPartitionSet b h s = _
  unfold execPartitionSet
  refine command_replies ht _ ?_ ((State.repartition_fetched ..).trans (congrArg (·.fetched) (s.asks_host ..)))
  refine (if_neg guard).trans ?_
  simp only [State.readMem_asks, hp]
  rfl

/-! ### POWER_CAP_SET (R446) -/

@[simp] theorem State.request_host (s : State) : s.request.host = s.host := by
  unfold State.request; split <;> rfl

section
variable {s : State} {b : Nat} {src : CmdSrc} {w : List Nat} (h : s.InTurn b 0x88 src w) (hcap : 150 ≤ nthW w 2 ∧ nthW w 2 ≤ 550)
  (hbrk : 50 ≤ nthW w 3 ∧ nthW w 3 ≤ nthW w 2) (hal : nthW w 4 ≤ 10000)
include h hcap hbrk hal

/-- POWER_CAP_SET within its ranges that need not wait takes effect at once. -/
theorem execPowerCapSet_sets (hw : ¬ ((nthW w 4 < s.pwr.allowUs ∨ aBrkOf (nthW w 3) < s.aBrk) ∧ s.promisedBefore s.tick = true)) :
    exec (.powerCapSet b) s = .next ((s.setCap w).reply src w 0x00) := by
  show execPowerCapSet b s = _
  unfold execPowerCapSet
  refine command_replies h _ ?_ (congrArg (·.fetched) (State.request_host _))
  dsimp only
  rw [if_neg (by omega), if_neg hw]

/-- POWER_CAP_SET that lowers ALLOW_US or A_BRK under an active promised request waits. -/
theorem execPowerCapSet_waits (hw : (nthW w 4 < s.pwr.allowUs ∨ aBrkOf (nthW w 3) < s.aBrk) ∧ s.promisedBefore s.tick = true) :
    exec (.powerCapSet b) s = .next ((({ s with pwr := { s.pwr with
      capWait := s.pwr.capWait ++ [{ src, words := w, tick := s.tick }] } } : State).startCmd src w).stallCmd src w) := by
  show execPowerCapSet b s = _
  unfold execPowerCapSet
  refine command_starts h _ ?_ rfl
  dsimp only
  rw [if_neg (by omega), if_pos hw]

end

/-- Settles O38: each of the four commands has its outcomes as lemmas above; of PARTITION_SET, what stands while the tiles start is read off. -/
theorem recordReadsAndSettings : Obligations.RecordReadsAndSettings := by
  unfold Obligations.RecordReadsAndSettings
  intro s b src w h p
  refine ⟨fun ht h0 hm ha => execEventRead_inTurn ht h0 hm ha,
    fun ht => ⟨fun hw => execStatusRead_unlisted ht hw, fun ws hw ha => execStatusRead_listed ht hw ha⟩,
    fun pools ht hg hr hn ha hm hp => ?_,
    fun ht h1 h2 h3 h4 h5 => ⟨execPowerCapSet_sets ht ⟨h1, h2⟩ ⟨h3, h4⟩ h5, execPowerCapSet_waits ht ⟨h1, h2⟩ ⟨h3, h4⟩ h5⟩⟩
  refine ⟨_, execPartitionSet_inTurn ht hg hr hn ha hm hp, ?_⟩
  obtain ⟨own, other⟩ := (s.asks (dword w 4) (16 * nthW w 6)).repartition_setup p (nthW w 2) (nthW w 3) pools
  simp only [Part.setup, Prod.mk.injEq, State.asks_part_at] at own other
  simp only [State.reply_part_at]
  obtain ⟨clusters, ttl, pool, table⟩ := own
  refine ⟨clusters, ttl, pool, table, fun k hk => (other k hk).1, fun r hr => ?_⟩
  subst hr
  rw [State.reply_cqWait, State.repartition_cqWait, State.asks_ring_at]

end Sys2Proof.Machine
end

section
/-!
PROOFS. What the work that follows every event of a tile (`State.settle`) can reach, said once: it leaves whatever a function of the state reads
that does not look at the fabric, the ports, the clusters or the few fields of tiles and partitions named here.
-/

namespace Sys2Proof.Machine

open Sys2Proof

/-! ### What settle moves in a tile and in a partition -/

/-- A tile but for what `State.settle` moves: the stitcher's place, the reservations and the blocks they hold, and the units' queues. -/
def Tile.work (x : Tile) : Tile :=
  { x with at_ := 0, seq := 0, inBuf := [], resv := [], tallyQ := [], skiveQ := [], sendQ := [], kcmpQ := [], inlayQ := [] }

/-- A partition but for what `State.settle` moves: the embedded vectors that wait, and the grants at its edge. -/
def Part.work (x : Part) : Part := { x with embedQ := [], draftQ := [], edgeGranted := [] }

@[simp] theorem Tile.grantDue_work (x : Tile) : x.grantDue.work = x.work := by
  unfold Tile.grantDue
  refine List.foldlRecOn (motive := fun y : Tile => y.work = x.work) _ _ rfl (fun y hy kr _ => ?_)
  dsimp only
  split
  · exact hy
  · exact hy

theorem Tile.issue_work {x y : Tile} {op : StitchOp} (h : x.issue op = some y) : y.work = x.work := by
  cases op with
  | tally | skive | send | kcmp | inlay =>
    obtain ⟨-, h⟩ := Option.ite_none_right_eq_some.1 h
    cases h
    rfl
  | nop | pass | alt | recv | wait | proof | beatEnd => cases h

/-! ### Functions of the state that do not see what settle does -/

/-- `g` reads nothing of the state that the work after a tile's event changes. -/
structure SettleBlind {β : Type} (g : State → β) : Prop where
  tile    : ∀ s t x, x.work = (s.tile t).work → g (s.setTile t x) = g s
  part    : ∀ s p x, x.work = (s.part p).work → g (s.setPart p x) = g s
  cluster : ∀ s c x, g (s.setCluster c x) = g s
  rein    : ∀ s p m, g (s.rein p m) = g s
  fabric  : ∀ (s : State) l, g { s with fabric := l } = g s
  mesh    : ∀ (s : State) l, g { s with mesh := l } = g s

section
variable {β : Type} {g : State → β} (h : SettleBlind g)
include h

theorem SettleBlind.launchOne (s : State) (p sender group : Nat) (chan : Channel) (mesh : Option Nat) (hdr : VecHdr) (body : Payload) (m : Member) :
    g (s.launchOne p sender group chan mesh hdr body m) = g s := by
  unfold State.launchOne
  split
  · rfl
  · refine (h.fabric _ _).trans ?_
    split
    · dsimp only
      split
      · exact h.tile _ _ _ rfl
      · rfl
    · exact h.cluster _ _ _

theorem SettleBlind.launch (s : State) (p sender group : Nat) (chan : Channel) (src : Option MeshSrc) (hdr : VecHdr) (body : Payload)
    (ms : List Member) : g (s.launch p sender group chan src hdr body ms) = g s := by
  unfold State.launch
  split
  · exact State.foldl_keeps g _ (fun s m => h.launchOne s ..) _ _
  · exact (h.mesh _ _).trans ((State.foldl_keeps g _ (fun s m => h.launchOne s ..) _ _).trans (h.mesh _ _))

theorem SettleBlind.feedOne {s u : State} {p : Nat} {draft : Bool} (hu : s.feedOne p draft = some u) : g u = g s := by
  unfold State.feedOne at hu
  split at hu
  · obtain ⟨-, hu⟩ := Option.ite_none_left_eq_some.1 hu
    cases hu
    refine (State.foldl_keeps g _ (fun s i => h.launch s ..) _ _).trans (h.part _ _ _ ?_)
    split <;> rfl
  · cases hu

theorem SettleBlind.feed (n : Nat) (s : State) (p : Nat) : g (State.feed n s p) = g s := by
  induction n generalizing s with
  | zero => rfl
  | succ n ih =>
    rw [State.feed]
    split
    next hu => exact (ih _).trans (h.feedOne hu)
    next =>
      split
      next hu => exact (ih _).trans (h.feedOne hu)
      next => rfl

theorem SettleBlind.issueAll (n : Nat) (s : State) (t : Nat) : g (State.issueAll n s t) = g s := by
  induction n generalizing s with
  | zero => rfl
  | succ n ih =>
    unfold State.issueAll
    split
    · rfl
    · split
      next x hx =>
        have hw : x.work = (s.tile t).work := Tile.issue_work hx
        exact (ih _).trans (h.tile _ _ _ hw)
      next => rfl

theorem SettleBlind.edgeGrants (s : State) (p : Nat) : g (s.edgeGrants p) = g s := by
  unfold State.edgeGrants
  split
  · refine State.foldl_keeps g _ (fun s i => ?_) _ _
    dsimp only
    split
    · rfl
    · split
      · rfl
      · split
        · rfl
        · split
          · rfl
          · exact (h.rein _ _ _).trans (h.part _ _ _ rfl)
  · rfl

/-- What follows a tile's event leaves everything that such a function reads. -/
theorem SettleBlind.settle (s : State) (t : Nat) : g (s.settle t) = g s :=
  (h.feed _ _ _).trans ((h.edgeGrants _ _).trans ((h.issueAll _ _ _).trans (h.tile _ _ _ (Tile.grantDue_work _))))

end

/-! ### What settle leaves -/

theorem State.setTile_tile_work {s : State} {t : Nat} {x : Tile} (h : x.work = (s.tile t).work) (k : Nat) :
    ((s.setTile t x).tile k).work = (s.tile k).work := by
  by_cases hk : k = t
  · rw [hk, State.setTile_same, h]
  · rw [State.setTile_other _ _ _ _ hk]

theorem State.settle_tile_work (s : State) (t k : Nat) : ((s.settle t).tile k).work = (s.tile k).work :=
  SettleBlind.settle (g := fun s => (s.tile k).work)
    ⟨fun _ _ _ h => State.setTile_tile_work h k, fun _ _ _ _ => rfl, fun _ _ _ => rfl, fun _ _ _ => by simp, fun _ _ => rfl, fun _ _ => rfl⟩ s t

@[simp] theorem State.settle_wrs (s : State) (t k : Nat) : ((s.settle t).tile k).wrs = (s.tile k).wrs :=
  (congrArg Tile.wrs (s.settle_tile_work t k) :)
@[simp] theorem State.settle_flight (s : State) (t k : Nat) : ((s.settle t).tile k).flight = (s.tile k).flight :=
  (congrArg Tile.flight (s.settle_tile_work t k) :)
@[simp] theorem State.settle_trace (s : State) (t k : Nat) : ((s.settle t).tile k).trace = (s.tile k).trace :=
  (congrArg Tile.trace (s.settle_tile_work t k) :)
@[simp] theorem State.settle_disputes (s : State) (t k : Nat) : ((s.settle t).tile k).disputes = (s.tile k).disputes :=
  (congrArg Tile.disputes (s.settle_tile_work t k) :)

@[simp] theorem State.settle_arrays (s : State) (t : Nat) : (s.settle t).arrays = s.arrays :=
  SettleBlind.settle (g := State.arrays)
    ⟨fun _ _ _ _ => rfl, fun _ _ _ _ => rfl, fun _ _ _ => rfl, State.rein_arrays, fun _ _ => rfl, fun _ _ => rfl⟩ s t
@[simp] theorem State.settle_kv (s : State) (t : Nat) : (s.settle t).kv = s.kv :=
  SettleBlind.settle (g := State.kv)
    ⟨fun _ _ _ _ => rfl, fun _ _ _ _ => rfl, fun _ _ _ => rfl, State.rein_kv, fun _ _ => rfl, fun _ _ => rfl⟩ s t
@[simp] theorem State.settle_ledger (s : State) (t : Nat) : (s.settle t).ledger = s.ledger :=
  SettleBlind.settle (g := State.ledger)
    ⟨fun _ _ _ _ => rfl, fun _ _ _ _ => rfl, fun _ _ _ => rfl, State.rein_ledger, fun _ _ => rfl, fun _ _ => rfl⟩ s t

end Sys2Proof.Machine
end

section
/-!
PROOFS. Passes (O21): PASS issues a pass and PASS_CODES_READY completes it, and what both do to the window-result registers that they name.
-/

namespace Sys2Proof.Machine

open Sys2Proof

/-! ### Window-result registers -/

/-- Register `r` has a key of its own in every array. -/
theorem wrKey_injective {r : Nat} {a b : Nat} (h : wrKey a r = wrKey b r) : a = b := by
  simp only [wrKey] at h; omega

/-- A fold of steps that each rewrite one key leaves the keys that it does not name. -/
theorem getD_foldl_of_notMem {α : Type} {d : α} {key : Nat → Nat} {step : Tbl α → Nat → Tbl α}
    (other : ∀ w b k, k ≠ key b → getD d k (step w b) = getD d k w) {l : List Nat} {k : Nat} (h : ∀ b ∈ l, k ≠ key b) (w : Tbl α) :
    getD d k (l.foldl step w) = getD d k w := by
  induction l generalizing w with
  | nil => rfl
  | cons b l ih =>
    rw [List.foldl_cons, ih (fun c hc => h c (List.mem_cons_of_mem _ hc)), other _ _ _ (h b (List.mem_cons_self ..))]

/-- A fold over entries without repeats that rewrites the key of each rewrites each once. -/
theorem getD_foldl_of_mem {α : Type} {d : α} {key : Nat → Nat} {step : Tbl α → Nat → Tbl α} {f : Nat → α → α}
    (inj : ∀ {a b}, key a = key b → a = b) (same : ∀ w b, getD d (key b) (step w b) = f b (getD d (key b) w))
    (other : ∀ w b k, k ≠ key b → getD d k (step w b) = getD d k w) {l : List Nat} (hn : l.Nodup) {a : Nat} (ha : a ∈ l) (w : Tbl α) :
    getD d (key a) (l.foldl step w) = f a (getD d (key a) w) := by
  induction l generalizing w with
  | nil => cases ha
  | cons b l ih =>
    obtain ⟨hb, hn⟩ := List.nodup_cons.1 hn
    rw [List.foldl_cons]
    by_cases hab : a = b
    · subst hab
      rw [getD_foldl_of_notMem other (fun c hc hk => hb (inj (a := a) hk ▸ hc)), same]
    · rw [ih hn ((List.mem_cons.1 ha).resolve_left hab), other _ _ _ (fun hk => hab (inj hk))]

/-- The registers `r` of arrays `as` take the exponent of a pass, and count as unchecked (R53, R78). -/
def holdExp (as : List Nat) (r e : Nat) (w : Tbl Wr) : Tbl Wr :=
  as.foldl (fun w a => put (wrKey a r) { getD Wr.empty (wrKey a r) w with exp := some e, checked := false } w) w

/-- An entry that holds exponent `e` unchecked still does after further ones are given it. -/
theorem holdExp_keeps {as : List Nat} {r e k : Nat} {w : Tbl Wr} (h : (getD Wr.empty k w).exp = some e ∧ (getD Wr.empty k w).checked = false) :
    (getD Wr.empty k (holdExp as r e w)).exp = some e ∧ (getD Wr.empty k (holdExp as r e w)).checked = false := by
  induction as generalizing w with
  | nil => exact h
  | cons b as ih =>
    refine ih ?_
    by_cases hk : k = wrKey b r
    · simp [hk]
    · simpa only [getD_put_other _ _ _ _ _ hk] using h

theorem getD_holdExp {as : List Nat} {a : Nat} (ha : a ∈ as) (r e : Nat) (w : Tbl Wr) :
    (getD Wr.empty (wrKey a r) (holdExp as r e w)).exp = some e ∧ (getD Wr.empty (wrKey a r) (holdExp as r e w)).checked = false := by
  induction as generalizing w with
  | nil => cases ha
  | cons b as ih =>
    rcases List.mem_cons.1 ha with rfl | ha
    · refine holdExp_keeps (as := as) ?_
      simp
    · exact ih ha _

/-! ### PASS (R78) -/

/-- One of the exponents that a list of registers holds differs from `e`. -/
theorem any_filterMap_ne_iff {as : List Nat} {f : Nat → Option Nat} {e : Nat} :
    (as.filterMap f).any (· ≠ e) = true ↔ ∃ a ∈ as, ∃ k, f a = some k ∧ k ≠ e := by
  simp only [List.any_eq_true, List.mem_filterMap, decide_eq_true_eq]
  exact ⟨fun ⟨k, ⟨a, hm, hk⟩, hne⟩ => ⟨a, hm, k, hk, hne⟩, fun ⟨a, hm, k, hk, hne⟩ => ⟨k, ⟨a, hm, hk⟩, hne⟩⟩

/-- The tile after its stitcher has issued pass `p` and moved on to stitch `nx`. -/
def Tile.putPass (x : Tile) (nx : Nat) (p : PassRec) : Tile :=
  { x with wrs := holdExp p.arrays p.wr p.e8 x.wrs, at_ := nx
           flight := if p.wkind = 3 then x.flight else x.flight ++ [p]
           trace := if p.wkind = 3 then x.trace ++ [p] else x.trace }

section
variable {s : State} {t nx wkind widx h plane iblk wr arrays : Nat} (hs : s.Stands t ⟨nx, .pass wkind widx h plane iblk wr arrays⟩)
  {i r : Nat} (hi : bankEntry (s.tile t).runs iblk = i) (hr : bankWr (s.tile t).runs wr = r)
  (hp : (s.tile t).present (s.tile t).runs i = true) (hp2 : wkind = 2 → (s.tile t).present (s.tile t).runs (i + 1) = true)
  (hw : (s.tile t).wrRead arrays r = false)
  (ha : ∀ a ∈ maskList arrays,
    (s.arr (s.servingArray (arrayAddr t a))).prog = none ∧ s.calOk (s.servingArray (arrayAddr t a)) = true)
include hs hi hr hp hp2 hw ha

/-- A PASS that does not wait: no pass where nothing is to be driven, FMT_INVALID where the window has no exponent or a register holds another,
else the pass. -/
theorem execPass_ready : exec (.pass t) s = .next (
    if ((s.tile t).inBlk i).e8 = 255 ∨ (wkind = 2 ∧ ((s.tile t).inBlk (i + 1)).e8 = 255) ∨
      zeroFlag ((s.tile t).passDrive wkind h i plane) = true then (s.moveTo t nx).settle t
    else (windowExp wkind ((s.tile t).inBlk i) ((s.tile t).inBlk (i + 1))).elim
      (((s.fmtInvalid (s.partOfTile t) t (s.tile t).at_ ((s.tile t).handleOf (s.tile t).runs)).moveTo t nx).settle t)
      (fun e => if ∃ a ∈ maskList arrays, ∃ k, (getD Wr.empty (wrKey a r) (s.tile t).wrs).exp = some k ∧ k ≠ e
        then ((s.fmtInvalid (s.partOfTile t) t (s.tile t).at_ ((s.tile t).handleOf (s.tile t).runs)).moveTo t nx).settle t
        else (s.setTile t ((s.tile t).putPass nx
          { run := (s.tile t).runs, wkind, widx, h, plane, iblk := i, wr := r, arrays := maskList arrays, base := (windowRows wkind widx h).1
            drive := (s.tile t).passDrive wkind h i plane, e8 := e, codes := [] })).settle t)) := by
  obtain ⟨ht, hc⟩ := hs
  subst hi hr
  have idle : ((maskList arrays).any fun a =>
      (s.arr (s.servingArray (arrayAddr t a))).prog.isSome || !s.calOk (s.servingArray (arrayAddr t a))) = false :=
    List.any_eq_false.2 (fun a hm => by simp [ha a hm])
  show execPass t s = _
  simp only [execPass, onTile_in ht, hc]
  rw [if_neg (by simpa [hp, hw, idle] using hp2)]
  refine congrArg Host.Outcome.next (ite_congr rfl (fun _ => rfl) (fun _ => ?_))
  cases windowExp wkind ((s.tile t).inBlk (bankEntry (s.tile t).runs iblk)) ((s.tile t).inBlk (bankEntry (s.tile t).runs iblk + 1)) with
  | none => rfl
  | some e => exact ite_congr (propext any_filterMap_ne_iff) (fun _ => rfl) (fun _ => rfl)

end

/-! ### PASS_CODES_READY (R27, R82) -/

/-- What register `p.wr` of array `a` becomes when the codes of pass `p` are added to it, with the passes `rest` still to come (R36, R82). -/
def State.addCodes (s : State) (t : Nat) (tracing : Bool) (err : Analog) (p : PassRec) (rest : List PassRec) (a : Nat) (w : Wr) : Wr :=
  let codes := s.passCodes (arrayAddr t a) p.base p.drive err
  { w.addPass (getD [] a (s.tile t).colMaps) (s.withCodes p (arrayAddr t a) codes) codes with
    checked := tracing && !(rest.any (fun q => q.wr = p.wr && q.arrays.contains a)) }

/-- The registers of tile `t` after the codes of pass `p` have been added at every array that it named. -/
def State.codesAdded (s : State) (t : Nat) (tracing : Bool) (err : Analog) (p : PassRec) (rest : List PassRec) : Tbl Wr :=
  p.arrays.foldl (fun w a => put (wrKey a p.wr) (s.addCodes t tracing err p rest a (getD Wr.empty (wrKey a p.wr) w)) w) (s.tile t).wrs

theorem State.getD_codesAdded (s : State) (t : Nat) (tracing : Bool) (err : Analog) {p : PassRec} (rest : List PassRec) (hn : p.arrays.Nodup)
    {a : Nat} (ha : a ∈ p.arrays) :
    getD Wr.empty (wrKey a p.wr) (s.codesAdded t tracing err p rest) =
      s.addCodes t tracing err p rest a (getD Wr.empty (wrKey a p.wr) (s.tile t).wrs) :=
  getD_foldl_of_mem (key := fun a => wrKey a p.wr) wrKey_injective (fun _ _ => getD_put_same ..)
    (fun _ _ _ hk => getD_put_other _ _ _ _ _ hk) hn ha _

/-- The tile after its oldest pass, in flight or on the tracing arrays, has completed. -/
def Tile.dropPass (x : Tile) (tracing : Bool) (wrs : Tbl Wr) (rest : List PassRec) : Tile :=
  if tracing then { x with wrs, trace := rest } else { x with wrs, flight := rest }

theorem execPassCodesReady_completes {s : State} {t : Nat} {tracing : Bool} {p : PassRec} {rest : List PassRec} (err : Analog) (ht : t < 1024)
    (hr : s.runs (s.partOfTile t) = true) (hp : (if tracing then (s.tile t).trace else (s.tile t).flight) = p :: rest) :
    exec (.passCodesReady t tracing err) s =
      .next ((s.setTile t ((s.tile t).dropPass tracing (s.codesAdded t tracing err p rest) rest)).settle t) := by
  show execPassCodesReady t tracing err s = _
  simp only [execPassCodesReady, onTile_in ht, hp, hr, not_true_eq_false, if_false, decide_not, Bool.decide_eq_true]
  rfl

/-- Settles O21: PASS by the cases of `execPass_ready`, PASS_CODES_READY by what it does to the registers; what follows either event (`settle`)
leaves the passes, the registers and the arrays. -/
theorem passesIssueAndComplete : Obligations.PassesIssueAndComplete := by
  unfold Obligations.PassesIssueAndComplete
  refine ⟨fun s t nx wkind widx h plane iblk wr arrays hs => ?_, fun s t tracing err p rest ht hr hp => ?_⟩
  · intro x i r b b2 drive bad hp hp2 hw ha
    have ready := execPass_ready hs rfl rfl hp hp2 hw ha
    refine ⟨fun hz => ready.trans (by rw [if_pos hz]), fun hb hb2 hz => ?_⟩
    have driven : ¬ (b.e8 = 255 ∨ (wkind = 2 ∧ b2.e8 = 255) ∨ zeroFlag drive = true) := by
      rintro (h | ⟨h, h'⟩ | h)
      · exact hb h
      · exact hb2 h h'
      · exact Bool.false_ne_true (hz.symm.trans h)
    rw [if_neg driven] at ready
    refine ⟨fun hn => ready.trans (by rw [hn]; rfl), fun e he => ?_⟩
    rw [he, Option.elim_some] at ready
    refine ⟨fun hx => ready.trans (by rw [if_pos hx]), fun hx => ?_⟩
    rw [if_neg (fun ⟨a, hm, k, hk, hne⟩ => hne (hx a hm k hk))] at ready
    refine ⟨_, ready, ?_⟩
    simp only [State.settle_flight, State.settle_trace, State.settle_wrs, State.settle_arrays, State.settle_kv, State.settle_ledger,
      State.setTile_same]
    exact ⟨rfl, rfl, fun a hm => getD_holdExp hm _ _ _, rfl, rfl, rfl⟩
  · refine ⟨_, execPassCodesReady_completes err ht hr hp, ?_⟩
    simp only [State.settle_flight, State.settle_trace, State.settle_wrs, State.settle_arrays, State.settle_kv, State.settle_ledger,
      State.setTile_same]
    cases tracing <;> exact ⟨rfl, rfl, rfl, rfl, rfl, fun hn _ a hm => s.getD_codesAdded t _ err rest hn hm⟩

end Sys2Proof.Machine
end

section
/-!
PROOFS. Compares and proofs (O22): KCMP judges the window-result registers of its arrays, PROOF compares driven planes with the known sums.
-/

namespace Sys2Proof.Machine

open Sys2Proof

/-! ### KCMP (R81) -/

theorem maskList_nodup (m : Nat) : (maskList m).Nodup := List.nodup_range.filter _

/-- What register `r` of array `a` becomes in a compare: it is checked when its passes open no dispute, and else stays. -/
def State.judgeWr (s : State) (t r a : Nat) (w : Wr) : Wr :=
  if (s.wrDisputes t a (getD Wr.empty (wrKey a r) (s.tile t).wrs)).isEmpty then { w with checked := true } else w

/-- The registers of tile `t` after register `r` of arrays `as` has been compared. -/
def State.compared (s : State) (t r : Nat) (as : List Nat) : Tbl Wr :=
  as.foldl (fun w a => if (s.wrDisputes t a (getD Wr.empty (wrKey a r) (s.tile t).wrs)).isEmpty
    then put (wrKey a r) { getD Wr.empty (wrKey a r) w with checked := true } w else w) (s.tile t).wrs

theorem State.getD_compared (s : State) (t r : Nat) {as : List Nat} (hn : as.Nodup) {a : Nat} (ha : a ∈ as) :
    getD Wr.empty (wrKey a r) (s.compared t r as) = s.judgeWr t r a (getD Wr.empty (wrKey a r) (s.tile t).wrs) := by
  refine getD_foldl_of_mem (key := fun a => wrKey a r) wrKey_injective (fun w b => ?_) (fun w b k hk => ?_) hn ha _
  · unfold State.judgeWr
    split
    · exact getD_put_same ..
    · rfl
  · split
    · exact getD_put_other _ _ _ _ _ hk
    · rfl

/-- The disputes that a compare of register `r` of arrays `as` opens. -/
def State.compareDisputes (s : State) (t r : Nat) (as : List Nat) : List Dispute :=
  as.flatMap (fun a => s.wrDisputes t a (getD Wr.empty (wrKey a r) (s.tile t).wrs))

/-- Counting compared passes writes the keepers of arrays only. -/
@[simp] theorem State.countCompared_tile (s : State) (t : Nat) (as : List Nat) (recs : Nat → List PassRec) (k : Nat) :
    (s.countCompared t as recs).tile k = s.tile k := by
  unfold State.countCompared
  refine State.foldl_keeps (fun s => s.tile k) _ (fun s a => ?_) as s
  rfl

theorem execKcmp_compares {s : State} {t wr arrays : Nat} {q : QEnt} {rest : List QEnt} (ht : t < 1024) (hq : (s.tile t).kcmpQ = q :: rest)
    (ho : q.op = .kcmp wr arrays) (hr : s.runs (s.partOfTile t) = true)
    (hf : ((s.tile t).flight.any (fun p => p.wr = bankWr q.run wr && p.arrays.any ((maskList arrays).contains ·))) = false) :
    CompletesWith (exec (.kcmp t) s) (fun u => (u.tile t).wrs = s.compared t (bankWr q.run wr) (maskList arrays) ∧
      (u.tile t).disputes = (s.tile t).disputes ++ s.compareDisputes t (bankWr q.run wr) (maskList arrays)) := by
  obtain ⟨seq, run, draft, idx, op⟩ := q
  subst ho
  show CompletesWith (execKcmp t s) _
  simp only [execKcmp, onTile_in ht, hq, hr, hf]
  rw [if_neg (by simp)]
  refine ⟨_, rfl, ?_⟩
  simp only [State.settle_wrs, State.settle_disputes, State.countCompared_tile, State.setTile_same, List.foldl_map, List.flatMap_map]
  exact ⟨rfl, rfl⟩

/-! ### PROOF (R80, R353) -/

/-- The proof of an array is skipped without known sums for its PVEC, and before the first calibration of the array that serves it (R326, R398). -/
theorem State.proofArray_skipped {s : State} {t a pvec : Nat} (k run : Nat) (err : Analog)
    (h : (s.arr (arrayAddr t a)).sumsOk = false ∨ (s.arr (arrayAddr t a)).pb ≠ pvec ∨ s.calOk (s.servingArray (arrayAddr t a)) = false) :
    s.proofArray t a pvec k run err = s := by
  unfold State.proofArray
  exact if_pos (by simpa using h)

/-- The columns, with their known sums, on which plane `j` of a proof of array `a` over basic window `k` disagrees (R353). -/
def State.proofOff (s : State) (t a pvec k : Nat) (err : Analog) (j : Nat) : List (Nat × Int) :=
  s.proofCols (arrayAddr t a) (s.passCodes (arrayAddr t a) (128 * k) (blockDrive (proofBlock pvec) j) err) (s.proofExpect (arrayAddr t a) k j)

/-- The dispute that plane `j` of a proof opens over its disagreeing columns. -/
def State.proofDispute (s : State) (t a pvec k run : Nat) (err : Analog) (j : Nat) : Dispute :=
  let addr := arrayAddr t a
  let d := blockDrive (proofBlock pvec) j
  let cols := (s.proofOff t a pvec k err j).map (·.1)
  { det := .proof, array := a, cols
    pass := s.withCodes { run, wkind := 0, widx := k, h := 0, plane := j, iblk := 64, wr := 4, arrays := [a], base := 128 * k, drive := d
                          e8 := 0x7F, codes := [] } addr (s.passCodes addr (128 * k) d err)
    expect := (s.proofExpect addr k j).filter (fun y => cols.contains y.1), reps := [], perm := false, injected := false }

/-- The disputes that a proof opens, with no injection armed on its array: one for every driven plane that disagrees. -/
def State.proofDisputes (s : State) (t a pvec k run : Nat) (err : Analog) : List Dispute :=
  (List.range 7).filterMap (fun j => if zeroFlag (blockDrive (proofBlock pvec) j) = true ∨ s.proofOff t a pvec k err j = [] then none
    else some (s.proofDispute t a pvec k run err j))

theorem State.mem_proofDisputes {s : State} {t a pvec k run : Nat} {err : Analog} {d : Dispute} :
    d ∈ s.proofDisputes t a pvec k run err ↔ ∃ j < 7, zeroFlag (blockDrive (proofBlock pvec) j) = false ∧
      s.proofOff t a pvec k err j ≠ [] ∧ d = s.proofDispute t a pvec k run err j := by
  simp only [State.proofDisputes, List.mem_filterMap, List.mem_range, Option.ite_none_left_eq_some, not_or, Bool.not_eq_true, Option.some.injEq,
    and_assoc, eq_comm (b := d), ne_eq]

/-- A proof that is not skipped ends clean or opens its disputes. -/
theorem State.proofArray_outcome {s : State} {t a pvec : Nat} (k run : Nat) (err : Analog)
    (h : ¬ ((s.arr (arrayAddr t a)).sumsOk = false ∨ (s.arr (arrayAddr t a)).pb ≠ pvec ∨ s.calOk (s.servingArray (arrayAddr t a)) = false))
    (hi : s.ev.injProof.filter (fun y => y.1 = arrayAddr t a) = none) :
    s.proofArray t a pvec k run err = if (s.proofDisputes t a pvec k run err).isEmpty then s.proofClean (arrayAddr t a) k
      else s.setTile t { s.tile t with disputes := (s.tile t).disputes ++ s.proofDisputes t a pvec k run err } := by
  unfold State.proofArray
  rw [if_neg (by simpa using h)]
  simp only [hi, Option.isSome_none, Bool.false_eq_true, and_false, not_false_eq_true, and_true, if_false]
  refine congrArg (fun ds : List Dispute => if ds.isEmpty then s.proofClean (arrayAddr t a) k
    else s.setTile t { s.tile t with disputes := (s.tile t).disputes ++ ds }) (congrArg (List.filterMap · (List.range 7)) (funext (fun j => ?_)))
  by_cases hz : zeroFlag (blockDrive (proofBlock pvec) j) = true
  · exact (if_pos hz).trans (if_pos (.inl hz)).symm
  · by_cases ho : s.proofOff t a pvec k err j = []
    · exact ((if_neg hz).trans (if_pos (List.isEmpty_iff.2 ho))).trans (if_pos (.inr ho)).symm
    · have some_off : (s.proofCols (arrayAddr t a) (s.passCodes (arrayAddr t a) (128 * k) (blockDrive (proofBlock pvec) j) err)
          (s.proofExpect (arrayAddr t a) k j)).isEmpty = false :=
        List.isEmpty_eq_false_iff.2 ho
      rw [if_neg hz, if_neg (not_or.2 ⟨hz, ho⟩)]
      simp only [some_off, Bool.false_eq_true, if_false]
      rfl

theorem State.proofArray_runs (s : State) (t a pvec k run : Nat) (err : Analog) :
    ((s.proofArray t a pvec k run err).tile t).runs = (s.tile t).runs := by
  unfold State.proofArray
  dsimp only
  split
  · rfl
  · split
    · split <;> rfl
    · rw [State.setTile_same]
      split <;> rfl

/-- Proofs keep the run of their tile, so that a proof sequence may read it before or between them. -/
theorem State.foldl_proofArray_runs (s : State) (t pvec k : Nat) (err : Analog) (as : List Nat) :
    as.foldl (fun u a => u.proofArray t a pvec k (s.tile t).runs err) s = as.foldl (fun u a => u.proofArray t a pvec k (u.tile t).runs err) s := by
  induction as generalizing s with
  | nil => rfl
  | cons a as ih =>
    rw [List.foldl_cons, List.foldl_cons, ← ih, State.proofArray_runs]

section
variable {s : State} {t nx pvec widx arrays : Nat} (err : Analog) (hs : s.Stands t ⟨nx, .proof pvec widx arrays⟩)
include hs

theorem execProof_waits (hb : ∃ a ∈ maskList arrays, (s.arr (s.servingArray (arrayAddr t a))).prog ≠ none) : exec (.proof t err) s = .next s := by
  obtain ⟨ht, hc⟩ := hs
  show execProof t err s = _
  simp only [execProof, onTile_in ht, hc]
  rw [if_pos (by simpa [List.any_eq_true, Option.isSome_iff_ne_none] using hb)]

theorem execProof_proves (hf : ∀ a ∈ maskList arrays, (s.arr (s.servingArray (arrayAddr t a))).prog = none) : exec (.proof t err) s =
    .next ((((maskList arrays).foldl (fun s a => s.proofArray t a pvec widx (s.tile t).runs err) s).moveTo t nx).settle t) := by
  obtain ⟨ht, hc⟩ := hs
  show execProof t err s = _
  simp only [execProof, onTile_in ht, hc]
  rw [if_neg (by simpa [List.any_eq_true] using hf), State.foldl_proofArray_runs]

end

/-- Settles O22: KCMP by what it makes of each register, PROOF by its two outcomes, the proof of one array by `proofArray_outcome`. -/
theorem comparesAndProofs : Obligations.ComparesAndProofs := by
  unfold Obligations.ComparesAndProofs
  refine ⟨fun s t wr arrays q rest ht hq ho _ hr hf => ?_, fun s t nx pvec widx arrays err hs => ⟨execProof_waits err hs, execProof_proves err hs⟩,
    fun s t a pvec k run err => ?_⟩
  · obtain ⟨u, hu, hwrs, hds⟩ := execKcmp_compares ht hq ho hr hf
    refine ⟨u, hu, fun a ha => ?_⟩
    rw [hwrs, hds, s.getD_compared t _ (maskList_nodup arrays) ha]
    refine ⟨fun hc => if_pos (List.isEmpty_iff.2 hc), fun hc => ⟨if_neg (mt List.isEmpty_iff.1 hc), fun d hd => ?_⟩⟩
    exact List.mem_append_right _ (List.mem_flatMap.2 ⟨a, ha, hd⟩)
  · intro addr off driven skipped
    refine ⟨State.proofArray_skipped k run err, fun hk hi => ?_⟩
    have outcome := State.proofArray_outcome k run err hk hi
    refine ⟨fun clean => outcome.trans (if_pos ?_), fun j hj hd ho => ?_⟩
    · refine List.isEmpty_iff.2 (List.eq_nil_iff_forall_not_mem.2 (fun d hd => ?_))
      obtain ⟨j, hj, hz, ho, -⟩ := State.mem_proofDisputes.1 hd
      exact ho (clean j hj hz)
    · have opened : s.proofDispute t a pvec k run err j ∈ s.proofDisputes t a pvec k run err := State.mem_proofDisputes.2 ⟨j, hj, hd, ho, rfl⟩
      rw [outcome, if_neg (fun he => by rw [List.isEmpty_iff.1 he] at opened; cases opened), State.setTile_same]
      exact ⟨_, List.mem_append_right _ opened, rfl, rfl, rfl, rfl, rfl⟩

end Sys2Proof.Machine
end

section
/-!
PROOFS. What a fault of a partition can reach, said once: events and aborts leave everything of the device but its events, its due vectors and
its partitions, and of a partition they move only what is due in it.
-/

namespace Sys2Proof.Machine

open Sys2Proof

/-! ### The device apart from its faults -/

/-- The device but for what faults move: the events, the host interface with its due vectors, and the partitions. -/
def State.plant (s : State) : State := { s with ev := {}, host := {}, parts := [] }

theorem State.tile_of_plant {s u : State} (h : u.plant = s.plant) (k : Nat) : u.tile k = s.tile k := (congrArg (State.tile · k) h :)
theorem State.cluster_of_plant {s u : State} (h : u.plant = s.plant) (k : Nat) : u.cluster k = s.cluster k := (congrArg (State.cluster · k) h :)
theorem State.tiles_of_plant {s u : State} (h : u.plant = s.plant) : u.tiles = s.tiles := (congrArg State.tiles h :)
theorem State.arrays_of_plant {s u : State} (h : u.plant = s.plant) : u.arrays = s.arrays := (congrArg State.arrays h :)
theorem State.kv_of_plant {s u : State} (h : u.plant = s.plant) : u.kv = s.kv := (congrArg State.kv h :)
theorem State.ledger_of_plant {s u : State} (h : u.plant = s.plant) : u.ledger = s.ledger := (congrArg State.ledger h :)

@[simp] theorem State.setPart_plant (s : State) (p : Nat) (x : Part) : (s.setPart p x).plant = s.plant := rfl

@[simp] theorem State.noteBit_plant (s : State) (off i : Nat) : (s.noteBit off i).plant = s.plant := by
  unfold State.noteBit; split <;> rfl

@[simp] theorem State.dueVector_plant (s : State) (v : Nat) : (s.dueVector v).plant = s.plant := by
  unfold State.dueVector; split <;> rfl

@[simp] theorem State.raise_plant (s : State) (code sev : Nat) (part : Option Nat) (lkind loc detail handle : Nat) :
    (s.raise code sev part lkind loc detail handle).plant = s.plant := by
  have due : (if s.ev.log.isEmpty then s.dueVector 1 else s).plant = s.plant := by
    split
    · exact s.dueVector_plant 1
    · rfl
  unfold State.raise
  dsimp only
  split
  · exact due
  · exact due

@[simp] theorem State.errPush_plant (s : State) (sev : Nat) : (s.errPush sev).plant = s.plant := by
  unfold State.errPush
  split
  · rfl
  · split
    · rfl
    · exact (State.raise_plant ..).trans (State.noteBit_plant ..)

@[simp] theorem State.dueReset_plant (s : State) (cause loc : Nat) : (s.dueReset cause loc).plant = s.plant := by
  unfold State.dueReset; split <;> rfl

@[simp] theorem State.partFault_plant (s : State) (p cause lkind loc : Nat) : (s.partFault p cause lkind loc).plant = s.plant := by
  unfold State.partFault
  dsimp only
  split
  · exact (State.dueReset_plant ..).trans (s.errPush_plant 2)
  · exact s.errPush_plant 2

@[simp] theorem State.abortAtBeatEnd_plant (s : State) (p handle : Nat) : (s.abortAtBeatEnd p handle).plant = s.plant := by
  unfold State.abortAtBeatEnd; split <;> rfl

@[simp] theorem State.fmtInvalid_plant (s : State) (p t idx handle : Nat) : (s.fmtInvalid p t idx handle).plant = s.plant := by
  simp [State.fmtInvalid]

/-! ### A partition and what is due in it -/

/-- A partition but for what faults move in it: its restart, and the requests to abort at the end of the beat. -/
def Part.calm (x : Part) : Part := { x with restarting := none, abort := [] }

/-- What an update of one partition keeps of it, it keeps of every partition. -/
theorem State.setPart_part_keeps {β : Type} (g : Part → β) {s : State} {p : Nat} {x : Part} (h : g x = g (s.part p)) (k : Nat) :
    g ((s.setPart p x).part k) = g (s.part k) := by
  by_cases hk : k = p
  · rw [hk, State.setPart_same, h]
  · rw [State.setPart_other _ _ _ _ hk]

@[simp] theorem State.raise_part_at (s : State) (code sev : Nat) (part : Option Nat) (lkind loc detail handle k : Nat) :
    (s.raise code sev part lkind loc detail handle).part k = s.part k := by simp only [State.part, State.raise_parts]

@[simp] theorem State.errPush_parts (s : State) (sev : Nat) : (s.errPush sev).parts = s.parts := by
  unfold State.errPush
  split
  · rfl
  · split
    · rfl
    · simp

@[simp] theorem State.dueReset_parts (s : State) (cause loc : Nat) : (s.dueReset cause loc).parts = s.parts := by
  unfold State.dueReset; split <;> rfl

theorem State.partFault_part_calm (s : State) (p cause lkind loc k : Nat) :
    ((s.partFault p cause lkind loc).part k).calm = (s.part k).calm := by
  have pushed : (s.errPush 2).part k = s.part k := by simp only [State.part, State.errPush_parts]
  unfold State.partFault
  dsimp only
  split
  · simp only [State.part, State.dueReset_parts, State.errPush_parts]
  · exact (State.setPart_part_keeps Part.calm (by rfl) k).trans (congrArg Part.calm pushed)

theorem State.abortAtBeatEnd_part_calm (s : State) (p handle k : Nat) : ((s.abortAtBeatEnd p handle).part k).calm = (s.part k).calm := by
  unfold State.abortAtBeatEnd
  split
  · rfl
  · exact State.setPart_part_keeps Part.calm (by rfl) k

theorem State.fmtInvalid_part_calm (s : State) (p t idx handle k : Nat) : ((s.fmtInvalid p t idx handle).part k).calm = (s.part k).calm := by
  unfold State.fmtInvalid
  rw [State.abortAtBeatEnd_part_calm, State.raise_part_at]

@[simp] theorem State.partFault_clusters_at (s : State) (p cause lkind loc k : Nat) :
    ((s.partFault p cause lkind loc).part k).clusters = (s.part k).clusters :=
  (congrArg Part.clusters (s.partFault_part_calm p cause lkind loc k) :)
@[simp] theorem State.partFault_spanUnder (s : State) (p cause lkind loc k : Nat) :
    ((s.partFault p cause lkind loc).part k).spanUnder = (s.part k).spanUnder :=
  (congrArg Part.spanUnder (s.partFault_part_calm p cause lkind loc k) :)
@[simp] theorem State.fmtInvalid_clusters_at (s : State) (p t idx handle k : Nat) :
    ((s.fmtInvalid p t idx handle).part k).clusters = (s.part k).clusters :=
  (congrArg Part.clusters (s.fmtInvalid_part_calm p t idx handle k) :)
@[simp] theorem State.fmtInvalid_spanUnder (s : State) (p t idx handle k : Nat) :
    ((s.fmtInvalid p t idx handle).part k).spanUnder = (s.part k).spanUnder :=
  (congrArg Part.spanUnder (s.fmtInvalid_part_calm p t idx handle k) :)

theorem State.abortAtBeatEnd_mem (s : State) (p handle : Nat) : handle ∈ ((s.abortAtBeatEnd p handle).part p).abort := by
  unfold State.abortAtBeatEnd
  split
  · assumption
  · simp

/-- Who owns a tile is a matter of the partitions' clusters. -/
theorem State.partOfTile_congr {s u : State} (h : ∀ k, (u.part k).clusters = (s.part k).clusters) (t : Nat) : u.partOfTile t = s.partOfTile t := by
  simp only [State.partOfTile, State.partOfCluster, h]

/-! ### Containment (R371) -/

@[simp] theorem State.raise_resetDue (s : State) (code sev : Nat) (part : Option Nat) (lkind loc detail handle : Nat) :
    (s.raise code sev part lkind loc detail handle).ev.resetDue = s.ev.resetDue := by
  have due : (if s.ev.log.isEmpty then s.dueVector 1 else s).ev.resetDue = s.ev.resetDue := by
    split
    · rw [State.dueVector_ev]
    · rfl
  unfold State.raise
  dsimp only
  split
  · exact due
  · exact due

@[simp] theorem State.raise_containment (s : State) (code sev : Nat) (part : Option Nat) (lkind loc detail handle : Nat) :
    (s.raise code sev part lkind loc detail handle).containment = s.containment := by
  simp [State.containment]

/-- Writing a partition that no restart is due in brings no containment. -/
theorem State.setPart_containment {s : State} {p : Nat} {x : Part} (hx : x.restarting = none) (hs : s.containment = false) :
    (s.setPart p x).containment = false := by
  simp only [State.containment, Bool.or_eq_false_iff, List.any_eq_false] at hs ⊢
  obtain ⟨⟨reset, parts⟩, rebuild⟩ := hs
  refine ⟨⟨reset, fun y hy => ?_⟩, rebuild⟩
  rcases mem_put p x s.parts y hy with rfl | hy
  · simp [hx]
  · exact parts y hy

theorem State.fmtInvalid_containment {s : State} {p : Nat} (hp : (s.part p).restarting = none) (hs : s.containment = false) (t idx handle : Nat) :
    (s.fmtInvalid p t idx handle).containment = false := by
  unfold State.fmtInvalid State.abortAtBeatEnd
  split
  · rwa [State.raise_containment]
  · exact State.setPart_containment (by simpa using hp) (by rwa [State.raise_containment])

/-- With no containment in progress, a fault makes the restart of its partition due, with its cause and place (R365, R371). -/
theorem State.partFault_restarting {s : State} (hs : s.containment = false) (p cause lkind loc : Nat) :
    ((s.partFault p cause lkind loc).part p).restarting = some (cause, lkind, loc) := by
  unfold State.partFault
  simp [hs]

/-- The units of a partition run only while no restart is due in it. -/
theorem State.restarting_of_runs {s : State} {p : Nat} (h : s.runs p = true) : (s.part p).restarting = none := by
  simp only [State.runs, Bool.and_eq_true, Option.isNone_iff_eq_none] at h
  exact h.2

end Sys2Proof.Machine
end

section
/-!
PROOFS. More of what the work that follows every event of a tile (`State.settle`) leaves: the tallies and output blocks of tiles, what partitions
hold, and of clusters everything but the engines' reservations.
-/

namespace Sys2Proof.Machine

open Sys2Proof

/-! ### Tiles and partitions -/

@[simp] theorem State.settle_slots (s : State) (t k : Nat) : ((s.settle t).tile k).slots = (s.tile k).slots :=
  (congrArg Tile.slots (s.settle_tile_work t k) :)
@[simp] theorem State.settle_outBuf (s : State) (t k : Nat) : ((s.settle t).tile k).outBuf = (s.tile k).outBuf :=
  (congrArg Tile.outBuf (s.settle_tile_work t k) :)
@[simp] theorem State.settle_fb (s : State) (t k : Nat) : ((s.settle t).tile k).fb = (s.tile k).fb :=
  (congrArg Tile.fb (s.settle_tile_work t k) :)

theorem State.settle_part_work (s : State) (t k : Nat) : ((s.settle t).part k).work = (s.part k).work :=
  SettleBlind.settle (g := fun s => (s.part k).work)
    ⟨fun _ _ _ _ => rfl, fun _ _ _ h => State.setPart_part_keeps Part.work h k, fun _ _ _ => rfl, fun _ _ _ => by simp, fun _ _ => rfl,
      fun _ _ => rfl⟩ s t

@[simp] theorem State.settle_abort (s : State) (t k : Nat) : ((s.settle t).part k).abort = (s.part k).abort :=
  (congrArg Part.abort (s.settle_part_work t k) :)
@[simp] theorem State.settle_spanUnder (s : State) (t k : Nat) : ((s.settle t).part k).spanUnder = (s.part k).spanUnder :=
  (congrArg Part.spanUnder (s.settle_part_work t k) :)

/-! ### Clusters -/

/-- A cluster but for what messages that leave move: the reservations of its engines. -/
def Cluster.work (x : Cluster) : Cluster := { x with burn := [], attn := [], logit := [] }

@[simp] theorem Cluster.setEng_work (x : Cluster) (port rbuf bank : Nat) (r : EngResv) : (x.setEng port rbuf bank r).work = x.work := by
  unfold Cluster.setEng
  split
  · rfl
  · split <;> rfl

theorem State.setCluster_cluster_work {s : State} {c : Nat} {x : Cluster} (h : x.work = (s.cluster c).work) (k : Nat) :
    ((s.setCluster c x).cluster k).work = (s.cluster k).work := by
  by_cases hk : k = c
  · rw [hk, State.setCluster_same, h]
  · rw [State.setCluster_other _ _ _ _ hk]

theorem State.launchOne_cluster_work (s : State) (p sender group : Nat) (chan : Channel) (mesh : Option Nat) (hdr : VecHdr) (body : Payload)
    (m : Member) (k : Nat) : ((s.launchOne p sender group chan mesh hdr body m).cluster k).work = (s.cluster k).work := by
  unfold State.launchOne
  split
  · rfl
  · dsimp only
    split
    · split <;> rfl
    · exact State.setCluster_cluster_work (Cluster.setEng_work ..) k

theorem State.launch_cluster_work (s : State) (p sender group : Nat) (chan : Channel) (src : Option MeshSrc) (hdr : VecHdr) (body : Payload)
    (ms : List Member) (k : Nat) : ((s.launch p sender group chan src hdr body ms).cluster k).work = (s.cluster k).work := by
  unfold State.launch
  split
  · exact State.foldl_keeps (fun s => (s.cluster k).work) _ (fun s m => s.launchOne_cluster_work (k := k) ..) _ _
  · exact State.foldl_keeps (fun s => (s.cluster k).work) _ (fun s m => s.launchOne_cluster_work (k := k) ..) _ _

theorem State.feedOne_cluster_work {s u : State} {p : Nat} {draft : Bool} (h : s.feedOne p draft = some u) (k : Nat) :
    (u.cluster k).work = (s.cluster k).work := by
  unfold State.feedOne at h
  split at h
  · obtain ⟨-, h⟩ := Option.ite_none_left_eq_some.1 h
    cases h
    exact State.foldl_keeps (fun s => (s.cluster k).work) _ (fun s i => s.launch_cluster_work (k := k) ..) _ _
  · cases h

theorem State.feed_cluster_work (n : Nat) (s : State) (p k : Nat) : ((State.feed n s p).cluster k).work = (s.cluster k).work := by
  induction n generalizing s with
  | zero => rfl
  | succ n ih =>
    rw [State.feed]
    split
    next h => exact (ih _).trans (State.feedOne_cluster_work h k)
    next =>
      split
      next h => exact (ih _).trans (State.feedOne_cluster_work h k)
      next => rfl

@[simp] theorem State.issueAll_clusters (n : Nat) (s : State) (t : Nat) : (State.issueAll n s t).clusters = s.clusters := by
  induction n generalizing s with
  | zero => rfl
  | succ n ih =>
    unfold State.issueAll
    split
    · rfl
    · split
      · exact ih _
      · rfl

@[simp] theorem State.edgeGrants_clusters (s : State) (p : Nat) : (s.edgeGrants p).clusters = s.clusters := by
  unfold State.edgeGrants
  split
  · refine State.foldl_keeps State.clusters _ (fun s i => ?_) _ _
    dsimp only
    split
    · rfl
    · simp only [apply_ite State.clusters, State.rein_clusters, State.setPart_clusters, ite_self]
  · rfl

theorem State.settle_cluster_work (s : State) (t k : Nat) : ((s.settle t).cluster k).work = (s.cluster k).work := by
  unfold State.settle
  rw [State.feed_cluster_work]
  simp only [State.cluster, State.edgeGrants_clusters, State.issueAll_clusters, State.setTile_clusters]

@[simp] theorem State.settle_cluster_inlayQ (s : State) (t k : Nat) : ((s.settle t).cluster k).inlayQ = (s.cluster k).inlayQ :=
  (congrArg Cluster.inlayQ (s.settle_cluster_work t k) :)

end Sys2Proof.Machine
end

section
/-!
PROOFS. Tallies on their way out of a tile (O23): TALLY drains window results into tally slots, SKIVE makes an output block of a slot, SEND lets
blocks or a slot leave.
-/

namespace Sys2Proof.Machine

open Sys2Proof

/-! ### TALLY (R82) -/

/-- A window result that goes into its slot leaves every partition the clusters it has. -/
theorem State.tallyOne_clusters (s : State) (p t idx run eref eb slot lane : Nat) (r : Int) (k : Nat) :
    ((s.tallyOne p t idx run eref eb slot lane r).part k).clusters = (s.part k).clusters := by
  unfold State.tallyOne
  dsimp only
  split
  · exact s.fmtInvalid_clusters_at ..
  · exact State.setPart_part_keeps Part.clusters (by rfl) k
  · split
    · rfl
    · exact s.partFault_clusters_at ..

theorem State.tallyArray_clusters (s : State) (p t idx run tslot eref a r k : Nat) :
    ((s.tallyArray p t idx run tslot eref a r).part k).clusters = (s.part k).clusters := by
  unfold State.tallyArray
  dsimp only
  rw [State.setTile_part_at]
  split
  · rfl
  · refine State.foldl_keeps (fun s => (s.part k).clusters) _ (fun s i => ?_) _ _
    split
    · exact s.tallyOne_clusters (k := k) ..
    · rfl

/-- Draining arrays leaves the owner of the tile, so that a TALLY may look it up before or between them. -/
theorem State.foldl_tallyArray_owner (s : State) (t idx run tslot eref r : Nat) (as : List Nat) :
    as.foldl (fun u a => u.tallyArray (u.partOfTile t) t idx run tslot eref a r) s =
      as.foldl (fun u a => u.tallyArray (s.partOfTile t) t idx run tslot eref a r) s := by
  induction as generalizing s with
  | nil => rfl
  | cons a as ih =>
    have owner : (s.tallyArray (s.partOfTile t) t idx run tslot eref a r).partOfTile t = s.partOfTile t :=
      State.partOfTile_congr (s.tallyArray_clusters _ _ _ _ _ _ _ _) t
    rw [List.foldl_cons, List.foldl_cons, ih, owner]

theorem execTally_drains {s : State} {t tslot wr vreg arrays : Nat} {q : QEnt} {rest : List QEnt} (ht : t < 1024)
    (hq : (s.tile t).tallyQ = q :: rest) (ho : q.op = .tally tslot wr vreg arrays) (hr : s.runs (s.partOfTile t) = true)
    (hw : ∀ a ∈ maskList arrays, if a < 62 then (getD Wr.empty (wrKey a (bankWr q.run wr)) (s.tile t).wrs).checked = true
      else (s.tile t).trace.any (fun p => p.wr = bankWr q.run wr && p.arrays.contains a) = false)
    (hv : (s.tile t).vregReady q.run q.seq (bankVreg q.run vreg) = true)
    (hs : ((s.tile t).tallySlots q.run tslot arrays).any ((s.tile t).slotRead q.seq) = false) :
    exec (.tally t) s = .next (((maskList arrays).foldl (fun s' a => s'.tallyArray (s.partOfTile t) t q.idx q.run tslot
      (getD 0 (bankVreg q.run vreg) (s.tile t).eref) a (bankWr q.run wr)) (s.setTile t { s.tile t with tallyQ := rest })).settle t) := by
  obtain ⟨seq, run, draft, idx, op⟩ := q
  subst ho
  have drained : (maskList arrays).all (fun a =>
      if a ≥ 62 then !(s.tile t).trace.any (fun p => p.wr = bankWr run wr && p.arrays.contains a)
      else (getD Wr.empty (wrKey a (bankWr run wr)) (s.tile t).wrs).checked) = true := by
    refine List.all_eq_true.2 (fun a ha => ?_)
    have h := hw a ha
    by_cases hk : a < 62
    · rw [if_pos hk] at h
      rw [if_neg (by omega), h]
    · rw [if_neg hk] at h
      rw [if_pos (by omega), h]
      rfl
  show execTally t s = _
  simp only [execTally, onTile_in ht, hq]
  rw [if_neg (by simp only [hr, drained, hv, hs]; decide), State.foldl_tallyArray_owner]
  rfl

/-! ### SKIVE (R83) -/

@[simp] theorem State.countSkive_plant (s : State) (p handle : Nat) (n8 fellBack : Bool) : (s.countSkive p handle n8 fellBack).plant = s.plant := by
  unfold State.countSkive
  split
  · rfl
  · simp only [apply_ite State.plant, State.raise_plant, State.setPart_plant, ite_self]

/-- A magnitude overflow raises NUM_OVERFLOW and notes that the request ends at the end of the beat (R62). -/
def State.skiveOverflow (s : State) (p t handle : Nat) (overflow : Bool) : State :=
  if overflow then (s.raise 0x0002 2 (some p) 1 (t * 64) 0 handle).abortAtBeatEnd p handle else s

@[simp] theorem State.skiveOverflow_plant (s : State) (p t handle : Nat) (overflow : Bool) :
    (s.skiveOverflow p t handle overflow).plant = s.plant := by
  unfold State.skiveOverflow
  split
  · exact (State.abortAtBeatEnd_plant ..).trans (State.raise_plant ..)
  · rfl

theorem State.skiveOverflow_abort (s : State) (p t handle : Nat) : handle ∈ ((s.skiveOverflow p t handle true).part p).abort :=
  State.abortAtBeatEnd_mem ..

/-- The tile after a SKIVE of slot `i` into output block `o`. -/
def Tile.putSkived (x : Tile) (rest : List QEnt) (i o : Nat) (b : Block) : Tile :=
  { x with skiveQ := rest, slots := del i x.slots, outBuf := put o b x.outBuf, fb := b.fb }

/-- The device after a SKIVE has made `k` of slot `i`, for output block `o` and the request `handle`. -/
def State.skived (s : State) (t : Nat) (rest : List QEnt) (i o handle : Nat) (n8 : Bool) (k : Skived) : State :=
  ((s.setTile t ((s.tile t).putSkived rest i o k.blk)).countSkive (s.partOfTile t) handle n8 k.fellBack).skiveOverflow (s.partOfTile t) t handle
    k.overflow

theorem State.skived_plant (s : State) (t : Nat) (rest : List QEnt) (i o handle : Nat) (n8 : Bool) (k : Skived) :
    (s.skived t rest i o handle n8 k).plant = (s.setTile t ((s.tile t).putSkived rest i o k.blk)).plant :=
  (State.skiveOverflow_plant ..).trans (State.countSkive_plant ..)

theorem execSkive_completes {s : State} {t tslot mode fmt eSt satMax zeroMax oblk steprow : Nat} {q : QEnt} {rest : List QEnt} (ht : t < 1024)
    (hq : (s.tile t).skiveQ = q :: rest) (ho : q.op = .skive tslot mode fmt eSt satMax zeroMax oblk steprow)
    (hr : s.runs (s.partOfTile t) = true) (hp : (s.tile t).slotPending q.seq (bankEntry q.run tslot) = false)
    (hd : (s.tile t).tallyResvDone q.run q.seq (bankEntry q.run tslot) = true) (hs : (s.tile t).slotRead q.seq (bankEntry q.run tslot) = false)
    (hb : (s.tile t).outRead q.seq (bankEntry q.run oblk) = false) :
    exec (.skive t) s = .next ((s.skived t rest (bankEntry q.run tslot) (bankEntry q.run oblk) ((s.tile t).handleOf q.run) (fmt = 1)
      (skive (mode = 1) (fmt = 1) eSt satMax zeroMax ((s.tile t).skiveLanes (bankEntry q.run tslot) steprow))).settle t) := by
  obtain ⟨seq, run, draft, idx, op⟩ := q
  subst ho
  show execSkive t s = _
  simp only [execSkive, onTile_in ht, hq]
  rw [if_neg (by simp [hr, hp, hd, hs, hb])]
  rfl

/-- What a SKIVE leaves in its tile, and the request that it ends, as they stand when the tile has settled. -/
theorem State.skived_settles (s : State) (t : Nat) (rest : List QEnt) (i o handle : Nat) (n8 : Bool) (k : Skived) :
    let u := (s.skived t rest i o handle n8 k).settle t
    find? o (u.tile t).outBuf = some k.blk ∧ (u.tile t).fb = k.blk.fb ∧ (u.tile t).slots = del i (s.tile t).slots ∧
    (u.tile t).wrs = (s.tile t).wrs ∧ (k.overflow = true → handle ∈ (u.part (s.partOfTile t)).abort) ∧ u.arrays = s.arrays ∧ u.kv = s.kv := by
  have plant := s.skived_plant t rest i o handle n8 k
  simp only [State.settle_outBuf, State.settle_fb, State.settle_slots, State.settle_wrs, State.settle_arrays, State.settle_kv, State.settle_abort,
    State.tile_of_plant plant, State.arrays_of_plant plant, State.kv_of_plant plant, State.setTile_same]
  refine ⟨find_put_same .., rfl, rfl, rfl, fun overflow => ?_, rfl, rfl⟩
  unfold State.skived
  rw [overflow]
  exact State.skiveOverflow_abort ..

/-! ### SEND (R84) -/

/-- The message waits at the edge router of its port, whose grant for DBUF it uses up (R84, R254). -/
def State.toEgress (s : State) (p port dbuf : Nat) (hdr : VecHdr) (body : Payload) : State :=
  (s.setGirth p { s.girth p with grants := (s.girth p).grants.erase (port, dbuf) }).setPart p
    { s.part p with egress := (s.part p).egress ++ [(port, dbuf, hdr, body)] }

/-- Settles O23: TALLY by its fold over the named arrays, SKIVE by what it writes in its tile, SEND by its two ways out; what follows each of them
(`settle`) leaves the slots, the output blocks, the registers and the aborts. -/
theorem talliesAreSkivedAndSent : Obligations.TalliesAreSkivedAndSent := by
  unfold Obligations.TalliesAreSkivedAndSent
  refine ⟨fun s t tslot wr vreg arrays q rest ht hq ho hr hw hv hs => execTally_drains ht hq ho hr hw hv hs,
    fun s t tslot mode fmt eSt satMax zeroMax oblk steprow q rest ht hq ho hr hp hd hs hb =>
      ⟨_, execSkive_completes ht hq ho hr hp hd hs hb, State.skived_settles ..⟩,
    fun s t src skind count path dest dbuf mcast part vreg first q rest ts h ht hq ho => ?_⟩
  intro x p hr hts hh hy hw i blks lanes body hdr u
  simp only [x, p] at hr hts hh hy
  have leaves : execSend t s = .next (State.settle (if path = 7 then u.toEgress p (dest % 16) dbuf hdr body
      else u.launch p (draftSender q.draft (stitchSender t q.idx)) (if mcast = 1 ∧ path > 3 then dest else 1024) (pathChannel path)
        (if path > 4 then some ⟨t / 64, false⟩ else none) hdr body (sendMembers ts.groups t path dest dbuf mcast)) t) := by
    simp only [execSend, onTile_in ht, hq, ho, hts, hh]
    rw [if_neg (by simp [hr, hy, hw])]
    rfl
  exact ⟨fun h7 => leaves.trans (congrArg (fun v => Host.Outcome.next (State.settle v t)) (if_pos h7)),
    fun h7 => leaves.trans (congrArg (fun v => Host.Outcome.next (State.settle v t)) (if_neg h7))⟩

end Sys2Proof.Machine
end

section
/-!
PROOFS. Inlays and stalls (O24): INLAY asks the cluster's inlay engine, INLAY_ENGINE_COMMIT ends its oldest INLAY, FAB_STALL contains a SEND that
lacks a grant.
-/

namespace Sys2Proof.Machine

open Sys2Proof

/-! ### INLAY (R86) -/

section
variable {s : State} {t : Nat} {q : QEnt} {h : VecHdr} (ht : t < 1024)
  (hq : (s.tile t).inlayQ.find? (fun q => !(s.cluster (t / 64)).inlayQ.contains (t, q.seq)) = some q)
  (hr : s.runs (s.partOfTile t) = true) (hh : (s.tile t).hdrOf q.run = some h)
include ht hq hr hh

theorem execInlay_asks {n : Nat} (hn : (s.extn (handleIdx h.handle)).inlay = some n) : exec (.inlay t) s =
    .next (s.setCluster (t / 64) { s.cluster (t / 64) with inlayQ := (s.cluster (t / 64)).inlayQ ++ [(t, q.seq)] }) := by
  show execInlay t s = _
  simp only [execInlay, onTile_in ht, hq, hr, hh, hn, not_true_eq_false, if_false]

theorem execInlay_commits (hn : (s.extn (handleIdx h.handle)).inlay = none) : exec (.inlay t) s =
    .next ((s.setTile t { s.tile t with inlayQ := (s.tile t).inlayQ.filter (fun y => y.seq ≠ q.seq) }).settle t) := by
  show execInlay t s = _
  simp only [execInlay, onTile_in ht, hq, hr, hh, hn, not_true_eq_false, if_false]

end

/-! ### INLAY_ENGINE_COMMIT (R341) -/

/-- The engine of cluster `c` has taken its oldest INLAY, and the terms below the span are counted (R59). -/
def State.inlayCounted (s : State) (c p : Nat) (rest : List (Nat × Nat)) (terms : List (Nat × Aligned)) : State :=
  (s.setCluster c { s.cluster c with inlayQ := rest }).setPart p
    { s.part p with spanUnder := satAdd 32 (s.part p).spanUnder (terms.countP (fun y => y.2 = .underflow)) }

/-- The same, with FMT_INVALID raised where a term is invalid (R50, R59). -/
def State.inlayTaken (s : State) (c t : Nat) (rest : List (Nat × Nat)) (idx handle : Nat) (terms : List (Nat × Aligned)) : State :=
  if terms.any (fun y => y.2 = .invalid) then (s.inlayCounted c (s.partOfTile t) rest terms).fmtInvalid (s.partOfTile t) t idx handle
  else s.inlayCounted c (s.partOfTile t) rest terms

section
variable (s : State) (c t : Nat) (rest : List (Nat × Nat)) (idx handle : Nat) (terms : List (Nat × Aligned))

theorem State.inlayTaken_plant :
    (s.inlayTaken c t rest idx handle terms).plant = (s.setCluster c { s.cluster c with inlayQ := rest }).plant := by
  unfold State.inlayTaken
  split
  · exact State.fmtInvalid_plant ..
  · rfl

theorem State.inlayTaken_spanUnder : ((s.inlayTaken c t rest idx handle terms).part (s.partOfTile t)).spanUnder =
    satAdd 32 (s.part (s.partOfTile t)).spanUnder (terms.countP (fun y => y.2 = .underflow)) := by
  have counted : ((s.inlayCounted c (s.partOfTile t) rest terms).part (s.partOfTile t)).spanUnder =
      satAdd 32 (s.part (s.partOfTile t)).spanUnder (terms.countP (fun y => y.2 = .underflow)) := by
    rw [State.inlayCounted, State.setPart_same]
  unfold State.inlayTaken
  split
  · rw [State.fmtInvalid_spanUnder, counted]
  · exact counted

theorem State.inlayTaken_containment (hr : s.runs (s.partOfTile t) = true) (hs : s.containment = false) :
    (s.inlayTaken c t rest idx handle terms).containment = false := by
  have running := State.restarting_of_runs hr
  have counted : (s.inlayCounted c (s.partOfTile t) rest terms).containment = false := State.setPart_containment (by exact running) (by exact hs)
  unfold State.inlayTaken
  split
  · exact State.fmtInvalid_containment (by rwa [State.inlayCounted, State.setPart_same]) counted ..
  · exact counted

end

/-- The tile once its INLAY with issue number `seq` has left its queue. -/
def Tile.dropInlay (x : Tile) (seq : Nat) : Tile := { x with inlayQ := x.inlayQ.filter (fun y => y.seq ≠ seq) }

/-- The accumulator goes into its slot; a slot of another E_ref is a fault of partition `p` (R58). -/
def State.inlayAdded (s : State) (p t : Nat) (x : Tile) (slot : Nat) (sum : Option Slot) : State :=
  match sum with
  | some sl => (s.setTile t { x with slots := put slot sl x.slots }).settle t
  | none => (s.setTile t x).partFault p 1 1 (t * 64)

/-- Whichever way the accumulator goes, the engine's queue, the arrays, the ledger and the count below the span stay. -/
theorem State.inlayAdded_keeps (s : State) (p t : Nat) (x : Tile) (slot : Nat) (sum : Option Slot) (c k : Nat) :
    ((s.inlayAdded p t x slot sum).cluster c).inlayQ = (s.cluster c).inlayQ ∧ (s.inlayAdded p t x slot sum).arrays = s.arrays ∧
    (s.inlayAdded p t x slot sum).ledger = s.ledger ∧ ((s.inlayAdded p t x slot sum).part k).spanUnder = (s.part k).spanUnder := by
  cases sum with
  | some sl =>
    simp only [State.inlayAdded, State.settle_cluster_inlayQ, State.settle_arrays, State.settle_ledger, State.settle_spanUnder]
    exact ⟨rfl, rfl, rfl, rfl⟩
  | none =>
    have plant := (s.setTile t x).partFault_plant p 1 1 (t * 64)
    exact ⟨congrArg Cluster.inlayQ (State.cluster_of_plant plant c), (State.arrays_of_plant plant :), (State.ledger_of_plant plant :),
      (s.setTile t x).partFault_spanUnder ..⟩

theorem State.inlayAdded_slot (s : State) (p t : Nat) (x : Tile) (slot : Nat) {sum : Option Slot} {sl : Slot} (h : sum = some sl) :
    find? slot ((s.inlayAdded p t x slot sum).tile t).slots = some sl := by
  subst h
  simp only [State.inlayAdded, State.settle_slots, State.setTile_same, find_put_same]

theorem State.inlayAdded_restarting {s : State} (hs : s.containment = false) (p t : Nat) (x : Tile) (slot : Nat) {sum : Option Slot}
    (h : sum = none) : ((s.inlayAdded p t x slot sum).part p).restarting = some (1, 1, t * 64) := by
  subst h
  exact State.partFault_restarting (s := s.setTile t x) hs p 1 1 (t * 64)

/-! ### FAB_STALL (R127) -/

/-- A ready SEND without all its grants is raised as FAB_STALL, and its partition's fault has cause FABRIC and the tile. -/
theorem execFabStall_contains {s : State} {t : Nat} {q : QEnt} {rest : List QEnt} (ht : t < 1024) (hq : (s.tile t).sendQ = q :: rest)
    (hr : s.runs (s.partOfTile t) = true) (hy : (s.tile t).sendReady q = true) (hw : s.sendWaits t q ≠ []) :
    ∃ detail, exec (.fabStall t) s = .next ((s.raise 0x0012 2 (some (s.partOfTile t)) 3 t detail ((s.tile t).handleOf q.run)).partFault
      (s.partOfTile t) 6 3 t) := by
  apply Exists.intro
  show execFabStall t s = _
  simp only [execFabStall, onTile_in ht, hq]
  rw [if_neg (by simp [hr, hy, hw])]

/-- Settles O24: INLAY by its two outcomes, INLAY_ENGINE_COMMIT by what the engine takes and where its sum goes, FAB_STALL by its fault. -/
theorem inlaysAndStalls : Obligations.InlaysAndStalls := by
  unfold Obligations.InlaysAndStalls
  refine ⟨fun s t q h ht hq hr hh => ⟨fun n => execInlay_asks ht hq hr hh, execInlay_commits ht hq hr hh⟩,
    fun s c t seq tslot seg iblk vreg maxnz q rest h hc hl hq ho => ?_, fun s t q rest ht hq hr hs hy hw => ?_⟩
  · intro x p hh hr hb hv hs eref ds terms lanes
    simp only [x, p] at hh hr hb hv hs
    have ends : execInlayEngineCommit c s = .next ((s.inlayTaken c t rest q.idx h.handle terms).inlayAdded p t (x.dropInlay seq)
        (bankEntry q.run tslot) ((getD Slot.empty (bankEntry q.run tslot) x.slots).add eref lanes)) := by
      simp only [execInlayEngineCommit, onCluster_in hc, hl, hq, ho, hh]
      rw [if_neg (by simp only [hr, hb, hv, hs]; decide)]
      rfl
    refine ⟨_, ends, ?_⟩
    have plant := s.inlayTaken_plant c t rest q.idx h.handle terms
    obtain ⟨queue, arrays, ledger, under⟩ := (s.inlayTaken c t rest q.idx h.handle terms).inlayAdded_keeps p t (x.dropInlay seq)
      (bankEntry q.run tslot) ((getD Slot.empty (bankEntry q.run tslot) x.slots).add eref lanes) c p
    refine ⟨queue.trans ?_, arrays.trans (State.arrays_of_plant plant :), ledger.trans (State.ledger_of_plant plant :),
      under.trans (s.inlayTaken_spanUnder c t rest q.idx h.handle terms), fun sl found => State.inlayAdded_slot _ _ _ _ _ found, fun other calm => ?_⟩
    · rw [State.cluster_of_plant plant, State.setCluster_same]
    · exact State.inlayAdded_restarting (s.inlayTaken_containment c t rest q.idx h.handle terms hr calm) _ _ _ _ other
  · obtain ⟨detail, stalls⟩ := execFabStall_contains ht hq hr hy hw
    refine ⟨_, stalls, State.partFault_restarting (by rwa [State.raise_containment]) .., ?_⟩
    rw [State.tiles_of_plant (State.partFault_plant ..), State.raise_tiles]

end Sys2Proof.Machine
end

section
/-!
PROOFS. The burnisher (O26): a firing whose inputs agree and whose vectors lie in the spill region emits the blocks of its values, one whose inputs
disagree faults its partition.
-/

namespace Sys2Proof.Machine

open Sys2Proof

/-! ### A firing (R92, R103, R132) -/

/-- The blocks of `vals` leave for the group of a firing whose banks are used up, and each that could not be emitted raises NUM_OVERFLOW. -/
def State.burnSend (s : State) (c : Nat) (x : BurnIn) (vals : List (Option F32)) (n : Nat) : State :=
  ((s.burnUsed x).numOverflow x.p x.hdr.handle (emitVec x.desc.ofmt vals n).2).engEmit x.p 64 c x.d x.desc.group x.draft
    (getD [] x.desc.group x.ts.groups) x.hdr (emitVec x.desc.ofmt vals n).1

section
variable {s : State} {c op : Nat} {x : BurnIn} (hx : s.burnReady c op = some x) (bytes n : BurnIn → Nat)
  (f : State → BurnIn → List (Option F32)) (g : State → BurnIn → List (Option F32) → State)
include hx

theorem State.burnFire_disagrees (ha : x.agree = false) : s.burnFire c op bytes n f g = s.partFault x.p 2 3 (c + 2 ^ 4 * 64) := by
  simp only [State.burnFire, hx, ha, Bool.false_eq_true, not_false_eq_true, if_true]

theorem State.burnFire_agrees (ha : x.agree = true) (hb : bytes x = 0 ∨ x.desc.addr + bytes x ≤ 2 ^ 24) :
    s.burnFire c op bytes n f g = if op = 9
      then ((g s x (f s x)).burnUsed x).numOverflow x.p x.hdr.handle (emitVec x.desc.ofmt (f s x) (n x)).2
      else (g s x (f s x)).burnSend c x (f s x) (n x) := by
  simp only [State.burnFire, hx, ha, not_true_eq_false, if_false]
  rw [if_neg (by omega)]
  rfl

/-- A firing that sends its values. -/
theorem State.burnFire_sends (ho : op ≠ 9) (ha : x.agree = true) (hb : bytes x = 0 ∨ x.desc.addr + bytes x ≤ 2 ^ 24) :
    s.burnFire c op bytes n f g = (g s x (f s x)).burnSend c x (f s x) (n x) :=
  (State.burnFire_agrees hx bytes n f g ha hb).trans (if_neg ho)

/-- A firing that only stores. -/
theorem State.burnFire_stores (ho : op = 9) (ha : x.agree = true) (hb : bytes x = 0 ∨ x.desc.addr + bytes x ≤ 2 ^ 24) :
    s.burnFire c op bytes n f g = ((g s x (f s x)).burnUsed x).numOverflow x.p x.hdr.handle (emitVec x.desc.ofmt (f s x) (n x)).2 :=
  (State.burnFire_agrees hx bytes n f g ha hb).trans (if_pos ho)

end

/-! ### The operations (R134) -/

/-- Every operation of the burnisher is a firing of its own descriptors. -/
theorem exec_burnFire {i : Instr} {c op : Nat} (hi : (op, i) ∈ [(1, Instr.add c), (2, .rmsnorm c), (3, .lnorm c), (4, .act c), (5, .gate c),
    (6, .rope c), (7, .scale c), (8, .route c), (9, .store c)]) (hc : c < 16) (s : State) :
    ∃ bytes n f g, exec i s = .next (s.burnFire c op bytes n f g) := by
  simp only [List.mem_cons, Prod.mk.injEq, List.not_mem_nil, or_false] at hi
  obtain ⟨rfl, rfl⟩ | ⟨rfl, rfl⟩ | ⟨rfl, rfl⟩ | ⟨rfl, rfl⟩ | ⟨rfl, rfl⟩ | ⟨rfl, rfl⟩ | ⟨rfl, rfl⟩ | ⟨rfl, rfl⟩ | ⟨rfl, rfl⟩ := hi <;>
    exact ⟨_, _, _, _, onCluster_in hc _⟩

/-- Settles O26: every operation is a firing (`burnFire`) with its own values and bytes, and a firing faults, sends its values or only stores. -/
theorem burnisherComputesItsOperation : Obligations.BurnisherComputesItsOperation := by
  unfold Obligations.BurnisherComputesItsOperation
  intro s c op x hc hx fired
  refine ⟨fun ha i hi ho => ?_, fun ha => ⟨?add, ?rmsnorm, ?lnorm, ?act, ?gate, ?rope, ?scale, ?route, ?store⟩⟩
  · subst ho
    obtain ⟨bytes, n, f, g, fires⟩ := exec_burnFire hi hc s
    rw [fires, State.burnFire_disagrees hx bytes n f g ha]
  case add | rmsnorm | lnorm =>
    rintro rfl hb
    exact (onCluster_in hc _).trans (congrArg _ (State.burnFire_sends hx _ _ _ _ (by decide) ha (.inr hb)))
  case act | gate | rope | scale | route =>
    rintro rfl
    exact (onCluster_in hc _).trans (congrArg _ (State.burnFire_sends hx _ _ _ _ (by decide) ha (.inl rfl)))
  case store =>
    rintro rfl hb
    exact (onCluster_in hc _).trans (congrArg _ (State.burnFire_stores hx _ _ _ _ rfl ha (.inr hb)))

end Sys2Proof.Machine
end

section
/-!
PROOFS. The ranked lists of the awl (O17, O19): the rank of a token is a linear order, that of its value and then of its ID, and `rankSort` is an
insertion sort by it.
-/

namespace Sys2Proof.Machine

open Sys2Proof

/-! ### Values at a common exponent -/

/-- The mantissa of a value moved down to exponent `e`. -/
def mantAt (v : F32) (e : Int) : Int := v.1 * 2 ^ (v.2 - e).toNat

/-- Moving down twice is moving down once. -/
theorem mantAt_lower (v : F32) {e m : Int} (he : e ≤ m) (hm : m ≤ v.2) : mantAt v e = mantAt v m * 2 ^ (m - e).toNat := by
  have exponents : (v.2 - e).toNat = (v.2 - m).toNat + (m - e).toNat := by omega
  rw [mantAt, mantAt, exponents, Int.pow_add, Int.mul_assoc]

/-- Two values compare as their mantissas do at any exponent that both reach down to. -/
theorem ltX_iff {a b : F32} {e : Int} (ha : e ≤ a.2) (hb : e ≤ b.2) : ltX a b = true ↔ mantAt a e < mantAt b e := by
  have at_min : ltX a b = true ↔ mantAt a (min a.2 b.2) < mantAt b (min a.2 b.2) := by
    have sum : (addX b (negX a)).1 = mantAt b (min a.2 b.2) - mantAt a (min a.2 b.2) := by
      simp only [addX, negX, mantAt, Int.neg_mul, Int.min_comm b.2 a.2, Int.sub_eq_add_neg]
    rw [ltX, decide_eq_true_iff, sum]
    omega
  have below : e ≤ min a.2 b.2 := by omega
  rw [at_min, mantAt_lower a below (Int.min_le_left ..), mantAt_lower b below (Int.min_le_right ..)]
  exact (Int.mul_lt_mul_right (Int.pow_pos (by decide))).symm

/-! ### The order of ranks (R204) -/

/-- `a` ranks above `b`: by the larger value, or by the lower ID at the same value. -/
theorem ranksAbove_iff {a b : Ranked} {e : Int} (ha : e ≤ a.2.2) (hb : e ≤ b.2.2) :
    ranksAbove a b = true ↔ mantAt b.2 e < mantAt a.2 e ∨ (mantAt b.2 e = mantAt a.2 e ∧ a.1 < b.1) := by
  have above := ltX_iff hb ha
  have below := ltX_iff ha hb
  simp only [ranksAbove, Bool.or_eq_true, Bool.and_eq_true, Bool.not_eq_true', Bool.eq_false_iff, ne_eq, above, below, decide_eq_true_eq]
  omega

/-- `b` may stand below `a` in a ranked list: it does not rank above it. -/
def MayFollow (a b : Ranked) : Prop := ranksAbove b a = false

theorem mayFollow_iff {a b : Ranked} {e : Int} (ha : e ≤ a.2.2) (hb : e ≤ b.2.2) :
    MayFollow a b ↔ ¬ (mantAt a.2 e < mantAt b.2 e ∨ (mantAt a.2 e = mantAt b.2 e ∧ b.1 < a.1)) := by
  rw [MayFollow, Bool.eq_false_iff, ne_eq, ranksAbove_iff hb ha]

theorem mayFollow_refl (a : Ranked) : MayFollow a a := by
  rw [mayFollow_iff (Int.le_refl _) (Int.le_refl _)]
  omega

theorem mayFollow_of_ranksAbove {a b : Ranked} (h : ranksAbove a b = true) : MayFollow a b := by
  have ha : min a.2.2 b.2.2 ≤ a.2.2 := Int.min_le_left ..
  have hb : min a.2.2 b.2.2 ≤ b.2.2 := Int.min_le_right ..
  rw [ranksAbove_iff ha hb] at h
  rw [mayFollow_iff ha hb]
  omega

theorem mayFollow_trans {a b c : Ranked} (hab : MayFollow a b) (hbc : MayFollow b c) : MayFollow a c := by
  have ha : min a.2.2 (min b.2.2 c.2.2) ≤ a.2.2 := by omega
  have hb : min a.2.2 (min b.2.2 c.2.2) ≤ b.2.2 := by omega
  have hc : min a.2.2 (min b.2.2 c.2.2) ≤ c.2.2 := by omega
  rw [mayFollow_iff ha hb] at hab
  rw [mayFollow_iff hb hc] at hbc
  rw [mayFollow_iff ha hc]
  omega

/-! ### The sorted list -/

theorem rankInsert_perm (x : Ranked) (l : List Ranked) : (rankInsert x l).Perm (x :: l) := by
  induction l with
  | nil => exact List.Perm.refl _
  | cons y ys ih =>
    rw [rankInsert]
    split
    · exact List.Perm.refl _
    · exact (ih.cons y).trans (List.Perm.swap x y ys)

theorem rankSort_perm (l : List Ranked) : (rankSort l).Perm l := by
  induction l with
  | nil => exact List.Perm.nil
  | cons x xs ih => exact (rankInsert_perm x _).trans (ih.cons x)

/-- Insertion keeps a list in order: a token goes before the first that it ranks above. -/
theorem rankInsert_pairwise (x : Ranked) {l : List Ranked} (h : l.Pairwise MayFollow) : (rankInsert x l).Pairwise MayFollow := by
  induction l with
  | nil => exact List.pairwise_singleton ..
  | cons y ys ih =>
    obtain ⟨first, rest⟩ := List.pairwise_cons.1 h
    rw [rankInsert]
    split
    next above =>
      have follows : MayFollow x y := mayFollow_of_ranksAbove above
      exact List.pairwise_cons.2 ⟨List.forall_mem_cons.2 ⟨follows, fun z hz => mayFollow_trans follows (first z hz)⟩, h⟩
    next below =>
      have follows : MayFollow y x := Bool.eq_false_iff.2 below
      refine List.pairwise_cons.2 ⟨fun z hz => ?_, ih rest⟩
      rcases List.mem_cons.1 ((rankInsert_perm x ys).mem_iff.1 hz) with rfl | hz
      · exact follows
      · exact first z hz

theorem rankSort_pairwise (l : List Ranked) : (rankSort l).Pairwise MayFollow := by
  induction l with
  | nil => exact List.Pairwise.nil
  | cons x xs ih => exact rankInsert_pairwise x ih

/-- Settles O19: `rankSort` is an insertion sort, so its list is a permutation, and in it no element ranks above one that stands before it. -/
theorem candidatesAreRanked : Obligations.CandidatesAreRanked := by
  unfold Obligations.CandidatesAreRanked
  refine fun l => ⟨(rankSort_perm l).count_eq, fun pre a b post hl => ?_⟩
  have sorted := rankSort_pairwise l
  rw [hl] at sorted
  have from_a := List.pairwise_cons.1 (List.pairwise_append.1 sorted).2.1
  exact from_a.1 b (List.mem_cons_self ..)

/-- Settles O17: class G takes the head of the list, and the head of a list in rank order is its best element. -/
theorem greedyTakesTheBestCandidate : Obligations.GreedyTakesTheBestCandidate := by
  unfold Obligations.GreedyTakesTheBestCandidate
  refine ⟨fun sel seed pos c cs => rfl, fun l c cs hl => ?_, fun a b => ?_⟩
  · have same : ∀ x, x ∈ c :: cs ↔ x ∈ l := fun x => hl ▸ (rankSort_perm l).mem_iff
    have sorted := rankSort_pairwise l
    rw [hl] at sorted
    refine ⟨(same c).1 (List.mem_cons_self ..), fun x hx => ?_⟩
    rcases List.mem_cons.1 ((same x).2 hx) with rfl | hx
    · exact mayFollow_refl x
    · exact (List.pairwise_cons.1 sorted).1 x hx
  · cases hb : ltX b.2 a.2 <;>
      simp only [ranksAbove, hb, Bool.true_or, Bool.false_or, Bool.and_eq_true, Bool.not_eq_true', decide_eq_true_eq, true_or, false_or,
        Bool.false_eq_true, true_and]

end Sys2Proof.Machine
end

section
/-!
PROOFS. The gather stage and the select stage (O18): the list that AWL_GATHER makes of a cluster's logits, and what AWL_SELECT does with the lists
of a slot.
-/

namespace Sys2Proof.Machine

open Sys2Proof

/-! ### Events -/

/-- What the event log becomes is a matter of the log and the tick alone. -/
theorem State.raise_ev_congr {s u : State} (he : u.ev = s.ev) (ht : u.tick = s.tick) (code sev : Nat) (part : Option Nat)
    (lkind loc detail handle : Nat) :
    (u.raise code sev part lkind loc detail handle).ev = (s.raise code sev part lkind loc detail handle).ev := by
  have due (v : State) : (if v.ev.log.isEmpty then v.dueVector 1 else v).ev = v.ev := by
    split
    · exact State.dueVector_ev ..
    · rfl
  unfold State.raise
  rw [he, ht]
  dsimp only
  split
  · rw [← he, due u, he, due s]
  · rw [← he, due u, he, due s]

/-! ### Banks of logits -/

/-- The headers that came with these banks (R203). -/
def bankHdrs (bs : List (LogitEnt × Nat × EngResv)) : List VecHdr := bs.flatMap (fun y => y.2.2.hdrs)

theorem not_any_disagree {l : List VecHdr} {h : VecHdr} (hl : l.all (fun k => hdrAgree k h) = true) : ¬ l.any (fun k => !hdrAgree k h) = true := by
  simpa using hl

/-- The cluster with these banks of its logit reservations empty (R203). -/
def Cluster.emptied (x : Cluster) (bs : List (LogitEnt × Nat × EngResv)) : Cluster := bs.foldl (fun cl y => cl.setEng 66 y.1.rbuf y.2.1 {}) x

/-- Emptying one bank leaves an empty bank empty, the same or another. -/
theorem Cluster.eng_setEng_empty (x : Cluster) (r b r' b' : Nat) (h : x.eng 66 r b = {} ∨ r * 2 + b = r' * 2 + b') :
    (x.setEng 66 r' b' {}).eng 66 r b = {} := by
  show getD {} (r * 2 + b) (put (r' * 2 + b') {} x.logit) = {}
  by_cases hk : r * 2 + b = r' * 2 + b'
  · rw [hk, getD_put_same]
  · rw [getD_put_other _ _ _ _ _ hk]
    exact h.resolve_right hk

theorem Cluster.emptied_eng (x : Cluster) {bs : List (LogitEnt × Nat × EngResv)} {y : LogitEnt × Nat × EngResv}
    (h : x.eng 66 y.1.rbuf y.2.1 = {} ∨ y ∈ bs) : (x.emptied bs).eng 66 y.1.rbuf y.2.1 = {} := by
  induction bs generalizing x with
  | nil => exact h.resolve_right (List.not_mem_nil)
  | cons z bs ih =>
    refine ih _ ?_
    rcases h with h | h
    · exact .inl (x.eng_setEng_empty _ _ _ _ (.inl h))
    · rcases List.mem_cons.1 h with rfl | h
      · exact .inl (x.eng_setEng_empty _ _ _ _ (.inr rfl))
      · exact .inr h

/-! ### AWL_GATHER -/

/-- The gather list of cluster `c`'s full banks (R203–R206). -/
def State.gatherOf (s : State) (c p : Nat) (ts : TableSet) (bs : List (LogitEnt × Nat × EngResv)) : Gather :=
  let h := (bankHdrs bs).headD default
  let raw := bs.flatMap (fun y => entryLogits ts.vocab y.1 y.2.2)
  let bias := s.biasOf p (s.extn (handleIdx h.handle)).sel
  let all := rankSort (raw.map (fun y => (y.1, y.2.getD (0, 0))))
  let g := 768 + nlow bias
  ⟨c, h, raw.any (fun y => y.2.isNone), (all.take g ++ (all.drop g).filter (fun y => bias.any (fun b => b.1 = y.1))).map (fun y => (y.1, toBits y.2))⟩

/-- The state after that list has gone to the select stage. -/
def State.gatherTaken (s : State) (c p : Nat) (bs : List (LogitEnt × Nat × EngResv)) (g : Gather) : State :=
  (s.setCluster c ((s.cluster c).emptied bs)).setPart p { s.part p with gathered := (s.part p).gathered ++ [g] }

/-- What AWL_GATHER leaves once its list has gone to the select stage. -/
theorem State.gatherTaken_keeps (s : State) (c p : Nat) (bs : List (LogitEnt × Nat × EngResv)) (g : Gather) :
    ((s.gatherTaken c p bs g).part p).gathered = (s.part p).gathered ++ [g] ∧
    (∀ y ∈ bs, ((s.gatherTaken c p bs g).cluster c).eng 66 y.1.rbuf y.2.1 = {}) ∧
    (s.gatherTaken c p bs g).ledger = s.ledger ∧ (s.gatherTaken c p bs g).kv = s.kv ∧ (s.gatherTaken c p bs g).ev = s.ev ∧
    (s.gatherTaken c p bs g).tick = s.tick := by
  refine ⟨by simp [State.gatherTaken], fun y hy => ?_, rfl, rfl, rfl, rfl⟩
  simpa [State.gatherTaken] using (s.cluster c).emptied_eng (.inr hy)

/-- AWL_GATHER of full banks that agree, for a request that is no EMBED request. -/
theorem execAwlGather_gathers {s : State} {c p : Nat} {ts : TableSet} {bs : List (LogitEnt × Nat × EngResv)} (hc : c < 16) (hp : p < 16)
    (ht : (s.part p).table = some ts) (hr : s.runs p = true) (hk : s.isCantle p = true) (ho : bit (s.part p).clusters c = true)
    (hm : ts.logit.any (fun e => e.cluster = c) = true) (hb : s.logitBanks ts c = some bs)
    (ha : (bankHdrs bs).all (fun k => hdrAgree k (s.gatherOf c p ts bs).hdr) = true)
    (he : ((s.extn (handleIdx (s.gatherOf c p ts bs).hdr.handle)).carried.map (·.embed)).getD false = false) :
    exec (.awlGather c p) s = .next (
      if (s.gatherOf c p ts bs).bad then
        (s.gatherTaken c p bs (s.gatherOf c p ts bs)).raise 0x0002 2 (some p) 0 0 0 (s.gatherOf c p ts bs).hdr.handle
      else s.gatherTaken c p bs (s.gatherOf c p ts bs)) := by
  show guardUnit _ _ = _
  simp only [hc, hp, ht, hr, hk, ho, hm, hb, decide_true, Bool.and_self, guardUnit_true, not_true, or_self, if_false]
  rw [if_neg (by exact not_any_disagree ha), if_neg (by exact Bool.eq_false_iff.1 he), ← ht]
  rfl

/-! ### AWL_SELECT -/

theorem State.entry_of_entryOf {s : State} {h : Nat} {e : Entry} (he : s.entryOf h = some e) : s.entry (handleIdx h) = e :=
  (Option.ite_none_left_eq_some.1 he).2 |> Option.some.inj

/-- A slot of a DECODE step that no fault has marked is decided by its draft and its candidates (R206, R215, R217, R224). -/
theorem State.selectSlot_decides {s : State} {p : Nat} {m : ClaimMsg} {h : VecHdr} {ls : List Gather} {e : Entry} {x : Ext} (ts : TableSet)
    (hm : m.handle = h.handle) (he : s.entry (handleIdx h.handle) = e) (hx : s.extn (handleIdx h.handle) = x) (plain : m.embed = false)
    (undecided : x.selDone = false) (good : ls.any (·.bad) = false) (unmarked : m.handle ∉ (s.part p).abort) (decode : e.st = .decode) :
    s.selectSlot p ts m h ls = s.takeDecision p m (e.l + 1) (h.pos + 1) (decideSlot m.classS m.sel m.seed (h.pos + 1)
      (if h.pos + 1 < e.l + x.stepPos then x.drafts[h.pos - e.l]? else none)
      (candidates m.sel (!m.classS || bit (nthW m.sel 3) 10) (s.biasOf p m.sel) (s.workingWear (handleIdx h.handle)) (ls.flatMap (·.pairs)))) := by
  rw [hm] at unmarked
  simp only [State.selectSlot, hm, he, hx, plain, undecided, good, unmarked, decode, Bool.false_eq_true, if_false, or_self, ne_eq, not_true,
    false_and]

/-- AWL_SELECT with every list of the front slot there takes them away and looks at the slot. -/
theorem execAwlSelect_selects {s : State} {p : Nat} {ts : TableSet} {g0 : Gather} {gs ls : List Gather} {m : ClaimMsg} {e : Entry} (hp : p < 16)
    (ht : (s.part p).table = some ts) (hg : (s.part p).gathered = g0 :: gs)
    (hl : slotLists ((ts.logit.map (·.cluster)).eraseDups) g0 (g0 :: gs) = some ls)
    (hm : (s.extn (handleIdx g0.hdr.handle)).carried = some m) (he : s.entryOf g0.hdr.handle = some e) (hr : s.runs p = true)
    (hk : s.isCantle p = true) (hf : (s.extn (handleIdx g0.hdr.handle)).inFlight = true)
    (hn : (s.extn (handleIdx g0.hdr.handle)).seen < (s.extn (handleIdx g0.hdr.handle)).stepPos) :
    exec (.awlSelect p) s = .next (State.selectSlot
      ((s.setExt (handleIdx g0.hdr.handle) { s.extn (handleIdx g0.hdr.handle) with seen := (s.extn (handleIdx g0.hdr.handle)).seen + 1 }).setPart p
        { s.part p with gathered := dropSlot g0 ((ts.logit.map (·.cluster)).eraseDups) (g0 :: gs) }) p ts m g0.hdr ls) := by
  show execAwlSelect p s = _
  simp only [execAwlSelect, onPart_in hp, ht, hg, hl, hm, he, hr, hk, hf, not_true, false_or, if_neg (Nat.not_le.2 hn), State.setExt_part_at]

end Sys2Proof.Machine
end

section
/-!
PROOFS. Drafting (O18): what the issue of a draft run leaves, the round of DRAFT_ROUND from one position to the next, and DRAFT_RECORD.
-/

namespace Sys2Proof.Machine

open Sys2Proof

/-! ### The issue of a draft run (R220, R222) -/

section
variable {β : Type} {g : State → β} (h : SettleBlind g) (tile : ∀ s t x, g (s.setTile t x) = g s)
include h tile

theorem SettleBlind.draftTurn (s : State) (t : Nat) : g (s.draftTurn t) = g s := by
  have starts (u : State) : g (u.nextRun t) = g u := by
    unfold State.nextRun
    dsimp only
    split
    · exact tile ..
    · exact tile ..
  unfold State.draftTurn
  split
  · exact (h.settle _ _).trans ((starts _).trans (tile ..))
  · rfl

/-- Of what such a function reads, the issue of a draft run moves only what waits in the partition. -/
theorem SettleBlind.issueDraft (s : State) (p : Nat) (hdr : VecHdr) (vec : List Block) :
    g (s.issueDraft p hdr vec) =
      g (s.setPart p { s.part p with draftQ := (s.part p).draftQ ++ [(hdr, vec)], draftRuns := (s.part p).draftRuns + 1 }) :=
  (h.feed _ _ _).trans (State.foldl_keeps g _ (fun s t => h.draftTurn tile s t) _ _)

end

section
variable (s : State) (p : Nat) (hdr : VecHdr) (vec : List Block)

@[simp] theorem State.issueDraft_ledger : (s.issueDraft p hdr vec).ledger = s.ledger :=
  SettleBlind.issueDraft (g := State.ledger)
    ⟨fun _ _ _ _ => rfl, fun _ _ _ _ => rfl, fun _ _ _ => rfl, State.rein_ledger, fun _ _ => rfl, fun _ _ => rfl⟩ (fun _ _ _ => rfl) ..

@[simp] theorem State.issueDraft_kv : (s.issueDraft p hdr vec).kv = s.kv :=
  SettleBlind.issueDraft (g := State.kv)
    ⟨fun _ _ _ _ => rfl, fun _ _ _ _ => rfl, fun _ _ _ => rfl, State.rein_kv, fun _ _ => rfl, fun _ _ => rfl⟩ (fun _ _ _ => rfl) ..

@[simp] theorem State.issueDraft_ext : (s.issueDraft p hdr vec).ext = s.ext :=
  SettleBlind.issueDraft (g := State.ext)
    ⟨fun _ _ _ _ => rfl, fun _ _ _ _ => rfl, fun _ _ _ => rfl, State.rein_ext, fun _ _ => rfl, fun _ _ => rfl⟩ (fun _ _ _ => rfl) ..

@[simp] theorem State.issueDraft_extn_at (i : Nat) : (s.issueDraft p hdr vec).extn i = s.extn i := by
  simp only [State.extn, State.issueDraft_ext]

theorem State.issueDraft_draftRuns : ((s.issueDraft p hdr vec).part p).draftRuns = (s.part p).draftRuns + 1 :=
  (SettleBlind.issueDraft (g := fun s => (s.part p).draftRuns)
    ⟨fun _ _ _ _ => rfl, fun _ _ x hx => State.setPart_part_keeps (x := x) Part.draftRuns (congrArg Part.draftRuns hx :) p, fun _ _ _ => rfl,
      fun _ _ _ => by simp, fun _ _ => rfl, fun _ _ => rfl⟩ (fun _ _ _ => rfl) ..).trans (by rw [State.setPart_same])

end

section
variable (s : State) (p h pos : Nat) (vec : List Block)

@[simp] theorem State.draftAtPos_ledger : (s.draftAtPos p h pos vec).ledger = s.ledger := State.issueDraft_ledger ..
@[simp] theorem State.draftAtPos_kv : (s.draftAtPos p h pos vec).kv = s.kv := State.issueDraft_kv ..

@[simp] theorem State.draftAtPos_extn : (s.draftAtPos p h pos vec).extn (handleIdx h) = { s.extn (handleIdx h) with draftAt := some pos } := by
  simp [State.draftAtPos]

theorem State.draftAtPos_draftRuns : ((s.draftAtPos p h pos vec).part p).draftRuns = (s.part p).draftRuns + 1 :=
  State.issueDraft_draftRuns ..

end

/-! ### The logits of a draft run (R203, R221) -/

/-- Reading the banks of the draft logit map moves nothing but clusters. -/
theorem State.draftUsed_keeps {β : Type} (g : State → β) (hg : ∀ s c x, g (s.setCluster c x) = g s) (s : State)
    (bs : List (LogitEnt × Nat × EngResv)) : g (s.draftUsed bs) = g s :=
  State.foldl_keeps g _ (fun s _ => hg s _ _) bs s

section
variable (s : State) (bs : List (LogitEnt × Nat × EngResv))

@[simp] theorem State.draftUsed_ledger : (s.draftUsed bs).ledger = s.ledger := State.draftUsed_keeps _ (fun _ _ _ => rfl) s bs
@[simp] theorem State.draftUsed_kv : (s.draftUsed bs).kv = s.kv := State.draftUsed_keeps _ (fun _ _ _ => rfl) s bs
@[simp] theorem State.draftUsed_extn (i : Nat) : (s.draftUsed bs).extn i = s.extn i := State.draftUsed_keeps (·.extn i) (fun _ _ _ => rfl) s bs
@[simp] theorem State.draftUsed_entry (i : Nat) : (s.draftUsed bs).entry i = s.entry i := State.draftUsed_keeps (·.entry i) (fun _ _ _ => rfl) s bs
@[simp] theorem State.draftUsed_drafting (p h : Nat) : (s.draftUsed bs).drafting p h = s.drafting p h :=
  State.draftUsed_keeps (·.drafting p h) (fun _ _ _ => rfl) s bs

end

/-- The token of the next position that the logits of position `q` draft (R204, R221). -/
def draftedTok (e : Entry) (x : Ext) (q : Nat) (logits : List (Nat × Option F32)) : Nat × List TokVal :=
  draftTok e.classS x.sel e.seed (q + 1) (rankSort (logits.map (fun y => (y.1, y.2.getD (0, 0)))))

/-- A round's drafts with a drafted token: at most d_eff of them (R220). -/
def draftsWith (e : Entry) (x : Ext) (y : Nat × List TokVal) : List (Nat × List TokVal) :=
  if x.drafts.length < min e.draft (e.maxlen - e.l - 2) then x.drafts ++ [y] else x.drafts

/-- The round is over with a drafted token: d_eff tokens are there, or it is an end token (R220, R221). -/
abbrev RoundOver (e : Entry) (x : Ext) (y : Nat × List TokVal) : Prop :=
  min e.draft (e.maxlen - e.l - 2) ≤ (draftsWith e x y).length ∨ isEnd x.sel y.1 = true

section
variable {s : State} {p h q : Nat} {logits : List (Nat × Option F32)} {e : Entry} {x : Ext} (vec : List Block)
  (he : s.entry (handleIdx h) = e) (hx : s.extn (handleIdx h) = x) (hp : e.pend ≠ .cancel) (hl : logits.any (fun y => y.2.isNone) = false)
include he hx hp hl

omit hx in
/-- Below L the round only goes on (R220). -/
theorem State.draftGot_below (hq : q < e.l) : s.draftGot p h q logits vec = s.draftAtPos p h (q + 1) vec := by
  simp only [State.draftGot, he, hl, Bool.false_eq_true, if_false, if_neg hp, if_pos hq]

/-- From L on the logits give the token of the next position, with which the round ends or goes on (R221). -/
theorem State.draftGot_drafts (hq : e.l ≤ q) : s.draftGot p h q logits vec =
    let y := draftedTok e x q logits
    let u := s.setExt (handleIdx h) { x with drafts := draftsWith e x y }
    if RoundOver e x y then (u.setExt (handleIdx h) { x with drafts := draftsWith e x y, drafted1 := true, draftAt := none }).busyMark
    else u.draftAtPos p h (q + 1) vec := by
  simp only [State.draftGot, he, hx, hl, Bool.false_eq_true, if_false, if_neg hp, if_neg (Nat.not_lt.2 hq), State.setExt_same]
  rfl

/-- What a round keeps and what it makes of the request's drafts, at either kind of position. -/
theorem State.draftGot_outcome : (s.draftGot p h q logits vec).ledger = s.ledger ∧ (s.draftGot p h q logits vec).kv = s.kv ∧
    let t := (s.draftGot p h q logits vec).extn (handleIdx h)
    let y := draftedTok e x q logits
    (q < e.l → t.draftAt = some (q + 1) ∧ t.drafts = x.drafts) ∧
    (e.l ≤ q → t.drafts = draftsWith e x y ∧ t.draftAt = (if RoundOver e x y then none else some (q + 1)) ∧
      (RoundOver e x y → t.drafted1 = true)) := by
  rcases Nat.lt_or_ge q e.l with hq | hq
  · rw [State.draftGot_below vec he hp hl hq]
    simp [hx, hq, Nat.not_le.2 hq]
  · rw [State.draftGot_drafts vec he hx hp hl hq]
    dsimp only
    split
    next isOver => simp [Nat.not_lt.2 hq]
    next goesOn => simp [Nat.not_lt.2 hq, goesOn]

end

/-! ### DRAFT_ROUND -/

section
variable {s : State} {p h : Nat} (vec : List Block) {ts : TableSet} (hp : p < 16) (ht : (s.part p).table = some ts) (hk : s.isPommel p = true)
  (hr : s.runs p = true) (hd : s.drafting p h = true)
include hp ht hk hr hd

theorem execDraftRound_begins (hb : s.draftBanks ts = none) (ha : (s.extn (handleIdx h)).draftAt = none) :
    exec (.draftRound p h vec) s = .next (s.draftAtPos p h (s.extn (handleIdx h)).ld vec) := by
  show execDraftRound p h vec s = _
  simp only [execDraftRound, onPart_in hp, ht, hk, hr, hb, hd, ha, not_true, or_self, if_false, Option.isNone_none, and_self, if_true]

/-- Full banks with the logits that the round awaits take it on. -/
theorem execDraftRound_goesOn {bs : List (LogitEnt × Nat × EngResv)} (hb : s.draftBanks ts = some bs)
    (hh : (bankHdrs bs).all (fun k => hdrAgree k ((bankHdrs bs).headD default)) = true) (hw : ((bankHdrs bs).headD default).handle = h)
    (ha : (s.extn (handleIdx h)).draftAt = some ((bankHdrs bs).headD default).pos) :
    exec (.draftRound p h vec) s = .next ((s.draftUsed bs).draftGot p h ((bankHdrs bs).headD default).pos
      (bs.flatMap (fun y => entryLogits ts.vocab y.1 y.2.2)) vec) := by
  show execDraftRound p h vec s = _
  simp only [execDraftRound, onPart_in hp, ht, hk, hr, hb, not_true, or_self, if_false]
  rw [if_neg (by exact not_any_disagree hh), if_pos ⟨(s.draftUsed_drafting bs p h).trans hd, by exact hw, by exact ha⟩]
  rfl

end

/-! ### DRAFT_RECORD -/

@[simp] theorem State.sendDraft_said (s : State) (p : Nat) (dr : DraftRec) : (s.sendDraft p dr).said = s.said ++ [.draft p dr] := by
  have emitted : (s.emit (.draft p dr)).said = s.said ++ [.draft p dr] := by simp [State.said, State.emit, Out.isFlit]
  unfold State.sendDraft
  dsimp only
  split
  · rw [State.girthMsg_said, emitted]
  · exact emitted

section
variable {s : State} {port g epoch : Nat} (dr : DraftRec) (hq : port < 8) (hl : s.partOfLedger g < 16) (hg : bit (s.port port).girths g = true)
include hl hg

/-- A port that carries the girth takes its records. -/
theorem not_draftRecord_ignored : ¬ (s.partOfLedger g ≥ 16 ∨ ¬ bit (s.port port).girths g = true) := by
  rintro (h | h)
  · omega
  · exact h hg

include hq

theorem execDraftRecord_stale (he : epoch ≠ (s.girth (s.partOfLedger g)).epoch) :
    exec (.draftRecord port g epoch dr) s = .next (s.staleOn port) := by
  show execDraftRecord port g epoch dr s = _
  simp only [execDraftRecord, onPort_in hq]
  rw [if_neg (not_draftRecord_ignored hl hg), if_pos he]

/-- A record of the girth's epoch at a member: the cantle holds it, another member relays it (R255). -/
theorem execDraftRecord_taken (he : epoch = (s.girth (s.partOfLedger g)).epoch) (hr : (s.girth (s.partOfLedger g)).st = .running)
    (hm : s.isPommel (s.partOfLedger g) = false) :
    (∀ e, s.isCantle (s.partOfLedger g) = true → s.entryOf dr.handle = some e → exec (.draftRecord port g epoch dr) s =
      .next (s.setExt (handleIdx dr.handle) { s.extn (handleIdx dr.handle) with drafts := dr.toks })) ∧
    (s.isCantle (s.partOfLedger g) = false → exec (.draftRecord port g epoch dr) s = .next (s.sendDraft (s.partOfLedger g) dr)) := by
  have takes : ¬ ((s.girth (s.partOfLedger g)).st ≠ .running ∨ s.isPommel (s.partOfLedger g) = true) := by
    rintro (h | h)
    · exact h hr
    · exact Bool.false_ne_true (hm.symm.trans h)
  have decided : exec (.draftRecord port g epoch dr) s = onPort port _ :=
    congrArg (onPort port) ((if_neg (not_draftRecord_ignored hl hg)).trans ((if_neg (not_not_intro he)).trans (if_neg takes)))
  rw [decided, onPort_in hq]
  refine ⟨fun e hc hx => ?_, fun hc => ?_⟩
  · rw [if_pos hc, hx]
  · rw [if_neg (Bool.eq_false_iff.1 hc)]

end

end Sys2Proof.Machine
end

section
/-!
PROOFS. The awl's lists and drafts (O18): each of its four commands by its outcomes.
-/

namespace Sys2Proof.Machine

open Sys2Proof

/-- Settles O18: AWL_GATHER by the list it makes, AWL_SELECT by the slot it takes and how that is decided, DRAFT_ROUND by its beginning and by what
the awaited logits make of the round, DRAFT_RECORD by the roles of the device. -/
theorem selectionTakesItsLists : Obligations.SelectionTakesItsLists := by
  unfold Obligations.SelectionTakesItsLists
  refine ⟨?gather, ?select, ?round, ?record⟩
  case gather =>
    intro s c p ts bs hc hp ht hr hk ho hm hb hdrs h x raw bad all n list agree plain
    obtain ⟨gathered, empty, ledger, kv, ev, tick⟩ := s.gatherTaken_keeps c p bs (s.gatherOf c p ts bs)
    refine ⟨_, execAwlGather_gathers hc hp ht hr hk ho hm hb agree plain, ?_⟩
    cases overflow : (s.gatherOf c p ts bs).bad with
    | true =>
      rw [if_pos rfl]
      simp only [State.raise_part_at, State.cluster, State.raise_clusters, State.raise_ledger, State.raise_kv]
      exact ⟨gathered, empty, ledger, kv, fun _ => State.raise_ev_congr ev tick .., fun hn => absurd (overflow.symm.trans hn) (by decide)⟩
    | false =>
      rw [if_neg (by decide)]
      exact ⟨gathered, empty, ledger, kv, fun hy => absurd (overflow.symm.trans hy) (by decide), fun _ => ev⟩
  case select =>
    intro s p ts g0 gs ls m e hp i x cs ht hg hl hm he hr hk hf hn u
    refine ⟨execAwlSelect_selects hp ht hg hl hm he hr hk hf hn, fun plain undecided good same unmarked decode => ?_⟩
    have entry : u.entry i = e := State.entry_of_entryOf he
    have extn : u.extn i = { x with seen := x.seen + 1 } := State.setExt_same ..
    have stands : (u.part p).abort = (s.part p).abort := (congrArg Part.abort (State.setPart_same ..) :)
    exact (State.selectSlot_decides ts same entry extn plain undecided good (stands.symm ▸ unmarked) decode :)
  case round =>
    intro s p h vec ts e hp ht hk hr hd he i x
    refine ⟨fun hb ha => ⟨_, execDraftRound_begins vec hp ht hk hr hd hb ha, ?_⟩, ?_⟩
    · exact ⟨congrArg Ext.draftAt (s.draftAtPos_extn ..), s.draftAtPos_draftRuns .., s.draftAtPos_ledger .., s.draftAtPos_kv ..⟩
    · intro bs q hb hdrs logits agree same pos ha hc good
      refine ⟨_, execDraftRound_goesOn vec hp ht hk hr hd hb agree same (pos ▸ ha), ?_⟩
      subst pos
      have entry := (s.draftUsed_entry bs i).trans (State.entry_of_entryOf he)
      obtain ⟨ledger, kv, token⟩ := State.draftGot_outcome vec entry (s.draftUsed_extn bs i) hc good
      exact ⟨ledger.trans (s.draftUsed_ledger bs), kv.trans (s.draftUsed_kv bs), token⟩
  case record =>
    intro s port g epoch dr hq hl hg p
    refine ⟨execDraftRecord_stale dr hq hl hg, fun he hr hm => ?_⟩
    obtain ⟨held, relayed⟩ := execDraftRecord_taken dr hq hl hg he hr hm
    exact ⟨held, fun hc => ⟨relayed hc, s.sendDraft_said p dr⟩⟩

end Sys2Proof.Machine
end

section
/-!
PROOFS. What firmware answers (O53): the SPDM requests in their order, FIRMWARE_UPDATE, the commands of the management port, and the tests of
the random generator.
-/

namespace Sys2Proof.Machine

open Sys2Proof

/-! ### SPDM (R413, R414) -/

/-- Firmware that runs answers a request that comes in its order. -/
theorem State.spdmAnswer_inOrder {s : State} {ok : Bool} (hb : s.sec.bootOk = true) (h : ok = true) (f : State → State) :
    s.spdmAnswer ok f = .next (f s) := by
  rw [State.spdmAnswer, if_neg (not_not_intro hb), if_pos h]

/-- Who offers each of the five algorithms by its number offers all that the device supports. -/
theorem spdmAlgs_offered {algs : List Nat} (h : ∀ n, n < 5 → n ∈ algs) : spdmAlgs.all algs.contains = true := by
  have numbered : ∀ n ∈ spdmAlgs, n < 5 := by decide
  exact List.all_eq_true.2 fun n hn => List.contains_iff_mem.2 (h n (numbered n hn))

section
variable {s : State} (hb : s.sec.bootOk = true)
include hb

theorem execGetVersion_answers :
    exec .getVersion s = .next ({ s with sec := { s.sec with spdm := { version := true } } }.doe 0x04 [0x13]) := by
  show execGetVersion s = _
  exact State.spdmAnswer_inOrder hb rfl _

theorem execGetCapabilities_answers (hv : s.sec.spdm.version = true) :
    exec .getCapabilities s = .next ({ s with sec := { s.sec with spdm := { s.sec.spdm with caps := true } } }.doe 0x61 []) := by
  show execGetCapabilities s = _
  exact State.spdmAnswer_inOrder hb hv _

theorem execNegotiateAlgorithms_answers {algs : List Nat} (hc : s.sec.spdm.caps = true) (offered : ∀ n, n < 5 → n ∈ algs) :
    exec (.negotiateAlgorithms algs) s = .next ({ s with sec := { s.sec with spdm := { s.sec.spdm with algs := true } } }.doe 0x63 []) := by
  show execNegotiateAlgorithms algs s = _
  exact State.spdmAnswer_inOrder hb (by rw [hc, spdmAlgs_offered offered, Bool.and_self]) _

/-- FINISH ends an open handshake, with a session where the MAC verifies (R413). -/
theorem execFinish_answers (ok : Bool) (he : s.sec.spdm.exchanged = true) :
    exec (.finish ok) s =
      .next ({ s with sec := { s.sec with spdm := { s.sec.spdm with exchanged := false, session := ok, keyGen := 0 } } }.doe
        (if ok then 0x65 else spdmError) []) := by
  show execFinish ok s = _
  simp only [execFinish, he, hb, not_true_eq_false, if_false]

/-! #### With the algorithms agreed -/

section
variable (ha : s.sec.spdm.algs = true)
include ha

/-- One measurement block, unsigned (R414). -/
theorem execGetMeasurements_block {i : Nat} {v : List Byte} (h1 : 1 ≤ i) (h8 : i ≤ 8) (hv : s.measurement i = some v) :
    exec (.getMeasurements i false) s = .next (s.doe 0x60 (measureBlock i v)) := by
  have inOrder : (s.sec.spdm.algs && (decide (i ≤ 8) || decide (i = 0xFF))) = true := by simp [ha, h8]
  have notCount : i ≠ 0 := by omega
  have notAll : i ≠ 0xFF := by omega
  show execGetMeasurements i false s = _
  simp only [execGetMeasurements, State.spdmAnswer_inOrder hb inOrder, if_neg notCount, if_neg notAll, List.flatMap_singleton, hv,
    Option.getD_some, Bool.false_eq_true, if_false]

variable (hc : s.sec.certOk = true)
include hc

theorem execGetDigests_answers : exec (.getDigests 0) s = .next (s.doe 0x01 (sha512 Config.certChain)) := by
  show execGetDigests 0 s = _
  exact State.spdmAnswer_inOrder hb (by simp [ha, hc]) _

theorem execGetCertificate_answers (offset length : Nat) :
    exec (.getCertificate 0 offset length) s = .next (s.doe 0x02 ((Config.certChain.drop offset).take length)) := by
  show execGetCertificate 0 offset length s = _
  exact State.spdmAnswer_inOrder hb (by simp [ha, hc]) _

theorem execChallenge_answers (nonce : Nat) :
    exec (.challenge nonce) s = .next (s.doe 0x03 (sha512 Config.certChain ++ leBytes 32 nonce ++
      Config.signature (sha512 Config.certChain ++ leBytes 32 nonce))) := by
  show execChallenge nonce s = _
  exact State.spdmAnswer_inOrder hb (by rw [ha, hc, Bool.and_self]) _

/-- KEY_EXCHANGE opens a handshake while no session stands and the generator passes its tests (R413, R420). -/
theorem execKeyExchange_answers (exchange : Nat) (hs : s.sec.spdm.session = false) (ht : s.sec.trngOk = true) :
    exec (.keyExchange exchange) s = .next ({ s with sec := { s.sec with spdm := { s.sec.spdm with exchanged := true } } }.doe 0x64
      (leBytes 132 exchange ++ Config.signature (leBytes 132 exchange))) := by
  show execKeyExchange exchange s = _
  exact State.spdmAnswer_inOrder hb (by simp [ha, hc, hs, ht]) _

end

/-! #### Inside a session -/

section
variable (hs : s.sec.spdm.session = true)
include hs

theorem execKeyUpdate_answers (both : Bool) :
    exec (.keyUpdate both) s = .next
      ({ s with sec := { s.sec with spdm := { s.sec.spdm with keyGen := s.sec.spdm.keyGen + (if both then 2 else 1) } } }.doe 0x69 []) := by
  show execKeyUpdate both s = _
  exact State.spdmAnswer_inOrder hb hs _

theorem execHeartbeat_answers : exec .heartbeat s = .next (s.doe 0x68 []) := by
  show execHeartbeat s = _
  exact State.spdmAnswer_inOrder hb hs _

theorem execEndSession_answers :
    exec .endSession s = .next ({ s with sec := { s.sec with spdm := { s.sec.spdm with session := false, keyGen := 0 } } }.doe 0x6C []) := by
  show execEndSession s = _
  exact State.spdmAnswer_inOrder hb hs _

end

/-! ### FIRMWARE_UPDATE (R408, R412) -/

/-- The image goes into the slot that does not run, and only a valid one moves the preference. -/
theorem execFirmwareUpdate_writes (img : FwImage) (hoff : s.pwr.st ≠ .off) (hdorm : s.pwr.st ≠ .dormant) :
    CompletesWith (exec (.firmwareUpdate img) s) (fun t =>
      (if s.sec.runB then t.store.slotA else t.store.slotB) = { version := img.version, svn := img.svn, digest := img.digest } ∧
      (if s.sec.runB then t.store.slotB else t.store.slotA) = (if s.sec.runB then s.store.slotB else s.store.slotA) ∧
      t.store.prefB = (if img.sigOk ∧ img.fmtOk ∧ s.store.svnMin ≤ img.svn then !s.sec.runB else s.store.prefB) ∧ t.sec = s.sec) := by
  have runs : ¬ (¬ s.sec.bootOk = true ∨ s.pwr.st = .off ∨ s.pwr.st = .dormant) := by simp [hb, hoff, hdorm]
  refine ⟨_, congrArg Host.Outcome.next (if_neg runs), ?_⟩
  cases s.sec.runB <;> simp [apply_ite Store.slotA, apply_ite Store.slotB, apply_ite Store.prefB]

end

/-! ### The management port (R374, R403) -/

section
variable {s : State} (hm : s.mctpOn = true)
include hm

theorem execGetEventRecords_answers : exec .getEventRecords s = .next (s.emit (.mctp 1 s.ev.sigs.flatten)) := by
  show execGetEventRecords s = _
  rw [execGetEventRecords, if_pos hm]

theorem execClearEventRecords_clears : exec .clearEventRecords s = .next { s with ev := { s.ev with sigs := [], cperNext := 0 } } := by
  show execClearEventRecords s = _
  rw [execClearEventRecords, if_pos hm]

/-- CPER_READ returns up to `n` records not yet returned and moves past them (R374). -/
theorem execCperRead_answers (n : Nat) :
    exec (.cperRead n) s = .next (({ s with ev := { s.ev with
      cperNext := s.ev.cperNext + ((s.ev.sigs.drop s.ev.cperNext).take n).length } }).emit
        (.mctp 2 (((s.ev.sigs.drop s.ev.cperNext).take n).flatMap (fun g => cperGuid ++ g)))) := by
  show execCperRead n s = _
  rw [execCperRead, if_neg (not_not_intro hm)]

end

theorem execMctpStatus_reports {s : State} (hoff : s.pwr.st ≠ .off) :
    exec .mctpStatus s = .next (s.emit (.mctp 0 [if s.sec.idFail then 1 else if s.sec.bootFail then 2 else 0])) := by
  show execMctpStatus s = _
  rw [execMctpStatus, if_neg hoff]

/-! ### The random generator (R420) -/

/-- A failed test closes the generator; the event that it raises leaves the keys and the tenant alone. -/
theorem execTrngFail_closes {s : State} (hoff : s.pwr.st ≠ .off) (test : Nat) :
    CompletesWith (exec (.trngFail test) s) (fun t => t.sec = { s.sec with trngOk := false }) :=
  ⟨_, congrArg Host.Outcome.next (if_neg hoff), State.raise_sec ..⟩

/-- Settles O53: each command by what it answers where its hypotheses hold; the SPDM requests are all `State.spdmAnswer` in its order. -/
theorem firmwareAnswers : Obligations.FirmwareAnswers := by
  unfold Obligations.FirmwareAnswers
  intro s
  refine ⟨fun hb => ⟨execGetVersion_answers hb, execGetCapabilities_answers hb, fun _ => execNegotiateAlgorithms_answers hb, ?identity,
    ?measurements, ?finish, ?session⟩, fun img hb => execFirmwareUpdate_writes hb img, ?log, ?powered, rfl⟩
  case identity =>
    intro ha hc
    exact ⟨execGetDigests_answers hb ha hc, execGetCertificate_answers hb ha hc, execChallenge_answers hb ha hc,
      fun x hs ht => ⟨_, execKeyExchange_answers hb ha hc x hs ht, rfl⟩⟩
  case measurements =>
    intro i v ha
    exact execGetMeasurements_block hb ha
  case finish =>
    intro ok he
    exact ⟨_, execFinish_answers hb ok he, rfl⟩
  case session =>
    intro hs
    exact ⟨fun both => ⟨_, execKeyUpdate_answers hb hs both, rfl⟩, execHeartbeat_answers hb hs, ⟨_, execEndSession_answers hb hs, rfl⟩⟩
  case log =>
    intro hm
    exact ⟨execGetEventRecords_answers hm, execClearEventRecords_clears hm, fun n => ⟨_, execCperRead_answers hm n, rfl, rfl⟩⟩
  case powered =>
    intro hoff
    exact ⟨execMctpStatus_reports hoff, execTrngFail_closes hoff⟩

end Sys2Proof.Machine
end

section
/-!
PROOFS. What leaves the byte memories (spill regions, KV bytes, staging window) as they were: every operation and command but those that write one,
in the order of the model.
-/

namespace Sys2Proof.Machine

open Sys2Proof

/-! ### Updates, folds and outcomes -/

/-- The byte memories: the spill regions, the KV bytes and the staging window. -/
def State.bytes (s : State) : Memory × Memory × Memory := (s.spill, s.kv, s.staging)

/-- An update that writes no byte memory leaves them all. (The parentheses keep `simp` from using it by definitional unfolding, which would leave
the hypothesis of `State.foldl_bytes` unproved.) -/
@[simp] theorem State.bytes_update (s : State) (pending : List Instr) (out : List Out) (free tick : Nat) (host : HostIf) (ev : EvRegs)
    (ledger : Tbl Entry) (ext : Tbl Ext) (wear : Tbl Wear) (parts : Tbl Part) (girths : Tbl Girth) (ports : Tbl Port) (tiles : Tbl Tile)
    (arrays : Tbl Arr) (clusters : Tbl Cluster) (fabric : List Copy) (mesh : List MeshMsg) (kvWr : List KvWr)
    (stackCopy : Tbl (Tbl Nat)) (sums : Tbl (Tbl Int)) (shards : Tbl (Bool × List Byte)) (store : Store) (hk : Hk) (pwr : Pwr) (sec : Sec) :
    State.bytes { s with
      pending, out, free, tick, host, ev, ledger, ext, wear, parts, girths, ports, tiles, arrays, clusters, fabric, mesh, kvWr
      stackCopy, sums, shards, store, hk, pwr, sec } = s.bytes := (rfl)

/-- Faults move no byte memory. -/
theorem State.bytes_of_plant {s u : State} (h : u.plant = s.plant) : u.bytes = s.bytes := (congrArg State.bytes h :)

@[simp] theorem State.bytes_ite (c : Prop) [Decidable c] (s t : State) : (if c then s else t).bytes = if c then s.bytes else t.bytes :=
  apply_ite State.bytes c s t

/-- A fold of updates that leave the byte memories leaves them. -/
@[simp] theorem State.foldl_bytes {α : Type} {f : State → α → State} (h : ∀ s a, (f s a).bytes = s.bytes) (l : List α) (s : State) :
    (l.foldl f s).bytes = s.bytes := State.foldl_keeps State.bytes f h l s

/-- A command that ends in a next state leaves the byte memories as they were. -/
def LeavesBytes (s : State) (r : Result) : Prop := ∀ t, r = .next t → t.bytes = s.bytes

@[simp] theorem leavesBytes_next {s t : State} : LeavesBytes s (.next t) ↔ t.bytes = s.bytes := by simp [LeavesBytes]
@[simp] theorem leavesBytes_fault {s : State} {r : Fault} : LeavesBytes s (.fault r) := by simp [LeavesBytes]
@[simp] theorem leavesBytes_refused {s : State} {r : Refusal} : LeavesBytes s (.refused r) := by simp [LeavesBytes]
@[simp] theorem leavesBytes_ite {s : State} {c : Prop} [Decidable c] {r q : Result} :
    LeavesBytes s (if c then r else q) ↔ (c → LeavesBytes s r) ∧ (¬ c → LeavesBytes s q) := by split <;> simp [*]
@[simp] theorem leavesBytes_guardUnit {s t : State} {ok : Bool} : LeavesBytes s (guardUnit ok t) ↔ (ok = true → t.bytes = s.bytes) := by
  unfold guardUnit; split <;> simp [*]
@[simp] theorem leavesBytes_onTile {s t : State} {n : Nat} : LeavesBytes s (onTile n t) ↔ (n < 1024 → t.bytes = s.bytes) := by
  simp [onTile]
@[simp] theorem leavesBytes_onCluster {s t : State} {n : Nat} : LeavesBytes s (onCluster n t) ↔ (n < 16 → t.bytes = s.bytes) := by
  simp [onCluster]
@[simp] theorem leavesBytes_onPart {s t : State} {n : Nat} : LeavesBytes s (onPart n t) ↔ (n < 16 → t.bytes = s.bytes) := by
  simp [onPart]
@[simp] theorem leavesBytes_onPort {s t : State} {n : Nat} : LeavesBytes s (onPort n t) ↔ (n < 8 → t.bytes = s.bytes) := by
  simp [onPort]
@[simp] theorem leavesBytes_onBlock {s t : State} {n : Nat} : LeavesBytes s (onBlock n t) ↔ (n < 17 → t.bytes = s.bytes) := by
  simp [onBlock]
@[simp] theorem leavesBytes_onArray {s t : State} {n : Nat} : LeavesBytes s (onArray n t) ↔ (n < 65536 → t.bytes = s.bytes) := by
  simp [onArray]

/-! ### Messages, events, replies and the transitions of requests -/

@[simp] theorem State.setRing_bytes (s : State) (b : Nat) (r : Ring) : (s.setRing b r).bytes = s.bytes := State.bytes_update ..
@[simp] theorem State.setMbx_bytes (s : State) (m : Nat) (x : Mbx) : (s.setMbx m x).bytes = s.bytes := State.bytes_update ..
@[simp] theorem State.setPart_bytes (s : State) (p : Nat) (x : Part) : (s.setPart p x).bytes = s.bytes := State.bytes_update ..
@[simp] theorem State.setGirth_bytes (s : State) (p : Nat) (x : Girth) : (s.setGirth p x).bytes = s.bytes := State.bytes_update ..
@[simp] theorem State.setPort_bytes (s : State) (p : Nat) (x : Port) : (s.setPort p x).bytes = s.bytes := State.bytes_update ..
@[simp] theorem State.setTile_bytes (s : State) (t : Nat) (x : Tile) : (s.setTile t x).bytes = s.bytes := State.bytes_update ..
@[simp] theorem State.setArr_bytes (s : State) (a : Nat) (x : Arr) : (s.setArr a x).bytes = s.bytes := State.bytes_update ..
@[simp] theorem State.setCluster_bytes (s : State) (c : Nat) (x : Cluster) : (s.setCluster c x).bytes = s.bytes := State.bytes_update ..
@[simp] theorem State.setEntry_bytes (s : State) (i : Nat) (x : Entry) : (s.setEntry i x).bytes = s.bytes := State.bytes_update ..
@[simp] theorem State.setExt_bytes (s : State) (i : Nat) (x : Ext) : (s.setExt i x).bytes = s.bytes := State.bytes_update ..
@[simp] theorem State.setRepair_bytes (s : State) (a : Nat) (r : Repair) : (s.setRepair a r).bytes = s.bytes := by simp [State.setRepair]
@[simp] theorem State.emit_bytes (s : State) (o : Out) : (s.emit o).bytes = s.bytes := State.bytes_update ..
@[simp] theorem State.draw_bytes (s : State) : s.draw.2.bytes = s.bytes := State.bytes_update ..
@[simp] theorem State.dueVector_bytes (s : State) (v : Nat) : (s.dueVector v).bytes = s.bytes := State.bytes_of_plant (s.dueVector_plant ..)

@[simp] theorem State.raise_bytes (s : State) (code sev : Nat) (part : Option Nat) (lkind loc detail handle : Nat) :
    (s.raise code sev part lkind loc detail handle).bytes = s.bytes := State.bytes_of_plant (s.raise_plant ..)

@[simp] theorem State.noteBit_bytes (s : State) (off i : Nat) : (s.noteBit off i).bytes = s.bytes := State.bytes_of_plant (s.noteBit_plant ..)
@[simp] theorem State.errSum_bytes (s : State) (i : Nat) : (s.errSum i).bytes = s.bytes := by simp [State.errSum]
@[simp] theorem State.lwErr_bytes (s : State) (p i : Nat) : (s.lwErr p i).bytes = s.bytes := by simp [State.lwErr]
@[simp] theorem State.emitFlits_bytes (s : State) (port : Nat) (fs : List TxFlit) : (s.emitFlits port fs).bytes = s.bytes := by simp [State.emitFlits]
@[simp] theorem State.pump_bytes (s : State) (port : Nat) : (s.pump port).bytes = s.bytes := by simp [State.pump]
@[simp] theorem State.answer_bytes (s : State) (port : Nat) : (s.answer port).bytes = s.bytes := by simp [State.answer]

@[simp] theorem State.queueMsg_bytes (s : State) (port cls girth epoch kind dbuf src dst : Nat) (body : List Byte) :
    (s.queueMsg port cls girth epoch kind dbuf src dst body).bytes = s.bytes := by simp [State.queueMsg]

@[simp] theorem State.girthMsg_bytes (s : State) (p port cls kind dbuf dst : Nat) (body : List Byte) :
    (s.girthMsg p port cls kind dbuf dst body).bytes = s.bytes := by
  unfold State.girthMsg
  split <;> simp

@[simp] theorem State.sendHello_bytes (s : State) (port : Nat) (h : Hello) (src dst : Nat) : (s.sendHello port h src dst).bytes = s.bytes := by
  simp [State.sendHello]

@[simp] theorem State.sendMsg_bytes (s : State) (port girth dbuf : Nat) (hdr : VecHdr) (body : Payload) :
    (s.sendMsg port girth dbuf hdr body).bytes = s.bytes := by simp [State.sendMsg]

@[simp] theorem State.sendFree_bytes (s : State) (p : Nat) (o : Out) (cls kind : Nat) (ports : List Nat) :
    (s.sendFree p o cls kind ports).bytes = s.bytes := by simp [State.sendFree]

@[simp] theorem State.rein_bytes (s : State) (p : Nat) (m : Rein) : (s.rein p m).bytes = s.bytes := by simp [State.rein]
@[simp] theorem State.reinUp_bytes (s : State) (p : Nat) (m : Rein) : (s.reinUp p m).bytes = s.bytes := by simp [State.reinUp]
@[simp] theorem State.figures_bytes (s : State) (p : Nat) (o : Out) (to_ : ReinTo) : (s.figures p o to_).bytes = s.bytes := by simp [State.figures]

@[simp] theorem State.sendDraft_bytes (s : State) (p : Nat) (d : DraftRec) : (s.sendDraft p d).bytes = s.bytes := by
  unfold State.sendDraft
  dsimp only
  split <;> simp

@[simp] theorem State.sendVerdict_bytes (s : State) (p : Nat) (v : VerdictMsg) : (s.sendVerdict p v).bytes = s.bytes := by
  unfold State.sendVerdict
  dsimp only
  split <;> simp

@[simp] theorem State.staleOn_bytes (s : State) (port : Nat) : (s.staleOn port).bytes = s.bytes := by simp [State.staleOn]
@[simp] theorem State.pwrEv_bytes (s : State) (i : Nat) : (s.pwrEv i).bytes = s.bytes := by simp [State.pwrEv]
@[simp] theorem State.thermEv_bytes (s : State) (i : Nat) : (s.thermEv i).bytes = s.bytes := by simp [State.thermEv]
@[simp] theorem State.mbxReject_bytes (s : State) (m : Nat) : (s.mbxReject m).bytes = s.bytes := by simp [State.mbxReject]
@[simp] theorem State.errPush_bytes (s : State) (sev : Nat) : (s.errPush sev).bytes = s.bytes := State.bytes_of_plant (s.errPush_plant ..)
@[simp] theorem State.errDone_bytes (s : State) : s.errDone.bytes = s.bytes := by simp [State.errDone]

@[simp] theorem State.dueReset_bytes (s : State) (cause loc : Nat) : (s.dueReset cause loc).bytes = s.bytes :=
  State.bytes_of_plant (s.dueReset_plant ..)

@[simp] theorem State.partFault_bytes (s : State) (p cause lkind loc : Nat) : (s.partFault p cause lkind loc).bytes = s.bytes :=
  State.bytes_of_plant (s.partFault_plant ..)

@[simp] theorem State.abortAtBeatEnd_bytes (s : State) (p handle : Nat) : (s.abortAtBeatEnd p handle).bytes = s.bytes :=
  State.bytes_of_plant (s.abortAtBeatEnd_plant ..)

@[simp] theorem State.reply_bytes (s : State) (src : CmdSrc) (pkt : List Nat) (status : Nat) (res : List Nat) :
    (s.reply src pkt status res).bytes = s.bytes := by
  unfold State.reply
  split <;> simp

@[simp] theorem State.notice_bytes (s : State) (p kind status tag : Nat) (res : List Nat) : (s.notice p kind status tag res).bytes = s.bytes := by
  simp [State.notice]

@[simp] theorem guardUnit_leavesBytes (ok : Bool) (s : State) : LeavesBytes s (guardUnit ok s) := by simp [guardUnit]
@[simp] theorem onTile_leavesBytes (t : Nat) (s : State) : LeavesBytes s (onTile t s) := by simp [onTile]
@[simp] theorem onCluster_leavesBytes (c : Nat) (s : State) : LeavesBytes s (onCluster c s) := by simp [onCluster]
@[simp] theorem onPart_leavesBytes (p : Nat) (s : State) : LeavesBytes s (onPart p s) := by simp [onPart]
@[simp] theorem onPort_leavesBytes (p : Nat) (s : State) : LeavesBytes s (onPort p s) := by simp [onPort]
@[simp] theorem onBlock_leavesBytes (b : Nat) (s : State) : LeavesBytes s (onBlock b s) := by simp [onBlock]
@[simp] theorem onArray_leavesBytes (a : Nat) (s : State) : LeavesBytes s (onArray a s) := by simp [onArray]

@[simp] theorem State.formSums_bytes (s : State) (addr : Nat) (wrong : List (Nat × Int)) : (s.formSums addr wrong).bytes = s.bytes :=
  State.bytes_update ..

@[simp] theorem State.busyMark_bytes (s : State) : s.busyMark.bytes = s.bytes := State.bytes_update ..
@[simp] theorem State.freeSpans_bytes (s : State) (h : Nat) : (s.freeSpans h).bytes = s.bytes := State.bytes_update ..
@[simp] theorem State.freePool_bytes (s : State) (h : Nat) : (s.freePool h).bytes = s.bytes := State.bytes_update ..
@[simp] theorem State.leaveRow_bytes (s : State) (p h : Nat) : (s.leaveRow p h).bytes = s.bytes := State.bytes_update ..
@[simp] theorem State.forget_bytes (s : State) (p h : Nat) : (s.forget p h).bytes = s.bytes := State.bytes_update ..

@[simp] theorem State.stopWheel_bytes (s : State) (p : Nat) : (s.stopWheel p).bytes = s.bytes := by
  unfold State.stopWheel
  dsimp only
  split <;> simp

@[simp] theorem State.releaseHold_bytes (s : State) (p : Nat) : (s.releaseHold p).bytes = s.bytes := by
  unfold State.releaseHold
  split <;> simp

@[simp] theorem State.wheelRest_bytes (s : State) (p : Nat) : (s.wheelRest p).bytes = s.bytes := by simp [State.wheelRest]
@[simp] theorem State.abandonBeats_bytes (s : State) (p : Nat) : (s.abandonBeats p).bytes = s.bytes := State.bytes_update ..

@[simp] theorem State.endNotice_bytes (s : State) (h : Nat) (e : Entry) (status : Nat) : (s.endNotice h e status).bytes = s.bytes := by
  simp [State.endNotice]

@[simp] theorem State.endRequest_bytes (s : State) (h : Nat) (failed : Bool) (status : Nat) : (s.endRequest h failed status).bytes = s.bytes := by
  unfold State.endRequest
  split <;> simp
  split <;> simp

@[simp] theorem State.memberFree_bytes (s : State) (h : Nat) : (s.memberFree h).bytes = s.bytes := by
  unfold State.memberFree
  split <;> simp

@[simp] theorem State.reportAbort_bytes (s : State) (p h : Nat) : (s.reportAbort p h).bytes = s.bytes := by simp [State.reportAbort]
@[simp] theorem State.abortHere_bytes (s : State) (p h : Nat) : (s.abortHere p h).bytes = s.bytes := by simp [State.abortHere]

@[simp] theorem State.voidPromise_bytes (s : State) (h cause : Nat) : (s.voidPromise h cause).bytes = s.bytes := by
  unfold State.voidPromise
  split <;> simp

@[simp] theorem State.endAll_bytes (s : State) (p void : Nat) (failed : Bool) (status : Nat) : (s.endAll p void failed status).bytes = s.bytes := by
  simp [State.endAll]

@[simp] theorem State.restartRequest_bytes (s : State) (h : Nat) : (s.restartRequest h).bytes = s.bytes := by
  unfold State.restartRequest
  split <;> simp

@[simp] theorem State.restartAll_bytes (s : State) (p : Nat) : (s.restartAll p).bytes = s.bytes := by simp [State.restartAll]
@[simp] theorem State.flushAborts_bytes (s : State) (p : Nat) : (s.flushAborts p).bytes = s.bytes := by simp [State.flushAborts]

/-! ### The fabric, the tiles and the engines -/

@[simp] theorem State.meshGo_bytes (k : Nat) (path rs : List Nat) (s : State) (no : Nat) : (State.meshGo k path rs s no).1.bytes = s.bytes := by
  induction rs generalizing s with
  | nil => rfl
  | cons r rs ih =>
    unfold State.meshGo
    split
    · rfl
    · dsimp only
      split
      · exact ih s
      · split
        · rfl
        · exact (ih _).trans (State.bytes_update ..)

@[simp] theorem State.meshNext_bytes (s : State) (cp : Copy) : (s.meshNext cp).1.bytes = s.bytes := by
  unfold State.meshNext
  repeat' split
  all_goals simp

@[simp] theorem State.meshPrune_bytes (s : State) : s.meshPrune.bytes = s.bytes := State.bytes_update ..

/-- The work that follows every event of a tile writes no byte memory. -/
theorem settleBlind_bytes : SettleBlind State.bytes :=
  ⟨fun _ _ _ _ => by simp, fun _ _ _ _ => by simp, fun _ _ _ => by simp, fun _ _ _ => by simp, fun _ _ => by simp, fun _ _ => by simp⟩

@[simp] theorem State.launch_bytes (s : State) (p sender group : Nat) (chan : Channel) (src : Option MeshSrc) (hdr : VecHdr) (body : Payload)
    (ms : List Member) : (s.launch p sender group chan src hdr body ms).bytes = s.bytes := settleBlind_bytes.launch ..

@[simp] theorem State.fabNobuf_bytes (s : State) (cp : Copy) : (s.fabNobuf cp).bytes = s.bytes := by simp [State.fabNobuf]
@[simp] theorem State.fabOrphan_bytes (s : State) (cp : Copy) : (s.fabOrphan cp).bytes = s.bytes := by simp [State.fabOrphan]

@[simp] theorem State.fmtInvalid_bytes (s : State) (p t idx handle : Nat) : (s.fmtInvalid p t idx handle).bytes = s.bytes :=
  State.bytes_of_plant (s.fmtInvalid_plant ..)

@[simp] theorem State.tileHeader_bytes (s : State) (cp : Copy) : (s.tileHeader cp).1.bytes = s.bytes := by
  unfold State.tileHeader
  dsimp only
  repeat' split
  all_goals simp

@[simp] theorem State.tileBlock_bytes (s : State) (cp : Copy) (b : Block) : (s.tileBlock cp b).1.bytes = s.bytes := by
  unfold State.tileBlock
  dsimp only
  repeat' split
  all_goals simp

@[simp] theorem State.tileTally_bytes (s : State) (cp : Copy) (lanes : List Int) : (s.tileTally cp lanes).1.bytes = s.bytes := by
  unfold State.tileTally
  dsimp only
  repeat' split
  all_goals simp

@[simp] theorem State.finishEng_bytes (s : State) (p c port rbuf bank : Nat) : (s.finishEng p c port rbuf bank).bytes = s.bytes := by
  unfold State.finishEng
  split <;> simp

@[simp] theorem State.engHeader_bytes (s : State) (cp : Copy) : (s.engHeader cp).1.bytes = s.bytes := by
  unfold State.engHeader
  dsimp only
  repeat' split
  all_goals simp

@[simp] theorem State.engBlock_bytes (s : State) (cp : Copy) (b : Block) : (s.engBlock cp b).1.bytes = s.bytes := by
  unfold State.engBlock
  split <;> simp
  split <;> simp

@[simp] theorem State.deliver_bytes (s : State) (cp : Copy) : (s.deliver cp).1.bytes = s.bytes := by
  unfold State.deliver
  repeat' split
  all_goals simp

@[simp] theorem State.deliverAll_bytes (n : Nat) (s : State) (cp : Copy) : (State.deliverAll n s cp).1.bytes = s.bytes := by
  induction n generalizing s cp with
  | zero => rfl
  | succ n ih =>
    unfold State.deliverAll
    dsimp only
    split
    · rfl
    · split
      · simp
      · split
        · simp
        · exact (ih _ _).trans (State.deliver_bytes ..)

@[simp] theorem State.flitUe_bytes (s : State) (p cluster handle : Nat) (chan : Channel) : (s.flitUe p cluster handle chan).bytes = s.bytes := by
  simp [State.flitUe]

@[simp] theorem State.countStale_bytes (s : State) (p : Nat) : (s.countStale p).bytes = s.bytes := State.bytes_update ..

@[simp] theorem State.flitIn_bytes (s : State) (cp : Copy) (ue : Bool) : (s.flitIn cp ue).1.bytes = s.bytes := by
  unfold State.flitIn
  dsimp only
  repeat' split
  all_goals simp

@[simp] theorem execSliceRefresh_leavesBytes (c bank : Nat) (s : State) : LeavesBytes s (execSliceRefresh c bank s) := by simp [execSliceRefresh]
@[simp] theorem State.feed_bytes (n : Nat) (s : State) (p : Nat) : (State.feed n s p).bytes = s.bytes := settleBlind_bytes.feed ..
@[simp] theorem State.edgeGrants_bytes (s : State) (p : Nat) : (s.edgeGrants p).bytes = s.bytes := settleBlind_bytes.edgeGrants ..
@[simp] theorem State.settle_bytes (s : State) (t : Nat) : (s.settle t).bytes = s.bytes := settleBlind_bytes.settle ..
@[simp] theorem State.moveTo_bytes (s : State) (t i : Nat) : (s.moveTo t i).bytes = s.bytes := State.bytes_update ..

@[simp] theorem execNop_leavesBytes (t : Nat) (s : State) : LeavesBytes s (execNop t s) := by
  unfold execNop
  split <;> simp

@[simp] theorem execPass_leavesBytes (t : Nat) (s : State) : LeavesBytes s (execPass t s) := by
  unfold execPass
  split <;> simp
  split <;> simp

@[simp] theorem execPassCodesReady_leavesBytes (t : Nat) (tracing : Bool) (err : Analog) (s : State) :
    LeavesBytes s (execPassCodesReady t tracing err s) := by
  unfold execPassCodesReady
  dsimp only
  split <;> simp

@[simp] theorem execAlt_leavesBytes (t : Nat) (s : State) : LeavesBytes s (execAlt t s) := by
  unfold execAlt
  repeat' split
  all_goals simp

@[simp] theorem execRecv_leavesBytes (t : Nat) (s : State) : LeavesBytes s (execRecv t s) := by
  unfold execRecv
  split <;> simp

@[simp] theorem execWait_leavesBytes (t : Nat) (s : State) : LeavesBytes s (execWait t s) := by
  unfold execWait
  split <;> simp
  split <;> simp

@[simp] theorem State.endBeat_bytes (s : State) (p : Nat) : (s.endBeat p).bytes = s.bytes := by
  unfold State.endBeat
  split
  · rfl
  · dsimp only
    split <;> simp

@[simp] theorem State.nextRun_bytes (s : State) (t : Nat) : (s.nextRun t).bytes = s.bytes := by simp [State.nextRun]

@[simp] theorem State.issueDraft_bytes (s : State) (p : Nat) (hdr : VecHdr) (vec : List Block) : (s.issueDraft p hdr vec).bytes = s.bytes :=
  settleBlind_bytes.issueDraft (fun _ _ _ => State.setTile_bytes ..) ..

@[simp] theorem execBeatEnd_leavesBytes (t : Nat) (s : State) : LeavesBytes s (execBeatEnd t s) := by
  unfold execBeatEnd
  split <;> simp

@[simp] theorem State.proofClean_bytes (s : State) (addr k : Nat) : (s.proofClean addr k).bytes = s.bytes := State.bytes_update ..

@[simp] theorem State.proofArray_bytes (s : State) (t a pvec k run : Nat) (err : Analog) : (s.proofArray t a pvec k run err).bytes = s.bytes := by
  simp [State.proofArray]

@[simp] theorem execProof_leavesBytes (t : Nat) (err : Analog) (s : State) : LeavesBytes s (execProof t err s) := by
  unfold execProof
  split <;> simp

@[simp] theorem State.countCompared_bytes (s : State) (t : Nat) (as : List Nat) (recs : Nat → List PassRec) :
    (s.countCompared t as recs).bytes = s.bytes := by simp [State.countCompared]

@[simp] theorem execKcmp_leavesBytes (t : Nat) (s : State) : LeavesBytes s (execKcmp t s) := by
  unfold execKcmp
  dsimp only
  split <;> simp

@[simp] theorem State.tallyOne_bytes (s : State) (p t idx run eref eb slot lane : Nat) (r : Int) :
    (s.tallyOne p t idx run eref eb slot lane r).bytes = s.bytes := by
  unfold State.tallyOne
  split <;> simp
  split <;> simp

@[simp] theorem State.tallyArray_bytes (s : State) (p t idx run tslot eref a r : Nat) :
    (s.tallyArray p t idx run tslot eref a r).bytes = s.bytes := by
  unfold State.tallyArray
  dsimp only
  split
  · simp
  · rw [State.setTile_bytes, State.foldl_bytes]
    intro s i
    split <;> simp

@[simp] theorem execTally_leavesBytes (t : Nat) (s : State) : LeavesBytes s (execTally t s) := by
  unfold execTally
  dsimp only
  split <;> simp

@[simp] theorem State.countSkive_bytes (s : State) (p handle : Nat) (n8 fellBack : Bool) : (s.countSkive p handle n8 fellBack).bytes = s.bytes :=
  State.bytes_of_plant (s.countSkive_plant ..)

@[simp] theorem execSkive_leavesBytes (t : Nat) (s : State) : LeavesBytes s (execSkive t s) := by
  unfold execSkive
  dsimp only
  split <;> simp

@[simp] theorem State.drawBlock_bytes (s : State) : s.drawBlock.2.bytes = s.bytes := State.bytes_update ..

@[simp] theorem State.outBlocks_bytes (s : State) (x : Tile) (first n : Nat) : (s.outBlocks x first n).2.bytes = s.bytes := by
  induction n with
  | zero => rfl
  | succ n ih =>
    unfold State.outBlocks
    dsimp only
    split <;> simp [ih]

@[simp] theorem execSend_leavesBytes (t : Nat) (s : State) : LeavesBytes s (execSend t s) := by
  unfold execSend
  dsimp only
  repeat' split
  all_goals simp

@[simp] theorem execFabStall_leavesBytes (t : Nat) (s : State) : LeavesBytes s (execFabStall t s) := by
  unfold execFabStall
  dsimp only
  split <;> simp

@[simp] theorem execInlay_leavesBytes (t : Nat) (s : State) : LeavesBytes s (execInlay t s) := by
  unfold execInlay
  dsimp only
  repeat' split
  all_goals simp

@[simp] theorem execInlayEngineCommit_leavesBytes (c : Nat) (s : State) : LeavesBytes s (execInlayEngineCommit c s) := by
  unfold execInlayEngineCommit
  dsimp only
  repeat' split
  all_goals simp

@[simp] theorem State.numOverflow_bytes (s : State) (p handle n : Nat) : (s.numOverflow p handle n).bytes = s.bytes := by
  induction n with
  | zero => rfl
  | succ n ih => simp [State.numOverflow, ih]

@[simp] theorem State.engEmit_bytes (s : State) (p port c d group : Nat) (draft : Bool) (members : List Member) (h : VecHdr) (bs : List Block) :
    (s.engEmit p port c d group draft members h bs).bytes = s.bytes := by simp [State.engEmit]

@[simp] theorem State.burnUsed_bytes (s : State) (x : BurnIn) : (s.burnUsed x).bytes = s.bytes := State.bytes_update ..

/-- A firing leaves the byte memories where what it writes besides does. -/
@[simp] theorem State.burnFire_bytes {g : State → BurnIn → List (Option F32) → State} (h : ∀ s x vals, (g s x vals).bytes = s.bytes)
    (s : State) (c op : Nat) (len n8out : BurnIn → Nat) (f : State → BurnIn → List (Option F32)) :
    (s.burnFire c op len n8out f g).bytes = s.bytes := by
  unfold State.burnFire
  split
  · rfl
  · dsimp only
    split
    · simp
    · split
      · simp
      · split <;> simp [h]

@[simp] theorem writeNothing_bytes (s : State) (x : BurnIn) (vals : List (Option F32)) : (writeNothing s x vals).bytes = s.bytes :=
  State.bytes_update ..

@[simp] theorem execRmsnorm_leavesBytes (c : Nat) (s : State) : LeavesBytes s (execRmsnorm c s) := by simp [execRmsnorm]
@[simp] theorem execLnorm_leavesBytes (c : Nat) (s : State) : LeavesBytes s (execLnorm c s) := by simp [execLnorm]
@[simp] theorem execAct_leavesBytes (c : Nat) (s : State) : LeavesBytes s (execAct c s) := by simp [execAct]
@[simp] theorem execGate_leavesBytes (c : Nat) (s : State) : LeavesBytes s (execGate c s) := by simp [execGate]
@[simp] theorem execRope_leavesBytes (c : Nat) (s : State) : LeavesBytes s (execRope c s) := by simp [execRope]
@[simp] theorem execScale_leavesBytes (c : Nat) (s : State) : LeavesBytes s (execScale c s) := by simp [execScale]
@[simp] theorem execRoute_leavesBytes (c : Nat) (s : State) : LeavesBytes s (execRoute c s) := by simp [execRoute]
@[simp] theorem State.attnUsed_bytes (s : State) (x : AttnIn) : (s.attnUsed x).bytes = s.bytes := State.bytes_update ..
@[simp] theorem State.attnBad_bytes (s : State) (x : AttnIn) : (s.attnBad x).bytes = s.bytes := by simp [State.attnBad]
@[simp] theorem State.kvGap_bytes (s : State) (x : AttnIn) : (s.kvGap x).bytes = s.bytes := by simp [State.kvGap]

@[simp] theorem State.drawBlocks_bytes (s : State) (n : Nat) : (s.drawBlocks n).2.bytes = s.bytes := by
  induction n generalizing s with
  | zero => rfl
  | succ n ih => simp [State.drawBlocks, ih]

@[simp] theorem State.attnEmit_bytes (s : State) (x : AttnIn) (bs : List Block) : (s.attnEmit x bs).bytes = s.bytes := by simp [State.attnEmit]
@[simp] theorem State.kvRange_bytes (s : State) (x : AttnIn) (outBlocks : Nat) : (s.kvRange x outBlocks).bytes = s.bytes := by simp [State.kvRange]

@[simp] theorem execStload_leavesBytes (c : Nat) (s : State) : LeavesBytes s (execStload c s) := by
  unfold execStload
  repeat' split
  all_goals simp

@[simp] theorem execDispatch_leavesBytes (c : Nat) (s : State) : LeavesBytes s (execDispatch c s) := by
  refine leavesBytes_onCluster.2 fun _ => ?_
  split
  · rfl
  · split
    · simp
    · refine (State.foldl_bytes (fun s e => ?_) _ _).trans (by simp)
      dsimp only
      split <;> simp

@[simp] theorem execCombine_leavesBytes (c : Nat) (s : State) : LeavesBytes s (execCombine c s) := by
  unfold execCombine
  split <;> simp

/-! ### Arrays, repairs, disputes and checks -/

@[simp] theorem State.setRow_bytes (s : State) (sv r v : Nat) : (s.setRow sv r v).bytes = s.bytes := State.bytes_update ..
@[simp] theorem State.writeRows_bytes (s : State) (a sv : Nat) (rs : List Nat) : (s.writeRows a sv rs).bytes = s.bytes := by simp [State.writeRows]

@[simp] theorem State.spoilColumn_bytes (s : State) (sv : Nat) (rs : List Nat) (c : Nat) : (s.spoilColumn sv rs c).bytes = s.bytes := by
  simp [State.spoilColumn]

@[simp] theorem State.setLoaded_bytes (s : State) : s.setLoaded.bytes = s.bytes := State.bytes_update ..
@[simp] theorem State.clearSlots_bytes (s : State) (as : List Nat) : (s.clearSlots as).bytes = s.bytes := by simp [State.clearSlots]
@[simp] theorem State.loseWeights_bytes (s : State) (p : Nat) : (s.loseWeights p).bytes = s.bytes := by simp [State.loseWeights]
@[simp] theorem State.countFault_bytes (s : State) (sv : Nat) : (s.countFault sv).bytes = s.bytes := by simp [State.countFault]
@[simp] theorem State.judgeColumn_bytes (s : State) (sv c : Nat) : (s.judgeColumn sv c).bytes = s.bytes := by simp [State.judgeColumn]
@[simp] theorem State.keeperOff_bytes (s : State) (sv k : Nat) : (s.keeperOff sv k).bytes = s.bytes := by simp [State.keeperOff]
@[simp] theorem State.patchOut_bytes (s : State) (sv p : Nat) : (s.patchOut sv p).bytes = s.bytes := by simp [State.patchOut]
@[simp] theorem State.patchDone_bytes (s : State) (sv p c : Nat) : (s.patchDone sv p c).bytes = s.bytes := by simp [State.patchDone]
@[simp] theorem State.setPatch_bytes (s : State) (a sv p c : Nat) : (s.setPatch a sv p c).bytes = s.bytes := by simp [State.setPatch]

theorem State.coverWithPatch_bytes {s u : State} {a sv c : Nat} {bad : Faulty} {n : Nat} (h : s.coverWithPatch a sv c bad n = some u) :
    u.bytes = s.bytes := by
  induction n generalizing s with
  | zero => cases h
  | succ n ih =>
    unfold State.coverWithPatch at h
    split at h
    · cases h
    · split at h
      · cases h
      · split at h
        · exact (ih h).trans (State.patchOut_bytes ..)
        · cases h
          simp

theorem State.coverAll_bytes {s u : State} {a sv : Nat} {bad : Faulty} (h : s.coverAll a sv bad = some u) : u.bytes = s.bytes := by
  refine List.foldlRecOn (motive := fun o : Option State => ∀ u, o = some u → u.bytes = s.bytes) _ _ ?_ (fun o ih c _ => ?_) u h
  · rintro u ⟨⟩
    rfl
  · intro u hu
    obtain ⟨v, hv, hu⟩ := Option.bind_eq_some_iff.1 hu
    refine Eq.trans ?_ (ih v hv)
    dsimp only at hu
    by_cases data : c < 256
    · rw [if_pos data] at hu
      split at hu
      · cases hu; rfl
      · exact (State.coverWithPatch_bytes hu).trans (State.judgeColumn_bytes ..)
    · rw [if_neg data] at hu
      by_cases keeper : c < 264
      · rw [if_pos keeper] at hu
        obtain ⟨-, hu⟩ := Option.ite_none_left_eq_some.1 hu
        cases hu
        simp
      · rw [if_neg keeper] at hu
        split at hu
        · exact (State.coverWithPatch_bytes hu).trans (State.patchOut_bytes ..)
        · cases hu; rfl

@[simp] theorem State.deadArray_bytes (s : State) (a : Nat) : (s.deadArray a).bytes = s.bytes := by simp [State.deadArray]
@[simp] theorem State.writeArray_bytes (s : State) (a sv : Nat) (bad : Faulty) : (s.writeArray a sv bad).bytes = s.bytes := by simp [State.writeArray]

@[simp] theorem State.tryRetire_bytes (s : State) (a : Nat) (bad : Faulty) : (s.tryRetire a bad).1.bytes = s.bytes := by
  unfold State.tryRetire
  dsimp only
  split
  · rfl
  · split
    next hu => simp [State.coverAll_bytes hu]
    next => simp

@[simp] theorem State.retire_bytes (s : State) (a : Nat) (bad : Faulty) : (s.retire a bad).1.bytes = s.bytes := by
  unfold State.retire
  dsimp only
  split <;> simp

@[simp] theorem State.tryProgram_bytes (s : State) (a : Nat) (bad : Faulty) : (s.tryProgram a bad).1.bytes = s.bytes := by
  unfold State.tryProgram
  dsimp only
  split
  next hu => simp [State.coverAll_bytes hu]
  next => simp

@[simp] theorem State.programArray_bytes (s : State) (a : Nat) (bad : Faulty) : (s.programArray a bad).1.bytes = s.bytes := by
  unfold State.programArray
  dsimp only
  split <;> simp

@[simp] theorem State.patchOrRetire_bytes (s : State) (a c : Nat) (bad : Faulty) : (s.patchOrRetire a c bad).bytes = s.bytes := by
  unfold State.patchOrRetire
  split
  next hu => exact State.coverWithPatch_bytes hu
  next => simp

@[simp] theorem State.writeKeeper_bytes (s : State) (a sv k c : Nat) (rs : List Nat) : (s.writeKeeper a sv k c rs).bytes = s.bytes :=
  State.bytes_update ..

@[simp] theorem State.coverColumn_bytes (s : State) (a c : Nat) (bad : Faulty) : (s.coverColumn a c bad).bytes = s.bytes := by
  simp [State.coverColumn]

@[simp] theorem State.coverPartition_bytes (s : State) (p : Nat) (bad : Faulty) : (s.coverPartition p bad).bytes = s.bytes := by
  unfold State.coverPartition
  split <;> simp

@[simp] theorem State.sendBlocks_bytes (s : State) (p h : Nat) : (s.sendBlocks p h).bytes = s.bytes := by
  unfold State.sendBlocks
  split <;> simp

@[simp] theorem State.saddleEvent_bytes (s : State) (p h code sev k detail : Nat) : (s.saddleEvent p h code sev k detail).bytes = s.bytes := by
  simp [State.saddleEvent]

@[simp] theorem State.accrue_bytes (s : State) (c : Nat) : (s.accrue c).bytes = s.bytes := State.bytes_update ..
@[simp] theorem State.debit_bytes (s : State) (c n : Nat) : (s.debit c n).bytes = s.bytes := by simp [State.debit]
@[simp] theorem State.sign_bytes (s : State) (g : Signature) : (s.sign g).bytes = s.bytes := by simp [State.sign]

@[simp] theorem State.suspect_bytes (s : State) (a t0 : Nat) : (s.suspect a t0).bytes = s.bytes := by
  unfold State.suspect
  split <;> simp

@[simp] theorem State.correctWr_bytes (s : State) (t : Nat) (d : Dispute) (new : Nat → Int) (cols : List Nat) :
    (s.correctWr t d new cols).bytes = s.bytes := State.bytes_update ..

@[simp] theorem State.dropDispute_bytes (s : State) (t : Nat) (d : Dispute) (rest : List Dispute) : (s.dropDispute t d rest).bytes = s.bytes := by
  unfold State.dropDispute
  split <;> simp

@[simp] theorem State.transient_bytes (s : State) (t : Nat) (d : Dispute) (rest : List Dispute) : (s.transient t d rest).bytes = s.bytes := by
  unfold State.transient
  split <;> simp

@[simp] theorem execDisputeRepetition_leavesBytes (t : Nat) (err : Analog) (s : State) : LeavesBytes s (execDisputeRepetition t err s) := by
  unfold execDisputeRepetition
  dsimp only
  split <;> simp

@[simp] theorem State.keeperFault_bytes (s : State) (a k : Nat) : (s.keeperFault a k).bytes = s.bytes := by simp [State.keeperFault]

@[simp] theorem State.columnFault_bytes (s : State) (a c det : Nat) (covered : Bool) : (s.columnFault a c det covered).bytes = s.bytes := by
  unfold State.columnFault
  extract_lets sv s1 s2 x
  have judged : s1.bytes = s.bytes := by unfold s1; split <;> simp
  have raised : s2.bytes = s.bytes := by simp [s2, judged]
  split
  · simp [raised]
  · split <;> simp [raised]

@[simp] theorem State.uncovered_bytes (s : State) (a : Nat) : (s.uncovered a).bytes = s.bytes := by
  unfold State.uncovered
  split <;> simp

@[simp] theorem State.dropSums_bytes (s : State) (a : Nat) : (s.dropSums a).bytes = s.bytes := State.bytes_update ..

@[simp] theorem State.act1_bytes (s : State) (t : Nat) (d : Dispute) (c : Nat) (v : Verdict) : (s.act1 t d c v).bytes = s.bytes := by
  unfold State.act1
  extract_lets addr cur sv kp exp dc ref phys s1 s2 s3 s4 s5 s6
  have signed : s1.bytes = s.bytes := by unfold s1; split <;> simp
  have corrected : s2.bytes = s1.bytes := by unfold s2; split <;> simp
  have keeper : s3.bytes = s2.bytes := by unfold s3; split <;> simp
  have column : s4.bytes = s3.bytes := by unfold s4; split <;> simp
  have sums : s5.bytes = s4.bytes := by unfold s5; split <;> simp
  have reserve : s6.bytes = s5.bytes := by unfold s6; split <;> simp
  split <;> simp [reserve, sums, column, keeper, corrected, signed]

@[simp] theorem execSettlement_leavesBytes (t : Nat) (s : State) : LeavesBytes s (execSettlement t s) := by
  unfold execSettlement
  dsimp only
  split <;> simp

@[simp] theorem State.sequenceOn_bytes (s : State) (t : Nat) : (s.sequenceOn t).bytes = s.bytes := by simp [State.sequenceOn]

@[simp] theorem execPatchDone_leavesBytes (array column : Nat) (bad : Faulty) (s : State) : LeavesBytes s (execPatchDone array column bad s) := by
  unfold execPatchDone
  dsimp only
  repeat' split
  all_goals simp

@[simp] theorem execKeeperRotation_leavesBytes (array k : Nat) (s : State) : LeavesBytes s (execKeeperRotation array k s) := by
  simp [execKeeperRotation]

@[simp] theorem State.crossCheck_bytes (s : State) (a seed : Nat) (err : Analog) : (s.crossCheck a seed err).bytes = s.bytes := by
  simp [State.crossCheck]

@[simp] theorem execCrossCheck_leavesBytes (array seed : Nat) (err : Analog) (s : State) : LeavesBytes s (execCrossCheck array seed err s) := by
  simp [execCrossCheck]

@[simp] theorem State.driftCells_bytes (s : State) (sv : Nat) (drift : List (Nat × Nat)) : (s.driftCells sv drift).bytes = s.bytes := by
  simp [State.driftCells]

@[simp] theorem State.readback_bytes (s : State) (a : Nat) (bad : Faulty) : (s.readback a bad).bytes = s.bytes := by
  unfold State.readback
  extract_lets rows x cols t0 sv s1 s2 s3 s4 y
  have rewritten : s1.bytes = s.bytes := by simp [s1]
  have signed : s2.bytes = s1.bytes := by simp [s2]
  have suspected : s3.bytes = s2.bytes := by simp [s3]
  have covered (v : State) : (match v.coverAll a sv bad with | some u => u | none => (v.retire a bad).1).bytes = v.bytes := by
    split
    next hu => exact State.coverAll_bytes hu
    next => exact State.retire_bytes ..
  split
  · simp
  · exact (State.setArr_bytes ..).trans ((covered s3).trans (suspected.trans (signed.trans rewritten)))

@[simp] theorem execPeriodicReadback_leavesBytes (array : Nat) (drift : List (Nat × Nat)) (bad : Faulty) (s : State) :
    LeavesBytes s (execPeriodicReadback array drift bad s) := by simp [execPeriodicReadback]

@[simp] theorem execRowProgramAttempt_leavesBytes (a : Attempt) (s : State) : LeavesBytes s (execRowProgramAttempt a s) := by
  refine leavesBytes_guardUnit.2 fun _ => ?_
  extract_lets sv busy others n v w s1 x s2
  have row : s1.bytes = s.bytes := by simp [s1]
  have ended : s2.bytes = s.bytes := by simp [s2, row]
  split
  · rfl
  · split
    · simp [row]
    · split
      · simp [row]
      · split
        next hu => rw [State.coverAll_bytes hu, ended]
        next => simp [ended]

@[simp] theorem State.resetUnits_bytes (s : State) (p : Nat) : (s.resetUnits p).bytes = s.bytes := by simp [State.resetUnits]
@[simp] theorem State.dropCopies_bytes (s : State) (p : Nat) : (s.dropCopies p).bytes = s.bytes := State.bytes_update ..
@[simp] theorem State.remigrate_bytes (s : State) (p : Nat) : (s.remigrate p).bytes = s.bytes := by simp [State.remigrate]

@[simp] theorem State.announceRestart_bytes (s : State) (p cause : Nat) : (s.announceRestart p cause).bytes = s.bytes := by
  simp [State.announceRestart]

@[simp] theorem State.restartPart_bytes (s : State) (p cause lkind loc : Nat) (bad : Faulty) :
    (s.restartPart p cause lkind loc bad).bytes = s.bytes := by simp [State.restartPart]

@[simp] theorem execPartitionRestart_leavesBytes (p : Nat) (f : PartFault) (bad : Faulty) (s : State) :
    LeavesBytes s (execPartitionRestart p f bad s) := by
  unfold execPartitionRestart
  dsimp only
  split <;> simp

@[simp] theorem execMemUe_leavesBytes (site : UeSite) (loc : Nat) (s : State) : LeavesBytes s (execMemUe site loc s) := by
  unfold execMemUe
  repeat' split
  all_goals simp

@[simp] theorem execMemCe_leavesBytes (loc syndrome : Nat) (s : State) : LeavesBytes s (execMemCe loc syndrome s) := by simp [execMemCe]

@[simp] theorem execKnownSumsComputed_leavesBytes (array : Nat) (wrong : List (Nat × Int)) (s : State) :
    LeavesBytes s (execKnownSumsComputed array wrong s) := by simp [execKnownSumsComputed]

/-! ### Power, clocks, housekeeping and calibration -/

@[simp] theorem State.request_bytes (s : State) : s.request.bytes = s.bytes := by simp [State.request]

@[simp] theorem State.markBraked_bytes (s : State) : s.markBraked.bytes = s.bytes := by
  unfold State.markBraked
  split
  · refine State.foldl_bytes (fun s h => ?_) _ _
    split <;> simp
  · rfl

@[simp] theorem State.brakeEnter_bytes (s : State) (f : Filter) : (s.brakeEnter f).bytes = s.bytes := by simp [State.brakeEnter]
@[simp] theorem execBrakeOn_leavesBytes (s : State) : LeavesBytes s (execBrakeOn s) := by simp [execBrakeOn]
@[simp] theorem execBrakeToggle_leavesBytes (s : State) : LeavesBytes s (execBrakeToggle s) := by simp [execBrakeToggle]
@[simp] theorem execBrakeOff_leavesBytes (s : State) : LeavesBytes s (execBrakeOff s) := by simp [execBrakeOff]
@[simp] theorem execBrakeBeyond_leavesBytes (s : State) : LeavesBytes s (execBrakeBeyond s) := by simp [execBrakeBeyond]
@[simp] theorem execBeyondClear_leavesBytes (s : State) : LeavesBytes s (execBeyondClear s) := by simp [execBeyondClear]

@[simp] theorem execBrakeHeld_leavesBytes (s : State) : LeavesBytes s (execBrakeHeld s) := by
  unfold execBrakeHeld
  split <;> simp

@[simp] theorem execAclkChange_leavesBytes (mhz : Nat) (s : State) : LeavesBytes s (execAclkChange mhz s) := by simp [execAclkChange]
@[simp] theorem State.capRound_bytes (s : State) (watts : Nat) : (s.capRound watts).bytes = s.bytes := by simp [State.capRound]
@[simp] theorem execRestEntry_leavesBytes (s : State) : LeavesBytes s (execRestEntry s) := by simp [execRestEntry]
@[simp] theorem State.leaveRest_bytes (s : State) : s.leaveRest.bytes = s.bytes := by simp [State.leaveRest]
@[simp] theorem execRestExit_leavesBytes (s : State) : LeavesBytes s (execRestExit s) := by simp [execRestExit]

@[simp] theorem execTileGate_leavesBytes (t : Nat) (s : State) : LeavesBytes s (execTileGate t s) := by
  unfold execTileGate
  split <;> simp

@[simp] theorem execTileWake_leavesBytes (t : Nat) (s : State) : LeavesBytes s (execTileWake t s) := by
  unfold execTileWake
  split <;> simp

@[simp] theorem execHkChunkStart_leavesBytes (c : Nat) (s : State) : LeavesBytes s (execHkChunkStart c s) := by simp [execHkChunkStart]

@[simp] theorem execHkOverdue_leavesBytes (array activity : Nat) (s : State) : LeavesBytes s (execHkOverdue array activity s) := by
  unfold execHkOverdue
  split <;> simp

@[simp] theorem State.thermalEnd_bytes (s : State) (p : Nat) : (s.thermalEnd p).bytes = s.bytes := by simp [State.thermalEnd]
@[simp] theorem State.thermalAt_bytes (s : State) (p : Nat) (drain : Bool) : (s.thermalAt p drain).bytes = s.bytes := by simp [State.thermalAt]

@[simp] theorem State.tellPommels_bytes (s : State) (m : PeerMsg) : (s.tellPommels m).bytes = s.bytes := by
  unfold State.tellPommels
  split <;> simp

@[simp] theorem State.hkConvert_bytes (s : State) (n : Nat) (v : Int) (code : Nat) : (s.hkConvert n v code).bytes = s.bytes := by
  simp [State.hkConvert]

@[simp] theorem State.hkChannels_bytes (s : State) (r : HkReading) : (s.hkChannels r).bytes = s.bytes := by simp [State.hkChannels]

@[simp] theorem State.warnRound_bytes (s : State) (rate : Option (Nat × Int)) (hot : Option Nat) : (s.warnRound rate hot).bytes = s.bytes := by
  simp [State.warnRound]

@[simp] theorem State.stopRound_bytes (s : State) (rate : Option (Nat × Int)) (hot : Option Nat) (dts : List (Nat × Int)) :
    (s.stopRound rate hot dts).bytes = s.bytes := by
  unfold State.stopRound
  split <;> simp

@[simp] theorem State.calTriggers_bytes (s : State) : s.calTriggers.bytes = s.bytes := by simp [State.calTriggers]
@[simp] theorem State.trimRound_bytes (s : State) : s.trimRound.bytes = s.bytes := by simp [State.trimRound]
@[simp] theorem State.roundPower_bytes (s : State) : s.roundPower.2.bytes = s.bytes := State.bytes_update ..
@[simp] theorem State.newTemps_bytes (s : State) (temps : Tbl Int) : (s.newTemps temps).bytes = s.bytes := State.bytes_update ..
@[simp] theorem State.tempRegs_bytes (s : State) (dts : List (Nat × Int)) : (s.tempRegs dts).bytes = s.bytes := State.bytes_update ..
@[simp] theorem execHkRound_leavesBytes (r : HkReading) (s : State) : LeavesBytes s (execHkRound r s) := by simp [execHkRound]
@[simp] theorem State.calRange_bytes (s : State) (a c which : Nat) (v : Int) : (s.calRange a c which v).bytes = s.bytes := by simp [State.calRange]
@[simp] theorem State.calDone_bytes (s : State) (a : Nat) (tc : Int) : (s.calDone a tc).bytes = s.bytes := State.bytes_update ..
@[simp] theorem State.applyTrim_bytes (s : State) (t : Trim) : (s.applyTrim t).bytes = s.bytes := by simp [State.applyTrim]

@[simp] theorem execCalStep_leavesBytes (trim : Trim) (s : State) : LeavesBytes s (execCalStep trim s) := by
  unfold execCalStep
  dsimp only
  split <;> simp

@[simp] theorem execThermtrip_leavesBytes (s : State) : LeavesBytes s (execThermtrip s) := by simp [execThermtrip]

/-! ### Admission, claims, beats and the awl -/

@[simp] theorem State.stallCmd_bytes (s : State) (src : CmdSrc) (pkt : List Nat) : (s.stallCmd src pkt).bytes = s.bytes := State.bytes_update ..

/-- A command leaves the byte memories where its effect does. -/
@[simp] theorem command_leavesBytes {f : CmdEffect} (h : ∀ src w s, (f src w s).bytes = s.bytes) (b op : Nat) (s : State) :
    LeavesBytes s (command b op f s) := by
  refine leavesBytes_onBlock.2 fun _ => ?_
  split
  · rfl
  · split
    · rfl
    · split
      · simp
      · dsimp only
        split <;> simp [h]

@[simp] theorem State.startCmd_bytes (s : State) (src : CmdSrc) (pkt : List Nat) : (s.startCmd src pkt).bytes = s.bytes := State.bytes_update ..
@[simp] theorem State.asks_bytes (s : State) (a n : Nat) : (s.asks a n).bytes = s.bytes := by simp [State.asks]

theorem State.openClaim_bytes {s u : State} {p : Nat} {c : Pending} {x : Ext} (h : s.openClaim p c x = some u) : u.bytes = s.bytes := by
  unfold State.openClaim at h
  dsimp only at h
  split at h
  · cases h
  · cases h
    simp

@[simp] theorem State.closeClaim_bytes (s : State) (p h : Nat) : (s.closeClaim p h).bytes = s.bytes := State.bytes_update ..

@[simp] theorem execSubmit_leavesBytes (b : Nat) (h : HostMem) (s : State) : LeavesBytes s (execSubmit b h s) := by
  refine command_leavesBytes (fun src w s => ?_) _ _ s
  extract_lets p s1
  have asked : s1.bytes = s.bytes := by unfold s1; split <;> simp
  split
  · simp
  · simp
  · split
    · simp [asked]
    · split
      · simp [asked]
      · extract_lets hd e j e'
        split
        · simp [asked]
        · split
          next => simp [asked]
          next hu => simp [State.openClaim_bytes hu, asked]

@[simp] theorem State.queuePrefill_bytes (s : State) (p h : Nat) : (s.queuePrefill p h).bytes = s.bytes := State.bytes_update ..

@[simp] theorem State.claimFails_bytes (s : State) (p : Nat) (c : Pending) (status : Nat) : (s.claimFails p c status).bytes = s.bytes := by
  unfold State.claimFails
  split <;> simp

@[simp] theorem execClaimReturn_leavesBytes (p handle : Nat) (s : State) : LeavesBytes s (execClaimReturn p handle s) := by
  unfold execClaimReturn
  repeat' split
  all_goals simp

@[simp] theorem execRefuse_leavesBytes (p handle : Nat) (s : State) : LeavesBytes s (execRefuse p handle s) := by
  unfold execRefuse
  repeat' split
  all_goals simp

@[simp] theorem execClaim_leavesBytes (p : Nat) (m : ClaimMsg) (s : State) : LeavesBytes s (execClaim p m s) := by
  unfold execClaim
  split <;> simp
  split <;> simp

@[simp] theorem execRelease_leavesBytes (p handle : Nat) (undo : Bool) (s : State) : LeavesBytes s (execRelease p handle undo s) := by
  unfold execRelease
  repeat' split
  all_goals simp

@[simp] theorem State.cancelRequest_bytes (s : State) (h : Nat) : (s.cancelRequest h).bytes = s.bytes := by
  unfold State.cancelRequest
  split <;> simp

@[simp] theorem cancelCmd_bytes (src : CmdSrc) (w : List Nat) (s : State) : (cancelCmd src w s).bytes = s.bytes := by
  unfold cancelCmd
  split <;> simp

@[simp] theorem execCancel_leavesBytes (b : Nat) (s : State) : LeavesBytes s (execCancel b s) := by simp [execCancel]

@[simp] theorem execPause_leavesBytes (b : Nat) (s : State) : LeavesBytes s (execPause b s) := by
  refine command_leavesBytes (fun src w s => ?_) _ _ s
  split
  · simp
  · dsimp only
    split <;> simp

@[simp] theorem execResume_leavesBytes (b : Nat) (s : State) : LeavesBytes s (execResume b s) := by
  refine command_leavesBytes (fun src w s => ?_) _ _ s
  extract_lets p h
  split
  · simp
  · simp
  · split
    · simp
    · split
      extract_lets e j e'
      split
      · simp
      · split
        next => simp
        next hu => simp [State.openClaim_bytes hu]

@[simp] theorem execDrop_leavesBytes (b : Nat) (s : State) : LeavesBytes s (execDrop b s) := by
  refine command_leavesBytes (fun src w s => ?_) _ _ s
  split
  · simp
  · dsimp only
    split <;> simp

@[simp] theorem execTtlExpiry_leavesBytes (p handle : Nat) (s : State) : LeavesBytes s (execTtlExpiry p handle s) := by
  unfold execTtlExpiry
  split <;> simp

@[simp] theorem execReadmit_leavesBytes (p handle : Nat) (s : State) : LeavesBytes s (execReadmit p handle s) := by
  refine leavesBytes_onPart.2 fun _ => ?_
  dsimp only
  split
  · rfl
  · split
    · rfl
    · split
      next hu => simp [State.openClaim_bytes hu]
      next => simp

@[simp] theorem execPromiseModelSet_leavesBytes (b : Nat) (s : State) : LeavesBytes s (execPromiseModelSet b s) := by simp [execPromiseModelSet]
@[simp] theorem execHousekeepSet_leavesBytes (b : Nat) (s : State) : LeavesBytes s (execHousekeepSet b s) := by simp [execHousekeepSet]
@[simp] theorem State.startRide_bytes (s : State) (p j : Nat) (r : Ride) : (s.startRide p j r).bytes = s.bytes := by simp [State.startRide]

@[simp] theorem State.logBeat_bytes (s : State) (p : Nat) (slots : List (Nat × Nat × Nat × Nat)) : (s.logBeat p slots).bytes = s.bytes :=
  State.bytes_update ..

@[simp] theorem State.deadlineCheck_bytes (s : State) (hs : List Nat) : (s.deadlineCheck hs).bytes = s.bytes := by simp [State.deadlineCheck]

@[simp] theorem execBeatIssue_leavesBytes (p : Nat) (emb : List (List Block)) (s : State) : LeavesBytes s (execBeatIssue p emb s) := by
  simp [execBeatIssue]

@[simp] theorem State.beginStep_bytes (s : State) (i n bud tIn : Nat) : (s.beginStep i n bud tIn).bytes = s.bytes := State.bytes_update ..

@[simp] theorem State.startStep_bytes (s : State) (slots : List (Nat × Nat × Nat × Nat)) (h : Nat) : (s.startStep slots h).bytes = s.bytes := by
  unfold State.startStep
  split <;> simp

@[simp] theorem execBeatStart_leavesBytes (p : Nat) (s : State) : LeavesBytes s (execBeatStart p s) := by
  unfold execBeatStart
  dsimp only
  repeat' split
  all_goals simp

@[simp] theorem execBeatOut_leavesBytes (p slot : Nat) (s : State) : LeavesBytes s (execBeatOut p slot s) := by simp [execBeatOut]
@[simp] theorem State.enterDecode_bytes (s : State) (p h : Nat) : (s.enterDecode p h).bytes = s.bytes := State.bytes_update ..
@[simp] theorem State.enterPause_bytes (s : State) (h : Nat) : (s.enterPause h).bytes = s.bytes := State.bytes_update ..

@[simp] theorem State.migrate_bytes (s : State) (p h : Nat) (writeFails : Bool) : (s.migrate p h writeFails).bytes = s.bytes := by
  unfold State.migrate
  split <;> simp
  split <;> simp

@[simp] theorem execPauseMigrate_leavesBytes (p handle : Nat) (writeFails : Bool) (s : State) :
    LeavesBytes s (execPauseMigrate p handle writeFails s) := by
  unfold execPauseMigrate
  split <;> simp

@[simp] theorem execSaddlebagWriteDone_leavesBytes (p handle : Nat) (failed : List Nat) (s : State) :
    LeavesBytes s (execSaddlebagWriteDone p handle failed s) := by
  unfold execSaddlebagWriteDone
  split <;> simp

@[simp] theorem execAwlGather_leavesBytes (c p : Nat) (s : State) : LeavesBytes s (execAwlGather c p s) := by
  unfold execAwlGather
  repeat' split
  all_goals simp

@[simp] theorem State.queueRecords_bytes (s : State) (p : Nat) (rs : List TokRec) : (s.queueRecords p rs).bytes = s.bytes := State.bytes_update ..

@[simp] theorem State.finishStep_bytes (s : State) (p : Nat) (m : ClaimMsg) (base a : Nat) (toks : List Nat) :
    (s.finishStep p m base a toks).bytes = s.bytes := by simp [State.finishStep]

@[simp] theorem State.failStep_bytes (s : State) (p h status : Nat) : (s.failStep p h status).bytes = s.bytes := by simp [State.failStep]
@[simp] theorem State.rideOver_bytes (s : State) (p h : Nat) (lateOk : Bool) : (s.rideOver p h lateOk).bytes = s.bytes := by simp [State.rideOver]

@[simp] theorem State.takePooled_bytes (s : State) (ts : TableSet) : (s.takePooled ts).2.bytes = s.bytes := by
  unfold State.takePooled
  refine List.foldlRecOn (motive := fun acc : List Block × State => acc.2.bytes = s.bytes) _ _ rfl (fun acc ih e _ => ?_)
  dsimp only
  split <;> simp [ih]

@[simp] theorem State.finishEmbed_bytes (s : State) (p : Nat) (m : ClaimMsg) (bs : List Block) : (s.finishEmbed p m bs).bytes = s.bytes := by
  simp [State.finishEmbed]

@[simp] theorem State.takeDecision_bytes (s : State) (p : Nat) (m : ClaimMsg) (base pos : Nat) (d : Decision) :
    (s.takeDecision p m base pos d).bytes = s.bytes := by
  unfold State.takeDecision
  split <;> simp

@[simp] theorem State.selectSlot_bytes (s : State) (p : Nat) (ts : TableSet) (m : ClaimMsg) (h : VecHdr) (ls : List Gather) :
    (s.selectSlot p ts m h ls).bytes = s.bytes := by
  unfold State.selectSlot
  dsimp only
  repeat' split
  all_goals simp

@[simp] theorem execAwlSelect_leavesBytes (p : Nat) (s : State) : LeavesBytes s (execAwlSelect p s) := by
  unfold execAwlSelect
  split <;> simp
  split <;> simp

@[simp] theorem State.draftUsed_bytes (s : State) (bs : List (LogitEnt × Nat × EngResv)) : (s.draftUsed bs).bytes = s.bytes := by
  simp [State.draftUsed]

@[simp] theorem State.draftAtPos_bytes (s : State) (p h pos : Nat) (vec : List Block) : (s.draftAtPos p h pos vec).bytes = s.bytes := by
  simp [State.draftAtPos]

@[simp] theorem State.draftGot_bytes (s : State) (p h q : Nat) (logits : List (Nat × Option F32)) (vec : List Block) :
    (s.draftGot p h q logits vec).bytes = s.bytes := by simp [State.draftGot]

@[simp] theorem execDraftRound_leavesBytes (p handle : Nat) (vec : List Block) (s : State) : LeavesBytes s (execDraftRound p handle vec s) := by
  unfold execDraftRound
  repeat' split
  all_goals simp

@[simp] theorem execDraftRecord_leavesBytes (port girth epoch : Nat) (dr : DraftRec) (s : State) :
    LeavesBytes s (execDraftRecord port girth epoch dr s) := by
  unfold execDraftRecord
  split <;> simp

@[simp] theorem execLogitBiasSet_leavesBytes (b : Nat) (h : HostMem) (s : State) : LeavesBytes s (execLogitBiasSet b h s) := by
  simp [execLogitBiasSet]

/-! ### The girth, the halter and the links -/

@[simp] theorem execGirthSet_leavesBytes (b : Nat) (h : HostMem) (s : State) : LeavesBytes s (execGirthSet b h s) := by
  refine command_leavesBytes (fun src w s => ?_) _ _ s
  dsimp only
  split
  · simp
  · split <;> simp

@[simp] theorem execGirthStart_leavesBytes (b : Nat) (s : State) : LeavesBytes s (execGirthStart b s) := by simp [execGirthStart]

@[simp] theorem State.failRound_bytes (s : State) (p gpos : Nat) : (s.failRound p gpos).bytes = s.bytes := by
  unfold State.failRound
  dsimp only
  split <;> simp

@[simp] theorem State.sendBounds_bytes (s : State) (p b : Nat) : (s.sendBounds p b).bytes = s.bytes := by
  unfold State.sendBounds
  split <;> simp

@[simp] theorem State.reportFigures_bytes (s : State) (p : Nat) (r : Record) : (s.reportFigures p r).bytes = s.bytes := by simp [State.reportFigures]

@[simp] theorem State.gather_bytes (s : State) (p : Nat) (r : Record) (slots resPos resCount : Nat) (ok : Bool) (gpos : Nat)
    (boots : List (Nat × Nat)) : (s.gather p r slots resPos resCount ok gpos boots).bytes = s.bytes := by simp [State.gather]

@[simp] theorem execStartRoundFigures_leavesBytes (p step : Nat) (stages : List Figures) (slots resPos resCount hret : Nat) (ok : Bool) (gpos : Nat)
    (boots : List (Nat × Nat)) (s : State) : LeavesBytes s (execStartRoundFigures p step stages slots resPos resCount hret ok gpos boots s) := by
  unfold execStartRoundFigures
  dsimp only
  repeat' split
  all_goals simp

@[simp] theorem execStartRoundTimeout_leavesBytes (p : Nat) (s : State) : LeavesBytes s (execStartRoundTimeout p s) := by
  unfold execStartRoundTimeout
  split <;> simp

@[simp] theorem execGirthGo_leavesBytes (p tGap : Nat) (s : State) : LeavesBytes s (execGirthGo p tGap s) := by
  unfold execGirthGo
  dsimp only
  repeat' split
  all_goals simp

@[simp] theorem State.endClaims_bytes (s : State) (p status : Nat) : (s.endClaims p status).bytes = s.bytes := by simp [State.endClaims]

@[simp] theorem State.stopGirth_bytes (s : State) (p void : Nat) (failed : Bool) (status : Nat) :
    (s.stopGirth p void failed status).bytes = s.bytes := by simp [State.stopGirth]

@[simp] theorem State.stopMember_bytes (s : State) (p : Nat) : (s.stopMember p).bytes = s.bytes := by simp [State.stopMember]
@[simp] theorem State.replyStops_bytes (s : State) (p : Nat) : (s.replyStops p).bytes = s.bytes := by simp [State.replyStops]
@[simp] theorem State.stopDone_bytes (s : State) (p : Nat) : (s.stopDone p).bytes = s.bytes := by simp [State.stopDone]
@[simp] theorem State.stopSeen_bytes (s : State) (p : Nat) : (s.stopSeen p).bytes = s.bytes := by simp [State.stopSeen]

@[simp] theorem girthStopCmd_bytes (src : CmdSrc) (w : List Nat) (s : State) : (girthStopCmd src w s).bytes = s.bytes := by
  unfold girthStopCmd
  dsimp only
  split <;> simp

@[simp] theorem execGirthStop_leavesBytes (b : Nat) (s : State) : LeavesBytes s (execGirthStop b s) := by simp [execGirthStop]

@[simp] theorem execStop_leavesBytes (p : Nat) (up : Bool) (k : StopKind) (s : State) : LeavesBytes s (execStop p up k s) := by
  unfold execStop
  repeat' split
  all_goals simp

@[simp] theorem State.girthRestart_bytes (s : State) (p : Nat) : (s.girthRestart p).bytes = s.bytes := by simp [State.girthRestart]
@[simp] theorem State.abandonStep_bytes (s : State) (h : Nat) : (s.abandonStep h).bytes = s.bytes := State.bytes_update ..
@[simp] theorem State.haltUnits_bytes (s : State) (p : Nat) : (s.haltUnits p).bytes = s.bytes := by simp [State.haltUnits]
@[simp] theorem State.haltFlush_bytes (s : State) (p : Nat) : (s.haltFlush p).bytes = s.bytes := by simp [State.haltFlush]
@[simp] theorem State.setHalt_bytes (s : State) (p : Nat) (v : Bool) : (s.setHalt p v).bytes = s.bytes := by simp [State.setHalt]
@[simp] theorem State.holdClaims_bytes (s : State) (p : Nat) : (s.holdClaims p).bytes = s.bytes := by simp [State.holdClaims]
@[simp] theorem State.runCheck_bytes (s : State) (p : Nat) : (s.runCheck p).bytes = s.bytes := by simp [State.runCheck]
@[simp] theorem State.enterHold_bytes (s : State) (p : Nat) (from? : Option Nat) : (s.enterHold p from?).bytes = s.bytes := by simp [State.enterHold]
@[simp] theorem State.voidAll_bytes (s : State) (p : Nat) : (s.voidAll p).bytes = s.bytes := by simp [State.voidAll]
@[simp] theorem State.holdEnd_bytes (s : State) (p h : Nat) : (s.holdEnd p h).bytes = s.bytes := by simp [State.holdEnd]

@[simp] theorem execHoldDeadline_leavesBytes (p handle : Nat) (s : State) : LeavesBytes s (execHoldDeadline p handle s) := by
  unfold execHoldDeadline
  split <;> simp

@[simp] theorem execPeerDown_leavesBytes (p gpos : Nat) (s : State) : LeavesBytes s (execPeerDown p gpos s) := by simp [execPeerDown]
@[simp] theorem State.linkBack_bytes (s : State) (p gpos : Nat) : (s.linkBack p gpos).bytes = s.bytes := by simp [State.linkBack]
@[simp] theorem execLinkUp_leavesBytes (p gpos : Nat) (s : State) : LeavesBytes s (execLinkUp p gpos s) := by simp [execLinkUp]
@[simp] theorem execFlush_leavesBytes (p : Nat) (s : State) : LeavesBytes s (execFlush p s) := by simp [execFlush]

@[simp] theorem State.resume_bytes (s : State) (p : Nat) : (s.resume p).bytes = s.bytes := by
  unfold State.resume
  dsimp only
  split <;> simp

@[simp] theorem execReleaseHalt_leavesBytes (p epoch : Nat) (s : State) : LeavesBytes s (execReleaseHalt p epoch s) := by simp [execReleaseHalt]

@[simp] theorem execRestart_leavesBytes (p gpos epoch : Nat) (chipReset : Bool) (s : State) :
    LeavesBytes s (execRestart p gpos epoch chipReset s) := by simp [execRestart]

@[simp] theorem execBeatReturnTimeout_leavesBytes (p : Nat) (s : State) : LeavesBytes s (execBeatReturnTimeout p s) := by simp [execBeatReturnTimeout]

@[simp] theorem execHalterTimeout_leavesBytes (p : Nat) (s : State) : LeavesBytes s (execHalterTimeout p s) := by
  unfold execHalterTimeout
  dsimp only
  split <;> simp

@[simp] theorem execGrant_leavesBytes (p port dbuf epoch : Nat) (s : State) : LeavesBytes s (execGrant p port dbuf epoch s) := by simp [execGrant]

@[simp] theorem State.peerMessage_bytes (s : State) (p gpos : Nat) (m : PeerMsg) : (s.peerMessage p gpos m).bytes = s.bytes := by
  unfold State.peerMessage
  split <;> simp

@[simp] theorem execPeerMbx_leavesBytes (gpos dst p : Nat) (m : PeerMsg) (s : State) : LeavesBytes s (execPeerMbx gpos dst p m s) := by
  unfold execPeerMbx
  split <;> simp

@[simp] theorem execMbxNak_leavesBytes (p : Nat) (m : PeerMsg) (s : State) : LeavesBytes s (execMbxNak p m s) := by simp [execMbxNak]

@[simp] theorem execThermalStop_leavesBytes (p gpos : Nat) (drain : Bool) (s : State) : LeavesBytes s (execThermalStop p gpos drain s) := by
  simp [execThermalStop]

@[simp] theorem execThermalDrainTimeout_leavesBytes (p : Nat) (s : State) : LeavesBytes s (execThermalDrainTimeout p s) := by
  unfold execThermalDrainTimeout
  split <;> simp

@[simp] theorem State.beatMessage_bytes (s : State) (p n : Nat) (e : Ingress) (hdr : VecHdr) (port ledger : Nat) :
    (s.beatMessage p n e hdr port ledger).bytes = s.bytes := by
  unfold State.beatMessage
  dsimp only
  split <;> simp

@[simp] theorem State.ingressDeliver_bytes (s : State) (p i port group dbuf : Nat) (hdr : VecHdr) (body : Payload) :
    (s.ingressDeliver p i port group dbuf hdr body).bytes = s.bytes := by
  unfold State.ingressDeliver
  dsimp only
  repeat' split
  all_goals simp

@[simp] theorem State.ingressTake_bytes (s : State) (p i port girth : Nat) (ts : TableSet) (e : Ingress) (hdr : VecHdr) (body : Payload) :
    (s.ingressTake p i port girth ts e hdr body).bytes = s.bytes := by simp [State.ingressTake]

@[simp] theorem State.releaseIngress_bytes (s : State) (p : Nat) : (s.releaseIngress p).bytes = s.bytes := by
  unfold State.releaseIngress
  dsimp only
  split
  · rfl
  · split
    · split
      · simp
      · refine (State.foldl_bytes (fun s x => ?_) _ _).trans (State.setPart_bytes ..)
        split <;> simp
    · simp

@[simp] theorem execIngressMessage_leavesBytes (port girth dbuf epoch : Nat) (hdr : VecHdr) (body : Payload) (s : State) :
    LeavesBytes s (execIngressMessage port girth dbuf epoch hdr body s) := by
  unfold execIngressMessage
  dsimp only
  repeat' split
  all_goals simp

@[simp] theorem execReadyMark_leavesBytes (port girth epoch : Nat) (s : State) : LeavesBytes s (execReadyMark port girth epoch s) := by
  simp [execReadyMark]

@[simp] theorem State.portDown_bytes (s : State) (port : Nat) : (s.portDown port).bytes = s.bytes := by simp [State.portDown]

@[simp] theorem State.declareLoss_bytes (s : State) (port p : Nat) : (s.declareLoss port p).bytes = s.bytes := by
  unfold State.declareLoss
  repeat' split
  all_goals simp

@[simp] theorem execLinkDown_leavesBytes (p : Nat) (s : State) : LeavesBytes s (execLinkDown p s) := by simp [execLinkDown]
@[simp] theorem execLossOfSignal_leavesBytes (p lane : Nat) (s : State) : LeavesBytes s (execLossOfSignal p lane s) := by simp [execLossOfSignal]
@[simp] theorem execAckTimeout_leavesBytes (p : Nat) (s : State) : LeavesBytes s (execAckTimeout p s) := by simp [execAckTimeout]

@[simp] theorem execLwTrainingDone_leavesBytes (p : Nat) (result : Option Nat) (peerKeyId : Nat) (s : State) :
    LeavesBytes s (execLwTrainingDone p result peerKeyId s) := by
  unfold execLwTrainingDone
  split <;> simp

@[simp] theorem execLinkKeyUpdate_leavesBytes (p : Nat) (tx : Bool) (s : State) : LeavesBytes s (execLinkKeyUpdate p tx s) := by
  simp [execLinkKeyUpdate]

@[simp] theorem execHelloSend_leavesBytes (p : Nat) (s : State) : LeavesBytes s (execHelloSend p s) := by simp [execHelloSend]

@[simp] theorem State.helloPass_bytes (s : State) (port p : Nat) (r : Record) : (s.helloPass port p r).bytes = s.bytes := by
  unfold State.helloPass
  dsimp only
  repeat' split
  all_goals simp

@[simp] theorem State.helloJudge_bytes (s : State) (port p : Nat) (h : Hello) (rt : Option Nat) : (s.helloJudge port p h rt).bytes = s.bytes := by
  unfold State.helloJudge
  repeat' split
  all_goals simp

@[simp] theorem execHelloReceive_leavesBytes (p : Nat) (hello : Hello) (rtt : Nat) (s : State) : LeavesBytes s (execHelloReceive p hello rtt s) := by
  simp [execHelloReceive]

@[simp] theorem State.askResend_bytes (s : State) (p : Nat) : (s.askResend p).bytes = s.bytes := by simp [State.askResend]
@[simp] theorem State.ackTo_bytes (s : State) (p ack : Nat) : (s.ackTo p ack).bytes = s.bytes := by simp [State.ackTo]
@[simp] theorem State.nakOn_bytes (s : State) (p ack : Nat) : (s.nakOn p ack).bytes = s.bytes := by simp [State.nakOn]
@[simp] theorem execNakReceive_leavesBytes (p ack : Nat) (s : State) : LeavesBytes s (execNakReceive p ack s) := by simp [execNakReceive]
@[simp] theorem State.takeFlit_bytes (s : State) (p : Nat) (f : Flit) : (s.takeFlit p f).bytes = s.bytes := by simp [State.takeFlit]
@[simp] theorem execFlitReceive_leavesBytes (p : Nat) (f : Flit) (s : State) : LeavesBytes s (execFlitReceive p f s) := by simp [execFlitReceive]
@[simp] theorem State.quadDown_bytes (s : State) (first : Nat) : (s.quadDown first).bytes = s.bytes := by simp [State.quadDown]

@[simp] theorem execRefclkLost_leavesBytes (k : RefClk) (s : State) : LeavesBytes s (execRefclkLost k s) := by
  unfold execRefclkLost
  repeat' split
  all_goals simp

@[simp] theorem execRefclkRestored_leavesBytes (k : RefClk) (s : State) : LeavesBytes s (execRefclkRestored k s) := by
  unfold execRefclkRestored
  split <;> simp

/-! ### Rings, start-up, mailboxes and registers -/

@[simp] theorem State.ringErr_bytes (s : State) (b i : Nat) : (s.ringErr b i).bytes = s.bytes := by simp [State.ringErr]

@[simp] theorem execCommandFetch_leavesBytes (b : Nat) (h : HostMem) (err : Bool) (s : State) : LeavesBytes s (execCommandFetch b h err s) := by
  simp [execCommandFetch]

@[simp] theorem execUnsupportedOpcode_leavesBytes (b : Nat) (s : State) : LeavesBytes s (execUnsupportedOpcode b s) := by
  unfold execUnsupportedOpcode
  repeat' split
  all_goals simp

@[simp] theorem State.cqWritten_bytes (s : State) (b : Nat) : (s.cqWritten b).bytes = s.bytes := by simp [State.cqWritten]
@[simp] theorem State.tqWritten_bytes (s : State) (p : Nat) : (s.tqWritten p).bytes = s.bytes := by simp [State.tqWritten]

@[simp] theorem execMsixRaise_leavesBytes (v : Nat) (s : State) : LeavesBytes s (execMsixRaise v s) := by
  unfold execMsixRaise
  repeat' split
  all_goals simp

@[simp] theorem State.missStep_bytes (s : State) (p : Nat) (r : TokRec) (q : List TokRec) : (s.missStep p r q).bytes = s.bytes := by
  unfold State.missStep
  split <;> simp

@[simp] theorem State.startTiles_bytes (s : State) (p : Nat) : (s.startTiles p).bytes = s.bytes := by simp [State.startTiles]

@[simp] theorem execPartitionSet_leavesBytes (b : Nat) (h : HostMem) (s : State) : LeavesBytes s (execPartitionSet b h s) := by
  refine command_leavesBytes (fun src w s => ?_) _ _ s
  dsimp only
  repeat' split
  all_goals simp

@[simp] theorem State.setCap_bytes (s : State) (w : List Nat) : (s.setCap w).bytes = s.bytes := by simp [State.setCap]
@[simp] theorem State.releaseCaps_bytes (s : State) : s.releaseCaps.bytes = s.bytes := by simp [State.releaseCaps]
@[simp] theorem execPowerCapSet_leavesBytes (b : Nat) (s : State) : LeavesBytes s (execPowerCapSet b s) := by simp [execPowerCapSet]

@[simp] theorem State.releaseSwap_bytes (s : State) (p : Nat) : (s.releaseSwap p).bytes = s.bytes := by
  unfold State.releaseSwap
  dsimp only
  split <;> simp

@[simp] theorem State.passTick_bytes (s : State) : s.passTick.bytes = s.bytes := by simp [State.passTick]
@[simp] theorem State.bootId_bytes (s : State) (f : BootFound) : (s.bootId f).bytes = s.bytes := by simp [State.bootId]

@[simp] theorem State.bootFirmware_bytes (s : State) (f : BootFound) : (s.bootFirmware f).bytes = s.bytes := by
  unfold State.bootFirmware
  split <;> simp
  split <;> simp

@[simp] theorem State.newDevKeys_bytes (s : State) : s.newDevKeys.bytes = s.bytes := State.bytes_update ..
@[simp] theorem State.startClocks_bytes (s : State) : s.startClocks.bytes = s.bytes := State.bytes_update ..
@[simp] theorem State.startUp_bytes (s : State) (f : BootFound) : (s.startUp f).bytes = s.bytes := by simp [State.startUp]

@[simp] theorem execMainRailsValid_leavesBytes (found : BootFound) (s : State) : LeavesBytes s (execMainRailsValid found s) := by
  simp [execMainRailsValid]

@[simp] theorem execCxlTrain_leavesBytes (width gts : Nat) (s : State) : LeavesBytes s (execCxlTrain width gts s) := by simp [execCxlTrain]
@[simp] theorem State.answerLost_bytes (s : State) : s.answerLost.bytes = s.bytes := by simp [State.answerLost]
@[simp] theorem execStartupReady_leavesBytes (s : State) : LeavesBytes s (execStartupReady s) := by simp [execStartupReady]
@[simp] theorem State.chipGirth_bytes (s : State) (p : Nat) : (s.chipGirth p).bytes = s.bytes := by simp [State.chipGirth]

@[simp] theorem State.logAccess_bytes (s : State) (offset size cause : Nat) (wr : Bool) : (s.logAccess offset size cause wr).bytes = s.bytes := by
  simp [State.logAccess]

@[simp] theorem State.teeRefuse_bytes (s : State) (off : Nat) : (s.teeRefuse off).bytes = s.bytes := by simp [State.teeRefuse]
@[simp] theorem State.touch_bytes (s : State) (off : Nat) : (s.touch off).bytes = s.bytes := by simp [State.touch]

/-- A register write leaves the byte memories where what it does at its register does. -/
@[simp] theorem State.onWrite_bytes {f : State → State} (h : ∀ s, (f s).bytes = s.bytes) (s : State) (off size : Nat) (trusted : Bool) :
    (s.onWrite off size trusted f).bytes = s.bytes := by
  unfold State.onWrite
  split
  · rfl
  · dsimp only
    split
    · simp
    · split <;> simp [h]

@[simp] theorem execAccessErr_leavesBytes (offset size : Nat) (write trusted : Bool) (s : State) :
    LeavesBytes s (execAccessErr offset size write trusted s) := by
  unfold execAccessErr
  split <;> simp
  split <;> simp

@[simp] theorem State.enableRing_bytes (s : State) (b : Nat) : (s.enableRing b).bytes = s.bytes := by simp [State.enableRing]
@[simp] theorem State.disableRing_bytes (s : State) (b : Nat) : (s.disableRing b).bytes = s.bytes := by simp [State.disableRing]

@[simp] theorem execRingEnable_leavesBytes (b : Nat) (trusted : Bool) (s : State) : LeavesBytes s (execRingEnable b trusted s) := by
  simp [execRingEnable]

@[simp] theorem execRingDisable_leavesBytes (b : Nat) (trusted : Bool) (s : State) : LeavesBytes s (execRingDisable b trusted s) := by
  simp [execRingDisable]

@[simp] theorem State.sqDoorbell_bytes (s : State) (b v : Nat) : (s.sqDoorbell b v).bytes = s.bytes := by simp [State.sqDoorbell]
@[simp] theorem State.cqDoorbell_bytes (s : State) (b v : Nat) : (s.cqDoorbell b v).bytes = s.bytes := by simp [State.cqDoorbell]
@[simp] theorem State.tqDoorbell_bytes (s : State) (b v : Nat) : (s.tqDoorbell b v).bytes = s.bytes := by simp [State.tqDoorbell]
@[simp] theorem execSqDb_leavesBytes (b value : Nat) (trusted : Bool) (s : State) : LeavesBytes s (execSqDb b value trusted s) := by simp [execSqDb]
@[simp] theorem execCqDb_leavesBytes (b value : Nat) (trusted : Bool) (s : State) : LeavesBytes s (execCqDb b value trusted s) := by simp [execCqDb]
@[simp] theorem execTqDb_leavesBytes (b value : Nat) (trusted : Bool) (s : State) : LeavesBytes s (execTqDb b value trusted s) := by simp [execTqDb]
@[simp] theorem State.mbxSend_bytes (s : State) (m : Nat) : (s.mbxSend m).bytes = s.bytes := by simp [State.mbxSend]
@[simp] theorem State.mbxWithdraw_bytes (s : State) (m : Nat) : (s.mbxWithdraw m).bytes = s.bytes := State.bytes_update ..
@[simp] theorem execMbxSend_leavesBytes (m : Nat) (trusted : Bool) (s : State) : LeavesBytes s (execMbxSend m trusted s) := by simp [execMbxSend]

@[simp] theorem execMbxWithdraw_leavesBytes (m : Nat) (trusted : Bool) (s : State) : LeavesBytes s (execMbxWithdraw m trusted s) := by
  simp [execMbxWithdraw]

@[simp] theorem execMbxTake_leavesBytes (m : Nat) (trusted : Bool) (s : State) : LeavesBytes s (execMbxTake m trusted s) := by
  unfold execMbxTake
  split <;> simp
  split <;> simp

@[simp] theorem execMbxTimeout_leavesBytes (m : Nat) (s : State) : LeavesBytes s (execMbxTimeout m s) := by simp [execMbxTimeout]

@[simp] theorem execOnDieMbxWrite_leavesBytes (c : Nat) (toSaddler : Bool) (words : List Nat) (s : State) :
    LeavesBytes s (execOnDieMbxWrite c toSaddler words s) := by simp [execOnDieMbxWrite]

@[simp] theorem State.portEnable_bytes (s : State) (p : Nat) (on : Bool) : (s.portEnable p on).bytes = s.bytes := by simp [State.portEnable]
@[simp] theorem State.portRetrain_bytes (s : State) (p : Nat) : (s.portRetrain p).bytes = s.bytes := by simp [State.portRetrain]

@[simp] theorem execLwRetrain_leavesBytes (p : Nat) (trusted : Bool) (s : State) : LeavesBytes s (execLwRetrain p trusted s) := by
  simp [execLwRetrain]

@[simp] theorem execLwEnable_leavesBytes (p : Nat) (on trusted : Bool) (s : State) : LeavesBytes s (execLwEnable p on trusted s) := by
  simp [execLwEnable]

@[simp] theorem State.writeHkCtrl_bytes (s : State) (v : Nat) : (s.writeHkCtrl v).bytes = s.bytes := State.bytes_update ..

@[simp] theorem execPeriodWrite_leavesBytes (value : Nat) (trusted : Bool) (s : State) : LeavesBytes s (execPeriodWrite value trusted s) := by
  simp [execPeriodWrite]

@[simp] theorem State.inject_bytes (s : State) (array column : Nat) (keep proof ce : Bool) :
    (s.inject array column keep proof ce).bytes = s.bytes := by simp [State.inject]

@[simp] theorem execInjectKeep_leavesBytes (array column : Nat) (trusted : Bool) (s : State) :
    LeavesBytes s (execInjectKeep array column trusted s) := by simp [execInjectKeep]

@[simp] theorem execInjectProof_leavesBytes (array column : Nat) (trusted : Bool) (s : State) :
    LeavesBytes s (execInjectProof array column trusted s) := by simp [execInjectProof]

@[simp] theorem execInjectCe_leavesBytes (array column : Nat) (trusted : Bool) (s : State) : LeavesBytes s (execInjectCe array column trusted s) := by
  simp [execInjectCe]

@[simp] theorem State.writeRing_bytes (s : State) (b o v : Nat) : (s.writeRing b o v).bytes = s.bytes := by
  unfold State.writeRing
  split <;> simp

@[simp] theorem State.writeMbx_bytes (s : State) (m o v : Nat) : (s.writeMbx m o v).bytes = s.bytes := by simp [State.writeMbx]
@[simp] theorem State.writeTherm_bytes (s : State) (v : Nat) : (s.writeTherm v).bytes = s.bytes := by simp [State.writeTherm]
@[simp] theorem State.writeCal_bytes (s : State) (v : Nat) : (s.writeCal v).bytes = s.bytes := State.bytes_update ..

@[simp] theorem State.writePort_bytes (s : State) (p o v : Nat) : (s.writePort p o v).bytes = s.bytes := by
  unfold State.writePort
  split <;> simp

@[simp] theorem State.plainRead_bytes (s : State) (offset : Nat) : (s.plainRead offset).bytes = s.bytes := by
  unfold State.plainRead
  split <;> simp
  split <;> simp

@[simp] theorem execRcRead_leavesBytes (offset : Nat) (trusted : Bool) (s : State) : LeavesBytes s (execRcRead offset trusted s) := by
  simp [execRcRead]

@[simp] theorem execJtagInstruction_leavesBytes (ir : Nat) (s : State) : LeavesBytes s (execJtagInstruction ir s) := by
  unfold execJtagInstruction
  split <;> simp

/-! ### Weights, tables, swaps and maintenance -/

theorem State.writeRecord_bytes {s u : State} {flashOk : Bool} (h : s.writeRecord flashOk = some u) : u.bytes = s.bytes := by
  obtain ⟨-, h⟩ := Option.ite_none_left_eq_some.1 h
  cases h
  simp

@[simp] theorem loadShardCmd_bytes (h : HostMem) (src : CmdSrc) (w : List Nat) (s : State) : (loadShardCmd h src w s).bytes = s.bytes := by
  simp [loadShardCmd]

@[simp] theorem execLoadShard_leavesBytes (b : Nat) (h : HostMem) (s : State) : LeavesBytes s (execLoadShard b h s) := by simp [execLoadShard]
@[simp] theorem State.writeMaps_bytes (s : State) (p : Nat) (w : Weights) : (s.writeMaps p w).bytes = s.bytes := by simp [State.writeMaps]

@[simp] theorem State.writeStack_bytes (s : State) (p : Nat) (rows : Tbl (Tbl Nat)) : (s.writeStack p rows).bytes = s.bytes := by
  simp [State.writeStack]

@[simp] theorem State.programAll_bytes (s : State) (bad : Faulty) (as : List Nat) : (s.programAll bad as).1.bytes = s.bytes := by
  induction as generalizing s with
  | nil => rfl
  | cons a as ih => simp [State.programAll, ih]

@[simp] theorem State.freshSums_bytes (s : State) (as : List Nat) : (s.freshSums as).bytes = s.bytes := by simp [State.freshSums]
@[simp] theorem State.freeShards_bytes (s : State) (ms : List MatrixEnt) : (s.freeShards ms).bytes = s.bytes := State.bytes_update ..

@[simp] theorem State.commit_bytes (s : State) (p : Nat) (x : Prepared) (bad : Faulty) (flashOk : Bool) (src : CmdSrc) (w : List Nat) :
    (s.commit p x bad flashOk src w).bytes = s.bytes := by
  unfold State.commit
  dsimp only
  split
  · simp
  · split
    next => simp
    next hu => simp [State.writeRecord_bytes hu]

@[simp] theorem loadCommitCmd_bytes (h : HostMem) (plan : Plan) (bad : Faulty) (flashOk : Bool) (src : CmdSrc) (w : List Nat) (s : State) :
    (loadCommitCmd h plan bad flashOk src w s).bytes = s.bytes := by
  unfold loadCommitCmd
  dsimp only
  repeat' split
  all_goals simp

@[simp] theorem execLoadCommit_leavesBytes (b : Nat) (h : HostMem) (plan : Plan) (bad : Faulty) (flashOk : Bool) (s : State) :
    LeavesBytes s (execLoadCommit b h plan bad flashOk s) := by simp [execLoadCommit]

@[simp] theorem State.install_bytes (s : State) (p : Nat) (ts : TableSet) : (s.install p ts).bytes = s.bytes := by simp [State.install]

@[simp] theorem tableLoadCmd_bytes (h : HostMem) (src : CmdSrc) (w : List Nat) (s : State) : (tableLoadCmd h src w s).bytes = s.bytes := by
  unfold tableLoadCmd
  dsimp only
  repeat' split
  all_goals simp

@[simp] theorem execTableLoad_leavesBytes (b : Nat) (h : HostMem) (s : State) : LeavesBytes s (execTableLoad b h s) := by simp [execTableLoad]

@[simp] theorem State.pommelSwap_bytes (s : State) (p : Nat) (sw : Swap) (src : CmdSrc) (w : List Nat) :
    (s.pommelSwap p sw src w).bytes = s.bytes := by simp [State.pommelSwap]

@[simp] theorem swapBeginCmd_bytes (h : HostMem) (us : Option Nat) (src : CmdSrc) (w : List Nat) (s : State) :
    (swapBeginCmd h us src w s).bytes = s.bytes := by
  unfold swapBeginCmd
  dsimp only
  repeat' split
  all_goals simp

@[simp] theorem execSwapBegin_leavesBytes (b : Nat) (h : HostMem) (us : Option Nat) (s : State) : LeavesBytes s (execSwapBegin b h us s) := by
  simp [execSwapBegin]

@[simp] theorem State.tryAll_bytes (s : State) (bad : Faulty) (as : List Nat) : (s.tryAll bad as).1.bytes = s.bytes := by
  induction as generalizing s with
  | nil => rfl
  | cons a as ih => simp [State.tryAll, ih]

@[simp] theorem State.swapLayer_bytes (s : State) (p : Nat) (sw : Swap) (ws : Weights) (layer : Nat) (bad : Faulty) (src : CmdSrc) (w : List Nat) :
    (s.swapLayer p sw ws layer bad src w).bytes = s.bytes := by simp [State.swapLayer]

@[simp] theorem execSwapLayer_leavesBytes (b : Nat) (bad : Faulty) (s : State) : LeavesBytes s (execSwapLayer b bad s) := by
  refine command_leavesBytes (fun src w s => ?_) _ _ s
  dsimp only
  repeat' split
  all_goals simp

theorem State.closeSwap_bytes {s u : State} {p : Nat} {sw : Swap} {flashOk : Bool} (h : s.closeSwap p sw flashOk = some u) : u.bytes = s.bytes := by
  obtain ⟨v, hv, rfl⟩ := Option.map_eq_some_iff.1 h
  simp [State.writeRecord_bytes hv]

@[simp] theorem execSwapEnd_leavesBytes (b : Nat) (flashOk : Bool) (s : State) : LeavesBytes s (execSwapEnd b flashOk s) := by
  refine command_leavesBytes (fun src w s => ?_) _ _ s
  dsimp only
  split
  · simp
  · split
    next => simp
    next hu => simp [State.closeSwap_bytes hu]

@[simp] theorem inlayLoadCmd_bytes (h : HostMem) (src : CmdSrc) (w : List Nat) (s : State) : (inlayLoadCmd h src w s).bytes = s.bytes := by
  unfold inlayLoadCmd
  dsimp only
  repeat' split
  all_goals simp

@[simp] theorem execInlayLoad_leavesBytes (b : Nat) (h : HostMem) (s : State) : LeavesBytes s (execInlayLoad b h s) := by simp [execInlayLoad]
@[simp] theorem execInlayDrop_leavesBytes (b : Nat) (s : State) : LeavesBytes s (execInlayDrop b s) := by simp [execInlayDrop]
@[simp] theorem State.calWhole_bytes (s : State) (trims : List Trim) (a : Nat) : (s.calWhole trims a).bytes = s.bytes := by simp [State.calWhole]
@[simp] theorem State.payChunk_bytes (s : State) (a : Nat) : (s.payChunk a).bytes = s.bytes := State.bytes_update ..

@[simp] theorem State.takeArrays_bytes {run : State → Nat → State} (h : ∀ s a, (run s a).bytes = s.bytes) (as : List Nat) (s : State)
    (done found : Nat) : (State.takeArrays run as s done found).1.bytes = s.bytes := by
  induction as generalizing s done found with
  | nil => rfl
  | cons a as ih =>
    unfold State.takeArrays
    split
    · rfl
    · simp [ih, h]

@[simp] theorem State.overArrays_bytes {run : State → Nat → State} (h : ∀ s a, (run s a).bytes = s.bytes) (s : State) (src : CmdSrc)
    (w as : List Nat) (words : Nat → Nat → List Nat) : (s.overArrays src w run as words).bytes = s.bytes := by
  unfold State.overArrays
  split
  · rfl
  · dsimp only
    split <;> simp [State.takeArrays_bytes h]

@[simp] theorem execCalibrate_leavesBytes (b : Nat) (trims : List Trim) (s : State) : LeavesBytes s (execCalibrate b trims s) := by
  refine command_leavesBytes (fun src w s => ?_) _ _ s
  split <;> simp

@[simp] theorem checkCmd_bytes {run : State → Nat → State} (h : ∀ s a, (run s a).bytes = s.bytes) (ok : State → Nat → Bool) (src : CmdSrc)
    (w : List Nat) (s : State) : (checkCmd run ok src w s).bytes = s.bytes := by
  unfold checkCmd
  split
  · simp
  · split <;> simp [State.overArrays_bytes h]

@[simp] theorem State.proofOnce_bytes (err : Analog) (s : State) (a : Nat) : (s.proofOnce err a).bytes = s.bytes := by simp [State.proofOnce]
@[simp] theorem execProofRun_leavesBytes (b : Nat) (err : Analog) (s : State) : LeavesBytes s (execProofRun b err s) := by simp [execProofRun]
@[simp] theorem State.xcheckOnce_bytes (err : Analog) (s : State) (a : Nat) : (s.xcheckOnce err a).bytes = s.bytes := by simp [State.xcheckOnce]
@[simp] theorem execXcheckRun_leavesBytes (b : Nat) (err : Analog) (s : State) : LeavesBytes s (execXcheckRun b err s) := by simp [execXcheckRun]

@[simp] theorem State.assignPatch_bytes (s : State) (a p c : Nat) (bad : Faulty) : (s.assignPatch a p c bad).1.bytes = s.bytes := by
  unfold State.assignPatch
  dsimp only
  split
  · rfl
  · split <;> simp

@[simp] theorem State.releasePatch_bytes (s : State) (a p : Nat) : (s.releasePatch a p).bytes = s.bytes := by simp [State.releasePatch]

@[simp] theorem State.restoreArray_bytes (s : State) (a : Nat) (bad : Faulty) : (s.restoreArray a bad).1.bytes = s.bytes := by
  unfold State.restoreArray
  dsimp only
  split
  next hu => rw [State.coverAll_bytes hu]; simp
  next => simp

@[simp] theorem execRepairMapEdit_leavesBytes (b : Nat) (bad : Faulty) (s : State) : LeavesBytes s (execRepairMapEdit b bad s) := by
  refine command_leavesBytes (fun src w s => ?_) _ _ s
  dsimp only
  repeat' split
  all_goals simp

@[simp] theorem State.eraseClusters_bytes (s : State) (mask : Nat) : (s.eraseClusters mask).bytes = s.bytes := State.bytes_update ..
@[simp] theorem State.residueCell_bytes (s : State) (a cell : Nat) : (s.residueCell a cell).bytes = s.bytes := by simp [State.residueCell]

@[simp] theorem weightsClearCmd_bytes (residue : List (Nat × Nat)) (flashOk : Bool) (src : CmdSrc) (w : List Nat) (s : State) :
    (weightsClearCmd residue flashOk src w s).bytes = s.bytes := by
  unfold weightsClearCmd
  dsimp only
  split
  · simp
  · split
    · simp
    · split
      · rfl
      · split
        next => simp
        next hu => simp [State.writeRecord_bytes hu]

@[simp] theorem execWeightsClear_leavesBytes (b : Nat) (residue : List (Nat × Nat)) (flashOk : Bool) (s : State) :
    LeavesBytes s (execWeightsClear b residue flashOk s) := by simp [execWeightsClear]

@[simp] theorem State.startCalibrated_bytes (s : State) : s.startCalibrated.bytes = s.bytes := by
  unfold State.startCalibrated
  split
  · rfl
  · dsimp only
    simp

@[simp] theorem State.findKeepers_bytes (s : State) (a : Nat) : (s.findKeepers a).bytes = s.bytes := by
  unfold State.findKeepers
  extract_lets sv off logical s1
  have found : s1.bytes = s.bytes := by
    refine State.foldl_bytes (fun u k => ?_) _ _
    extract_lets x kp
    generalize List.find? _ _ = o
    cases o with
    | none => simp
    | some m => simp
  rw [State.setArr_bytes, found]

@[simp] theorem State.readBack_bytes (s : State) (kept : Bool) (a : Nat) : (s.readBack kept a).bytes = s.bytes := by simp [State.readBack]

@[simp] theorem State.rebuildPart_bytes (s : State) (r : LayoutCopy) (plan : List (Nat × Plan)) (p : Nat) :
    (s.rebuildPart r plan p).bytes = s.bytes := by
  unfold State.rebuildPart
  split <;> simp

@[simp] theorem State.raiseStale_bytes (s : State) (es : List LayoutEnt) : (s.raiseStale es).bytes = s.bytes := by simp [State.raiseStale]

@[simp] theorem State.rebuildAll_bytes (s : State) (recordOk kept : Bool) (plan : List (Nat × Plan)) :
    (s.rebuildAll recordOk kept plan).bytes = s.bytes := by
  have recorded (u : State) (ok : Bool) : ((u.writeRecord ok).getD u).bytes = u.bytes := by
    cases hu : u.writeRecord ok with
    | none => rfl
    | some v => exact State.writeRecord_bytes hu
  simp [State.rebuildAll, recorded]

@[simp] theorem execRebuild_leavesBytes (drift : List (Nat × Nat × Nat)) (recordOk : Bool) (plan : List (Nat × Plan)) (s : State) :
    LeavesBytes s (execRebuild drift recordOk plan s) := by simp [execRebuild]

/-! ### Tenants, the SPDM responder and the management port -/

@[simp] theorem tenantBeginCmd_bytes (src : CmdSrc) (w : List Nat) (s : State) : (tenantBeginCmd src w s).bytes = s.bytes := by simp [tenantBeginCmd]
@[simp] theorem execTenantBegin_leavesBytes (b : Nat) (s : State) : LeavesBytes s (execTenantBegin b s) := by simp [execTenantBegin]

@[simp] theorem State.endOn_bytes (s : State) (p : Nat) (failed : Bool) (status : Nat) : (s.endOn p failed status).bytes = s.bytes := by
  have closed (u : State) (sw : Swap) : ((u.closeSwap p sw true).getD u).bytes = u.bytes := by
    cases hu : u.closeSwap p sw true with
    | none => rfl
    | some v => exact State.closeSwap_bytes hu
  unfold State.endOn
  dsimp only
  split <;> simp [closed]

@[simp] theorem State.endTenant_bytes (s : State) (cause : Nat) (failed : Bool) (status : Nat) (cmd : Option (CmdSrc × List Nat)) :
    (s.endTenant cause failed status cmd).bytes = s.bytes := by simp [State.endTenant]

@[simp] theorem tenantEndCmd_bytes (src : CmdSrc) (w : List Nat) (s : State) : (tenantEndCmd src w s).bytes = s.bytes := by simp [tenantEndCmd]
@[simp] theorem execTenantEnd_leavesBytes (b : Nat) (s : State) : LeavesBytes s (execTenantEnd b s) := by simp [execTenantEnd]

@[simp] theorem State.scrubOver_bytes (s : State) : s.scrubOver.bytes = s.bytes := by
  unfold State.scrubOver
  dsimp only
  split <;> simp

@[simp] theorem State.endTrusted_bytes (s : State) (cause : Nat) (failed : Bool) (status : Nat) :
    (s.endTrusted cause failed status).bytes = s.bytes := by simp [State.endTrusted]

@[simp] theorem execStopInterface_leavesBytes (s : State) : LeavesBytes s (execStopInterface s) := by simp [execStopInterface]
@[simp] theorem execTdispError_leavesBytes (cause : Nat) (s : State) : LeavesBytes s (execTdispError cause s) := by simp [execTdispError]
@[simp] theorem execTdiRun_leavesBytes (s : State) : LeavesBytes s (execTdiRun s) := by simp [execTdiRun]
@[simp] theorem State.doe_bytes (s : State) (code : Nat) (data : List Byte) : (s.doe code data).bytes = s.bytes := State.bytes_update ..

@[simp] theorem State.spdmAnswer_leavesBytes {f : State → State} (h : ∀ s, (f s).bytes = s.bytes) (s : State) (ok : Bool) :
    LeavesBytes s (s.spdmAnswer ok f) := by
  simp [State.spdmAnswer, State.doe, h]

@[simp] theorem execGetVersion_leavesBytes (s : State) : LeavesBytes s (execGetVersion s) := by simp [execGetVersion]
@[simp] theorem execGetCapabilities_leavesBytes (s : State) : LeavesBytes s (execGetCapabilities s) := by simp [execGetCapabilities]

@[simp] theorem execNegotiateAlgorithms_leavesBytes (algs : List Nat) (s : State) : LeavesBytes s (execNegotiateAlgorithms algs s) := by
  simp [execNegotiateAlgorithms]

@[simp] theorem execGetDigests_leavesBytes (slot : Nat) (s : State) : LeavesBytes s (execGetDigests slot s) := by simp [execGetDigests]

@[simp] theorem execGetCertificate_leavesBytes (slot offset length : Nat) (s : State) : LeavesBytes s (execGetCertificate slot offset length s) := by
  simp [execGetCertificate]

@[simp] theorem execChallenge_leavesBytes (nonce : Nat) (s : State) : LeavesBytes s (execChallenge nonce s) := by simp [execChallenge]

@[simp] theorem execGetMeasurements_leavesBytes (index : Nat) (signed : Bool) (s : State) : LeavesBytes s (execGetMeasurements index signed s) := by
  simp [execGetMeasurements]

@[simp] theorem execKeyExchange_leavesBytes (exchange : Nat) (s : State) : LeavesBytes s (execKeyExchange exchange s) := by simp [execKeyExchange]
@[simp] theorem execFinish_leavesBytes (verifyOk : Bool) (s : State) : LeavesBytes s (execFinish verifyOk s) := by simp [execFinish]
@[simp] theorem execKeyUpdate_leavesBytes (both : Bool) (s : State) : LeavesBytes s (execKeyUpdate both s) := by simp [execKeyUpdate]
@[simp] theorem execHeartbeat_leavesBytes (s : State) : LeavesBytes s (execHeartbeat s) := by simp [execHeartbeat]
@[simp] theorem execEndSession_leavesBytes (s : State) : LeavesBytes s (execEndSession s) := by simp [execEndSession]
@[simp] theorem execIdeKm_leavesBytes (stream : Nat) (s : State) : LeavesBytes s (execIdeKm stream s) := by simp [execIdeKm]
@[simp] theorem execFirmwareUpdate_leavesBytes (img : FwImage) (s : State) : LeavesBytes s (execFirmwareUpdate img s) := by simp [execFirmwareUpdate]
@[simp] theorem execGetEventRecords_leavesBytes (s : State) : LeavesBytes s (execGetEventRecords s) := by simp [execGetEventRecords]
@[simp] theorem execClearEventRecords_leavesBytes (s : State) : LeavesBytes s (execClearEventRecords s) := by simp [execClearEventRecords]
@[simp] theorem execCperRead_leavesBytes (count : Nat) (s : State) : LeavesBytes s (execCperRead count s) := by simp [execCperRead]
@[simp] theorem execMctpStatus_leavesBytes (s : State) : LeavesBytes s (execMctpStatus s) := by simp [execMctpStatus]
@[simp] theorem execTrngFail_leavesBytes (test : Nat) (s : State) : LeavesBytes s (execTrngFail test s) := by simp [execTrngFail]
@[simp] theorem execTrngHealthPass_leavesBytes (s : State) : LeavesBytes s (execTrngHealthPass s) := by simp [execTrngHealthPass]
@[simp] theorem execFunctionLevelReset_leavesBytes (s : State) : LeavesBytes s (execFunctionLevelReset s) := by simp [execFunctionLevelReset]

end Sys2Proof.Machine
end

section
/-!
PROOFS. Every step keeps the byte memories in their canonical forms (O58): the KV writes and the commits, the spill regions, the staging window, and
the resets that lose memories; and what a step is (O1).
-/

namespace Sys2Proof.Machine

open Sys2Proof

/-! ### Canonical forms -/

/-- Three byte memories in their canonical forms (`State.memOk`). -/
def Canonical (m : Memory × Memory × Memory) : Prop := Memory.wfZ m.1 = true ∧ Memory.wf m.2.1 = true ∧ Memory.wf m.2.2 = true

theorem State.memOk_iff (s : State) : s.memOk = true ↔ Canonical s.bytes := by
  simp [State.memOk, Canonical, State.bytes, and_assoc]

theorem canonical_nil : Canonical ([], [], []) := ⟨rfl, rfl, rfl⟩

theorem Memory.wf_del {m : Memory} (h : Memory.wf m = true) (a : Nat) : Memory.wf (del a m) = true := sortedKeys_del a m h

/-- A fold of updates that each keep the byte memories canonical keeps them so. -/
theorem State.foldl_canonical {α : Type} {f : State → α → State} (h : ∀ s a, Canonical s.bytes → Canonical (f s a).bytes) (l : List α)
    {s : State} (hs : Canonical s.bytes) : Canonical (l.foldl f s).bytes :=
  List.foldlRecOn (motive := fun u : State => Canonical u.bytes) l f hs (fun u hu a _ => h u a hu)

section
variable {s : State} (h : Canonical s.bytes)
include h

/-! ### The KV bytes -/

/-- New KV bytes in canonical form leave all three memories canonical. -/
theorem Canonical.setKv {k : Memory} (hk : Memory.wf k = true) {u : State} (hu : u.bytes = (s.spill, k, s.staging)) : Canonical u.bytes := by
  obtain ⟨hspill, -, hstaging⟩ := h
  rw [hu]
  exact ⟨hspill, hk, hstaging⟩

/-- A staging window in canonical form leaves all three memories canonical. -/
theorem Canonical.setStaging {m : Memory} (hm : Memory.wf m = true) {u : State} (hu : u.bytes = (s.spill, s.kv, m)) : Canonical u.bytes := by
  obtain ⟨hspill, hkv, -⟩ := h
  rw [hu]
  exact ⟨hspill, hkv, hm⟩

theorem State.unwriteKv_canonical (w : KvWr) : Canonical (s.unwriteKv w).bytes := by
  obtain ⟨-, hkv, -⟩ := id h
  unfold State.unwriteKv
  dsimp only
  split
  · refine h.setKv ?_ rfl
    refine List.foldlRecOn (motive := fun m : Memory => Memory.wf m = true) _ _ hkv (fun m hm x _ => ?_)
    split
    · exact Memory.wf_write _ _ _ hm
    · exact Memory.wf_del hm _
  · exact h

theorem State.kvArrive_canonical (n : Nat) (w : KvWr) (ue : Bool) : Canonical (s.kvArrive n w ue).bytes := by
  unfold State.kvArrive
  dsimp only
  split
  · simpa using h
  · split
    · rw [State.flitUe_bytes]
      exact State.unwriteKv_canonical (by simpa using h) w
    · simpa using h

theorem State.kvWrite_canonical (elem exp : Nat) (b : Block) : Canonical (s.kvWrite elem exp b).bytes := by
  obtain ⟨-, hkv, -⟩ := id h
  exact h.setKv (Memory.wf_write _ _ _ (Memory.wf_writeAll _ _ _ hkv)) rfl

theorem State.kvSend_canonical (p c handle layer pos elem exp : Nat) (b : Block) :
    Canonical (s.kvSend p c handle layer pos elem exp b).bytes := by
  simpa [State.kvSend] using State.kvWrite_canonical h elem exp b

theorem State.attnWrite_canonical (x : AttnIn) (region m : Nat) : Canonical (s.attnWrite x region m).bytes := by
  simp only [State.attnWrite, State.setCluster_bytes]
  exact State.foldl_canonical (fun _ _ hu => State.kvSend_canonical hu ..) _ h

theorem State.commitState_canonical (ts : TableSet) (c hd layer : Nat) : Canonical (s.commitState ts c hd layer).bytes := by
  unfold State.commitState
  split
  · exact State.foldl_canonical (fun _ _ hu => State.kvWrite_canonical hu ..) _ h
  · exact h

theorem State.restoreCells_canonical (hd : Nat) (cells : List Host.Cell) : Canonical (s.restoreCells hd cells).bytes := by
  obtain ⟨-, hkv, -⟩ := id h
  refine h.setKv ?_ rfl
  refine List.foldlRecOn (motive := fun m : Memory => Memory.wf m = true) _ _ hkv (fun m hm x _ => ?_)
  split
  · exact Memory.wf_write _ _ _ hm
  · exact hm

/-! ### Commits -/

theorem State.commitStates_canonical (p hd newL : Nat) : Canonical (s.commitStates p hd newL).bytes := by
  unfold State.commitStates
  split
  · exact h
  · refine State.foldl_canonical (fun u c hu => ?_) _ h
    extract_lets v cl mine v' cl'
    have dropped : Canonical v.bytes := by simpa [v] using hu
    have committed : Canonical v'.bytes := by
      refine State.foldl_canonical (fun u x hu => ?_) _ dropped
      split
      · exact State.commitState_canonical hu ..
      · exact hu
    split
    · simpa using committed
    · exact committed

theorem State.applyCommit_canonical (p hd newL : Nat) : Canonical (s.applyCommit p hd newL).bytes := by
  have committed := State.commitStates_canonical h p hd newL
  unfold State.applyCommit
  dsimp only
  split
  · simpa using committed
  · simpa using committed

theorem State.commitAt_canonical (p hd newL : Nat) : Canonical (s.commitAt p hd newL).bytes := by
  simpa [State.commitAt] using State.applyCommit_canonical h p hd newL

theorem State.discardStep_canonical (p hd : Nat) (failed : Bool) (status : Nat) : Canonical (s.discardStep p hd failed status).bytes := by
  simpa [State.discardStep] using State.commitAt_canonical h p hd _

theorem State.deliverStep_canonical (p : Nat) (v : VerdictMsg) : Canonical (s.deliverStep p v).bytes := by
  unfold State.deliverStep
  extract_lets hd i e x decode newL final s1 e1 k e2 e3 s2 x1 s3
  have committed : Canonical s1.bytes := State.commitAt_canonical h ..
  have counted : Canonical s3.bytes := by simpa [s3, s2] using committed
  split
  · simpa using counted
  · split
    · simpa using counted
    · exact counted

theorem State.checkCommit_canonical (p : Nat) (c : Nat × Nat × List Nat) : Canonical (s.checkCommit p c).bytes := by
  unfold State.checkCommit
  split
  · exact h
  · split
    · exact h
    · extract_lets i x s1 s2 e prompt
      have worn : Canonical s1.bytes := by
        unfold s1
        split
        · simpa using h
        · exact h
      have committed : Canonical s2.bytes := State.applyCommit_canonical worn ..
      split
      · simpa using committed
      · exact committed

/-! ### The spill regions -/

theorem State.spillStore_canonical (c a : Nat) (vs : List (Option F32)) : Canonical (State.spillStore s c a vs).bytes := by
  induction vs generalizing s a with
  | nil => exact h
  | cons v vs ih =>
    refine ih (a := a + 4) ?_
    obtain ⟨hspill, hkv, hstaging⟩ := h
    cases v with
    | none => exact ⟨Memory.wfZ_writeAllZ _ _ _ hspill, hkv, hstaging⟩
    | some x => exact ⟨Memory.wfZ_writeAllZ _ _ _ hspill, hkv, hstaging⟩

/-- A firing keeps the byte memories canonical where what it writes besides does. -/
theorem State.burnFire_canonical {g : State → BurnIn → List (Option F32) → State}
    (hg : ∀ s x vals, Canonical s.bytes → Canonical (g s x vals).bytes) (c op : Nat) (len n8out : BurnIn → Nat)
    (f : State → BurnIn → List (Option F32)) : Canonical (s.burnFire c op len n8out f g).bytes := by
  unfold State.burnFire
  split
  · exact h
  · dsimp only
    split
    · simpa using h
    · split
      · simpa using h
      · split <;> simpa using hg _ _ _ h

/-! ### The staging window -/

theorem State.writeMem_canonical (a : Nat) (data : List Byte) : Canonical (s.writeMem a data).bytes := by
  unfold State.writeMem
  split
  · exact h
  · split
    · simpa using h
    · extract_lets o s1
      have sent : Canonical s1.bytes := State.foldl_canonical (fun _ _ hu => by simpa using hu) _ h
      obtain ⟨-, -, hstaging⟩ := id sent
      exact sent.setStaging (Memory.wf_writeAll _ _ _ hstaging) rfl

theorem State.postRecord_canonical (p : Nat) (r : TokRec) (rest : List TokRec) (late : Bool) :
    Canonical (s.postRecord p r rest late).bytes := by
  unfold State.postRecord
  extract_lets k i braked w1 w2 t s1 x s2 s3 s4
  have taken : Canonical s2.bytes := by simpa [s2, s1] using h
  have posted : Canonical s4.bytes := by simpa [s4] using State.writeMem_canonical (State.writeMem_canonical taken _ _) _ _
  split
  · simpa using posted
  · exact posted

theorem queryCmd_canonical (src : CmdSrc) (w : List Nat) : Canonical (queryCmd src w s).bytes := by
  unfold queryCmd
  split
  · simpa using h
  · extract_lets hd x dest seed s1
    have written : Canonical s1.bytes := by
      unfold s1
      split
      · exact h
      · exact State.writeMem_canonical h ..
    split
    · simpa using h
    · split
      · simpa using h
      · simpa using written

theorem eventReadCmd_canonical (src : CmdSrc) (w : List Nat) : Canonical (eventReadCmd src w s).bytes := by
  unfold eventReadCmd
  dsimp only
  split
  · simpa using h
  · simpa using State.writeMem_canonical h _ _

theorem statusReadCmd_canonical (src : CmdSrc) (w : List Nat) : Canonical (statusReadCmd src w s).bytes := by
  unfold statusReadCmd
  split
  · simpa using h
  · dsimp only
    split
    · simpa using h
    · simpa using State.writeMem_canonical h _ _

/-! ### Resets -/

theorem State.loseStacks_canonical : Canonical s.loseStacks.bytes := by
  obtain ⟨hspill, hkv, -⟩ := h
  exact ⟨hspill, Memory.wf_filter _ _ hkv, rfl⟩

theorem State.chipReset_canonical (cause loc : Nat) (f : BootFound) : Canonical (s.chipReset cause loc f).bytes := by
  unfold State.chipReset
  extract_lets s1 phase s2 s3 s4 s5 s6 ticks ticks' host ev pwr sec s7 n host' store s8 s9 s10 sec' s11 pwr'
  have stopped : Canonical s5.bytes := by simpa [s5, s4, s3, s2, s1] using h
  have lost : Canonical s7.bytes := by simpa [s7] using State.loseStacks_canonical stopped
  have booted : Canonical s9.bytes := by simpa [s9, s8] using lost
  have clocked : Canonical s11.bytes := by unfold s11; split <;> simpa [s10] using booted
  split
  · exact lost
  · split
    · exact booted
    · simpa using clocked

end

@[simp] theorem State.bare_bytes (s : State) : s.bare.bytes = ([], [], []) := rfl

@[simp] theorem State.warmed_bytes (s : State) (last : Nat) : (s.warmed last).bytes = ([], [], []) := rfl

theorem State.askDormant_canonical {s : State} (h : Canonical s.bytes) : Canonical s.askDormant.bytes := by
  unfold State.askDormant
  split
  · simpa using h
  · exact canonical_nil

theorem State.writePwr_canonical {s : State} (h : Canonical s.bytes) (o v : Nat) : Canonical (s.writePwr o v).bytes := by
  unfold State.writePwr
  split
  · extract_lets s1 q s2
    have left : Canonical s1.bytes := by
      unfold s1
      split
      · exact h
      · simpa using h
    have restSet : Canonical s2.bytes := by simpa [s2] using left
    split
    · exact State.askDormant_canonical restSet
    · exact restSet
  · dsimp only
    split
    · simpa using h
    · exact h
  · simpa using h
  · exact h

/-! ### The commands that write a byte memory or lose one -/

/-- A command that ends in a next state keeps the byte memories canonical. -/
def KeepsCanonical (s : State) (r : Result) : Prop := Canonical s.bytes → ∀ t, r = .next t → Canonical t.bytes

theorem LeavesBytes.keepsCanonical {s : State} {r : Result} (h : LeavesBytes s r) : KeepsCanonical s r :=
  fun hs t ht => by rwa [h t ht]

theorem keepsCanonical_next {s t : State} (h : Canonical s.bytes → Canonical t.bytes) : KeepsCanonical s (.next t) := by
  rintro hs _ ⟨⟩
  exact h hs

theorem keepsCanonical_guardUnit {s t : State} {ok : Bool} (h : Canonical s.bytes → Canonical t.bytes) : KeepsCanonical s (guardUnit ok t) := by
  intro hs u hu
  obtain ⟨-, rfl⟩ := guardUnit_next.1 hu
  exact h hs

/-- A command keeps the byte memories canonical where its effect does. -/
theorem command_keepsCanonical {f : CmdEffect} (hf : ∀ src w s, Canonical s.bytes → Canonical (f src w s).bytes) (b op : Nat) (s : State) :
    KeepsCanonical s (command b op f s) := by
  refine keepsCanonical_guardUnit fun h => ?_
  split
  · exact h
  · split
    · exact h
    · split
      · simpa using h
      · dsimp only
        split
        · exact hf _ _ _ h
        · simpa using hf _ _ _ h

/-- A register write keeps the byte memories canonical where what it does at its register does. -/
theorem State.onWrite_canonical {f : State → State} (hf : ∀ s, Canonical s.bytes → Canonical (f s).bytes) {s : State}
    (h : Canonical s.bytes) (off size : Nat) (trusted : Bool) : Canonical (s.onWrite off size trusted f).bytes := by
  unfold State.onWrite
  split
  · exact h
  · dsimp only
    split
    · simpa using h
    · split
      · simpa using h
      · exact hf _ (by simpa using h)

section
variable (s : State)

theorem execFabricFlitArrive_keepsCanonical (n : Nat) (ue : Option Channel) : KeepsCanonical s (execFabricFlitArrive n ue s) := by
  unfold execFabricFlitArrive
  split
  · exact keepsCanonical_next id
  · split
    · exact keepsCanonical_next fun h => by simpa using h
    · split
      · split
        · exact keepsCanonical_next id
        · exact keepsCanonical_next fun h => State.kvArrive_canonical h ..
      · dsimp only
        split
        · exact keepsCanonical_next fun h => by simpa using h
        · exact keepsCanonical_next fun h => by simpa using h

theorem execAdd_keepsCanonical (c : Nat) : KeepsCanonical s (execAdd c s) :=
  keepsCanonical_guardUnit fun h => State.burnFire_canonical h (fun s x vals hs => by
    split
    · exact State.spillStore_canonical hs ..
    · exact hs) ..

theorem execStore_keepsCanonical (c : Nat) : KeepsCanonical s (execStore c s) :=
  keepsCanonical_guardUnit fun h => State.burnFire_canonical h (fun _ _ _ hs => State.spillStore_canonical hs ..) ..

theorem execAttn_keepsCanonical (c : Nat) : KeepsCanonical s (execAttn c s) := by
  refine keepsCanonical_guardUnit fun h => ?_
  split
  · exact h
  next x _ =>
    split
    · simpa using h
    · split
      · simpa using h
      · extract_lets p ex l m
        have written (region : Nat) : Canonical (s.attnWrite x region m).bytes := State.attnWrite_canonical h ..
        split
        · exact h
        · split
          · simpa using h
          · split
            · simpa using h
            · split
              · exact h
              · simpa using written _

theorem execStstore_keepsCanonical (c : Nat) : KeepsCanonical s (execStstore c s) := by
  refine keepsCanonical_guardUnit fun h => ?_
  split
  · exact h
  · split
    · simpa using h
    · exact h
    · extract_lets due s1 cl rest
      have stored : Canonical s1.bytes := State.foldl_canonical (fun _ _ hu => State.kvSend_canonical hu ..) _ h
      split
      · exact h
      · split
        · simpa using h
        · split
          · simpa using h
          · simpa using stored

theorem execQuery_keepsCanonical (b : Nat) : KeepsCanonical s (execQuery b s) :=
  command_keepsCanonical (fun src w _ h => queryCmd_canonical h src w) _ _ s

theorem execEventRead_keepsCanonical (b : Nat) : KeepsCanonical s (execEventRead b s) :=
  command_keepsCanonical (fun src w _ h => eventReadCmd_canonical h src w) _ _ s

theorem execStatusRead_keepsCanonical (b : Nat) : KeepsCanonical s (execStatusRead b s) :=
  command_keepsCanonical (fun src w _ h => statusReadCmd_canonical h src w) _ _ s

theorem execArrayReadback_keepsCanonical (b : Nat) : KeepsCanonical s (execArrayReadback b s) := by
  refine command_keepsCanonical (fun src w s h => ?_) _ _ s
  dsimp only
  split
  · simpa using h
  · split
    · exact h
    · rw [State.reply_bytes]
      exact State.writeMem_canonical h ..

theorem execCommit_keepsCanonical (p handle newL epoch : Nat) (toks : List Nat) : KeepsCanonical s (execCommit p handle newL epoch toks s) := by
  refine keepsCanonical_guardUnit fun h => ?_
  split
  · exact h
  · extract_lets i x s1 s2 e prompt s3
    have worn : Canonical s1.bytes := by unfold s1; split <;> simpa using h
    have committed : Canonical s2.bytes := State.applyCommit_canonical worn ..
    have moved : Canonical s3.bytes := by unfold s3; split <;> simpa using committed
    split
    · exact h
    · split
      · split <;> simpa using h
      · split
        · simpa using h
        · simpa using moved

theorem execVerdict_keepsCanonical (p epoch : Nat) (v : VerdictMsg) : KeepsCanonical s (execVerdict p epoch v s) := by
  refine keepsCanonical_guardUnit fun h => ?_
  split
  · simpa using h
  · split
    · exact h
    · split
      · exact h
      · split
        · exact State.discardStep_canonical h ..
        · split
          · exact State.discardStep_canonical h ..
          · split
            · refine State.discardStep_canonical ?_ ..
              split <;> simpa using h
            · exact State.deliverStep_canonical h ..

theorem execResumeRead_keepsCanonical (p handle : Nat) (blocks : List (Option BagRead)) :
    KeepsCanonical s (execResumeRead p handle blocks s) := by
  refine keepsCanonical_guardUnit fun h => ?_
  split
  · exact h
  · dsimp only
    split
    · exact h
    · split
      · simpa using h
      · simpa using State.restoreCells_canonical h _ _

theorem execCheck_keepsCanonical (p : Nat) (reports : List CheckReport) (commits : List (Nat × Nat × List Nat)) (ended : List Nat) :
    KeepsCanonical s (execCheck p reports commits ended s) := by
  refine keepsCanonical_guardUnit fun h => ?_
  extract_lets g lost s1 girth held s2 girth' s3
  have voided : Canonical s1.bytes := by unfold s1; split <;> simpa using h
  have committed : Canonical s2.bytes := by
    simpa [s2] using State.foldl_canonical (fun _ c hu => State.checkCommit_canonical hu p c) commits h
  have reported : Canonical s3.bytes := by
    unfold s3
    split
    · simpa using committed
    · exact h
  split
  · exact h
  · split
    · split
      · exact h
      · simpa using voided
    · simpa using reported

theorem execCqWrite_keepsCanonical (b : Nat) : KeepsCanonical s (execCqWrite b s) := by
  refine keepsCanonical_guardUnit fun h => ?_
  dsimp only
  split
  · exact h
  · split
    · exact h
    · rw [State.cqWritten_bytes]
      exact State.writeMem_canonical (by simpa using h) ..

theorem execTokenRecordPost_keepsCanonical (p : Nat) : KeepsCanonical s (execTokenRecordPost p s) := by
  refine keepsCanonical_guardUnit fun h => ?_
  extract_lets k
  split
  · exact h
  · extract_lets x late
    split
    · exact h
    · split
      · simpa using h
      · exact State.postRecord_canonical h ..

theorem execStagingWindowAccess_keepsCanonical (line : Nat) (write : Option (List Byte)) :
    KeepsCanonical s (execStagingWindowAccess line write s) := by
  refine keepsCanonical_guardUnit fun h => ?_
  split
  · exact h
  · extract_lets s1
    have woken : Canonical s1.bytes := by simpa [s1] using h
    split
    · generalize (List.range 64).map _ = data
      obtain ⟨-, -, hstaging⟩ := id woken
      exact woken.setStaging (Memory.wf_writeAll _ _ _ hstaging) rfl
    · simpa using woken

theorem State.mbxCommand_canonical {s : State} (h : Canonical s.bytes) (m : Nat) (w : List Nat) : Canonical (s.mbxCommand m w).bytes := by
  unfold State.mbxCommand
  dsimp only
  split
  · simpa using h
  · split
    · simpa using h
    · split
      · simpa using h
      · split
        · simpa using h
        · exact queryCmd_canonical h ..
      · simpa using h
      · simpa using h
      · exact eventReadCmd_canonical h ..
      · exact statusReadCmd_canonical h ..
      · simpa using h

theorem execMbxCommandTake_keepsCanonical (m : Nat) (hm : HostMem) : KeepsCanonical s (execMbxCommandTake m hm s) := by
  refine keepsCanonical_guardUnit fun h => ?_
  split
  · exact h
  · split
    · exact h
    · exact State.mbxCommand_canonical (by simpa using h) ..

/-! ### Registers -/

theorem execDormantRequest_keepsCanonical (trusted : Bool) : KeepsCanonical s (execDormantRequest trusted s) :=
  keepsCanonical_next fun h => State.onWrite_canonical (fun _ hs => State.askDormant_canonical hs) h ..

theorem State.writeReg_canonical {s : State} (h : Canonical s.bytes) (off v : Nat) : Canonical (s.writeReg off v).bytes := by
  unfold State.writeReg
  dsimp only
  split
  case h_7 => exact State.writePwr_canonical h ..
  all_goals
    repeat' split
    all_goals simpa using h

theorem execRegisterWrite_keepsCanonical (offset size value : Nat) (trusted : Bool) :
    KeepsCanonical s (execRegisterWrite offset size value trusted s) := by
  unfold execRegisterWrite
  split
  · exact fun _ _ ht => nomatch ht
  · exact keepsCanonical_next fun h => State.onWrite_canonical (fun _ hs => State.writeReg_canonical hs ..) h ..

/-! ### Power, resets and the scrub -/

theorem execPowerOnReset_keepsCanonical (found : BootFound) : KeepsCanonical s (execPowerOnReset found s) := by
  refine keepsCanonical_next fun _ => ?_
  extract_lets bare s1 s2
  have booted : Canonical s2.bytes := by simpa [s2, s1, bare] using canonical_nil
  split
  · exact booted
  · simpa using booted

theorem execWarmReset_keepsCanonical (perst : Bool) (found : BootFound) : KeepsCanonical s (execWarmReset perst found s) := by
  refine keepsCanonical_next fun h => ?_
  split
  · exact h
  · simpa using canonical_nil

theorem execRailBrownout_keepsCanonical : KeepsCanonical s (execRailBrownout s) := by
  refine keepsCanonical_next fun h => ?_
  split
  · exact h
  · exact canonical_nil

theorem execPowerRemoved_keepsCanonical : KeepsCanonical s (execPowerRemoved s) := keepsCanonical_next fun _ => canonical_nil

theorem execDormantWake_keepsCanonical : KeepsCanonical s (execDormantWake s) := by
  refine keepsCanonical_next fun h => ?_
  split
  · exact h
  · exact canonical_nil

theorem execChipReset_keepsCanonical (cause loc : Nat) (found : BootFound) : KeepsCanonical s (execChipReset cause loc found s) := by
  refine keepsCanonical_next fun h => ?_
  split
  · split
    · exact h
    · exact State.chipReset_canonical h ..
  · exact h

theorem execWatchdog_keepsCanonical (found : BootFound) : KeepsCanonical s (execWatchdog found s) := by
  refine keepsCanonical_next fun h => ?_
  split
  · exact h
  · exact State.chipReset_canonical h ..

theorem execTclkRecovered_keepsCanonical (found : BootFound) : KeepsCanonical s (execTclkRecovered found s) := by
  refine keepsCanonical_next fun h => ?_
  extract_lets pwr s1
  have good : Canonical s1.bytes := by simpa [s1] using h
  split
  · exact h
  · split
    · exact good
    · split
      · simpa using good
      · exact State.chipReset_canonical good ..

theorem execScrubComplete_keepsCanonical : KeepsCanonical s (execScrubComplete s) := by
  refine keepsCanonical_next fun h => ?_
  split
  · exact h
  · simpa using State.loseStacks_canonical h

theorem State.filled_canonical {s : State} (h : Canonical s.bytes) : Canonical s.filled.bytes := by
  obtain ⟨-, -, hstaging⟩ := h
  exact ⟨rfl, rfl, hstaging⟩

theorem execFillComplete_keepsCanonical : KeepsCanonical s (execFillComplete s) := by
  refine keepsCanonical_next fun h => ?_
  have zeroed := State.filled_canonical h
  dsimp only
  split
  · exact h
  · split
    · simpa using zeroed
    · rw [State.bytes_update]
      split <;> simpa using zeroed

end

/-! ### Every step (O58, O1) -/

theorem exec_keepsCanonical (i : Instr) (s : State) : KeepsCanonical s (exec i s) := by
  cases i with
  | fabricFlitArrive n ue => exact execFabricFlitArrive_keepsCanonical s n ue
  | add c => exact execAdd_keepsCanonical s c
  | store c => exact execStore_keepsCanonical s c
  | attn c => exact execAttn_keepsCanonical s c
  | ststore c => exact execStstore_keepsCanonical s c
  | query b => exact execQuery_keepsCanonical s b
  | eventRead b => exact execEventRead_keepsCanonical s b
  | statusRead b => exact execStatusRead_keepsCanonical s b
  | arrayReadback b => exact execArrayReadback_keepsCanonical s b
  | commit p handle newL epoch toks => exact execCommit_keepsCanonical s p handle newL epoch toks
  | verdict p epoch v => exact execVerdict_keepsCanonical s p epoch v
  | resumeRead p handle blocks => exact execResumeRead_keepsCanonical s p handle blocks
  | check p reports commits ended => exact execCheck_keepsCanonical s p reports commits ended
  | cqWrite b => exact execCqWrite_keepsCanonical s b
  | tokenRecordPost p => exact execTokenRecordPost_keepsCanonical s p
  | stagingWindowAccess line write => exact execStagingWindowAccess_keepsCanonical s line write
  | mbxCommandTake m h => exact execMbxCommandTake_keepsCanonical s m h
  | dormantRequest trusted => exact execDormantRequest_keepsCanonical s trusted
  | registerWrite offset size value trusted => exact execRegisterWrite_keepsCanonical s offset size value trusted
  | powerOnReset found => exact execPowerOnReset_keepsCanonical s found
  | warmReset perst found => exact execWarmReset_keepsCanonical s perst found
  | railBrownout => exact execRailBrownout_keepsCanonical s
  | powerRemoved => exact execPowerRemoved_keepsCanonical s
  | dormantWake => exact execDormantWake_keepsCanonical s
  | chipReset cause loc found => exact execChipReset_keepsCanonical s cause loc found
  | watchdog found => exact execWatchdog_keepsCanonical s found
  | tclkRecovered found => exact execTclkRecovered_keepsCanonical s found
  | scrubComplete => exact execScrubComplete_keepsCanonical s
  | fillComplete => exact execFillComplete_keepsCanonical s
  | _ => exact LeavesBytes.keepsCanonical (by simp [exec])

/-- Settles O58: a tick and every command keep the byte memories canonical. -/
theorem memoryStaysCanonical : Obligations.MemoryStaysCanonical := by
  unfold Obligations.MemoryStaysCanonical
  intro s t h ht
  rw [State.memOk_iff] at h ⊢
  unfold step at ht
  split at ht
  · cases ht
    rwa [State.passTick_bytes]
  · exact exec_keepsCanonical _ _ (by simpa using h) t ht

/-- Settles O1: the queue is not empty. -/
theorem stepTakesTheFrontCommand : Obligations.StepTakesTheFrontCommand := fun _ _ _ => rfl

end Sys2Proof.Machine
end

section
/-!
PROOFS. The clocks, the brake, REST and gating (O47): what the brake's own steps read and write of the power record, one lemma per command.
-/

namespace Sys2Proof.Machine

open Sys2Proof

/-! ### The power record after the operations that the brake uses -/

/-- A bit of PWR_EV is all of the power record that an event sets. -/
@[simp] theorem State.pwrEv_pwr (s : State) (i : Nat) : (s.pwrEv i).pwr = { s.pwr with ev := s.pwr.ev ||| 2 ^ i } :=
  State.noteBit_pwr ..

@[simp] theorem State.request_pwr (s : State) :
    s.request.pwr = { s.pwr with want := if s.pwr.pllLock then s.wantClk else s.pwr.want } := by
  unfold State.request
  split <;> rfl

/-- Marking the beats that are braked BEYOND writes the ledger alone. -/
@[simp] theorem State.markBraked_pwr (s : State) : s.markBraked.pwr = s.pwr := by
  unfold State.markBraked
  split
  · refine State.foldl_keeps State.pwr _ (fun v h => ?_) _ _
    split <;> rfl
  · rfl

@[simp] theorem State.settle_pwr (s : State) (t : Nat) : (s.settle t).pwr = s.pwr :=
  SettleBlind.settle (g := State.pwr)
    ⟨fun _ _ _ _ => rfl, fun _ _ _ _ => rfl, fun _ _ _ => rfl, State.rein_pwr, fun _ _ => rfl, fun _ _ => rfl⟩ s t

@[simp] theorem State.settle_gated (s : State) (t k : Nat) : ((s.settle t).tile k).gated = (s.tile k).gated :=
  (congrArg Tile.gated (s.settle_tile_work t k) :)

/-! ### The brake -/

/-- What an entry into BRAKED or TOGGLE leaves in the power record: the filter's state, one more entry counted, and the start of the episode
where the brake was off. -/
theorem State.brakeEnter_pwr (s : State) (f : Filter) :
    (s.brakeEnter f).pwr.filter = f ∧ (s.brakeEnter f).pwr.brkCnt = satAdd 32 s.pwr.brkCnt 1 ∧
      (s.brakeEnter f).pwr.brakeOn = if s.braking then s.pwr.brakeOn else some s.tick := by
  unfold State.brakeEnter
  by_cases h : s.braking <;> simp [h]

theorem execBrakeOn_of_clear {s : State} (runs : s.filterRuns = true) (clear : s.pwr.filter = .clear) :
    CompletesWith (execBrakeOn s) (fun u =>
      u.pwr.filter = .braked ∧ u.pwr.brkCnt = satAdd 32 s.pwr.brkCnt 1 ∧ u.pwr.brakeOn = some s.tick) := by
  have off : s.braking = false := by simp [State.braking, clear]
  obtain ⟨filter, count, start⟩ := s.brakeEnter_pwr .braked
  refine ⟨s.brakeEnter .braked, by simp [execBrakeOn, runs, clear], filter, count, ?_⟩
  simpa [off] using start

theorem execBrakeToggle_of_running {s : State} (runs : s.filterRuns = true) (other : s.pwr.filter ≠ .toggle) :
    CompletesWith (execBrakeToggle s) (fun u => u.pwr.filter = .toggle ∧ u.pwr.brkCnt = satAdd 32 s.pwr.brkCnt 1) := by
  obtain ⟨filter, count, -⟩ := s.brakeEnter_pwr .toggle
  exact ⟨s.brakeEnter .toggle, by simp [execBrakeToggle, runs, other], filter, count⟩

theorem execBrakeOff_of_braking {s : State} (runs : s.filterRuns = true) (on : s.braking = true) :
    CompletesWith (execBrakeOff s) (fun u => u.pwr.filter = .clear ∧ u.pwr.brakeOn = none ∧ u.pwr.brkCnt = s.pwr.brkCnt) := by
  simp [CompletesWith, execBrakeOff, runs, on]

theorem execBrakeBeyond_of_above {s : State} (within : s.pwr.beyond = false) (above : 25 * s.pwr.allowUs < s.brakedTicks) :
    CompletesWith (execBrakeBeyond s) (fun u => u.pwr.beyond = true) := by
  simp [CompletesWith, execBrakeBeyond, within, Nat.not_le.2 above]

theorem execBrakeHeld_of_long {s : State} {t : Nat} (on : s.pwr.brakeOn = some t) (fresh : s.pwr.heldRaised = false)
    (long : 2500000 ≤ s.tick - t) :
    execBrakeHeld s = .next (({ s with pwr := { s.pwr with heldRaised := true } }).raise 0x0403 1) := by
  simp [execBrakeHeld, on, fresh, Nat.not_lt.2 long]

/-! ### Reference clocks -/

theorem execRefclkLost_cxl {s : State} (run : s.pwr.st = .run) (good : s.pwr.cxlRef = true) :
    CompletesWith (execRefclkLost .cxl s) (fun u => u.pwr.cxlRef = false ∧ u.host.linkW = 0 ∧ u.host.linkGts = 0) := by
  simp [CompletesWith, execRefclkLost, run, good]

theorem execRefclkLost_tclk {s : State} (run : s.pwr.st = .run) (good : s.pwr.tclkOk = true) :
    CompletesWith (execRefclkLost .tclk s) (fun u => u.pwr.tclkOk = false ∧ u.pwr.aclk = 0 ∧ u.pwr.chipHold = true) := by
  simp [CompletesWith, execRefclkLost, run, good]

/-! ### REST -/

/-- REST_ENTRY of a quiet READY device writes its power record and its ports alone. -/
theorem execRestEntry_of_quiet {s : State} (awake : s.awake = true) (ready : s.isReady = true) (en : s.pwr.restEn = true)
    (quiet : s.quiet = true) (delay : max 1 s.pwr.restDelay * 25000 ≤ s.tick - s.pwr.idleSince) :
    CompletesWith (execRestEntry s) (fun u => u.pwr.st = .rest ∧ u.pwr.aclk = 0 ∧ u.pwr.pllLock = false ∧ u.pwr.restAt = s.tick ∧
      u.ledger = s.ledger ∧ u.kv = s.kv ∧ u.tiles = s.tiles ∧ u.arrays = s.arrays) := by
  have go : ¬ (¬ s.awake ∨ ¬ s.isReady ∨ ¬ s.pwr.restEn ∨ ¬ s.quiet ∨ s.tick - s.pwr.idleSince < max 1 s.pwr.restDelay * 25000) := by
    simp [awake, ready, en, quiet, Nat.not_lt.2 delay]
  rw [execRestEntry, if_neg go]
  exact ⟨_, rfl, rfl, rfl, rfl, rfl, rfl, rfl, rfl, rfl⟩

theorem State.leaveRest_of_rest {s : State} (rest : s.pwr.st = .rest) :
    s.leaveRest.pwr.st = (if s.allGated then .idle else .run) ∧ s.leaveRest.pwr.aclk = s.wantClk ∧ s.leaveRest.pwr.pllLock = true ∧
      s.leaveRest.ledger = s.ledger ∧ s.leaveRest.kv = s.kv := by
  rw [State.leaveRest, if_neg (not_not_intro rest)]
  exact ⟨rfl, rfl, rfl, rfl, rfl⟩

/-! ### Gating -/

section
variable {s : State} {t : Nat} {ts : TableSet} (inRange : t < 1024) (table : (s.part (s.partOfTile t)).table = some ts)
  (awake : s.awake = true)
include inRange table awake

/-- An idle tile of a GATE partition gates, and no other tile changes. -/
theorem execTileGate_of_idle (gate : ts.gate = true) (idle : s.tileIdle t = true) :
    CompletesWith (execTileGate t s) (fun u => u.tile t = { s.tile t with gated := true } ∧ ∀ k, k ≠ t → u.tile k = s.tile k) := by
  have go : ¬ (¬ ts.gate ∨ ¬ s.awake ∨ ¬ s.tileIdle t) := by simp [gate, awake, idle]
  simp only [execTileGate, onTile_in inRange, table, if_neg go]
  refine ⟨_, rfl, ?_⟩
  split
  · exact ⟨State.setTile_same .., fun k hk => State.setTile_other _ _ _ _ hk⟩
  · exact ⟨State.setTile_same .., fun k hk => State.setTile_other _ _ _ _ hk⟩

/-- A housekeeping chunk of its cluster wakes a gated tile. -/
theorem execTileWake_of_chunk (gated : (s.tile t).gated = true) (chunk : (s.cluster (t / 64)).chunk = true) (hk : s.hk.stop = false) :
    CompletesWith (execTileWake t s) (fun u => (u.tile t).gated = false ∧ u.pwr.st = .run) := by
  simp only [execTileWake, onTile_in inRange, table, gated, chunk, awake, hk, Bool.or_true, Bool.true_or, not_true_eq_false, or_self,
    Bool.false_eq_true, if_false]
  refine ⟨_, rfl, ?_, by simp⟩
  rw [State.settle_gated]
  exact congrArg Tile.gated (State.setTile_same ..)

end

/-- Settles O47: each clause is the lemma of its command above; BEYOND_CLEAR and ACLK_CHANGE are their one guarded update. -/
theorem powerFollowsThePins : Obligations.PowerFollowsThePins := by
  intro s
  refine ⟨execBrakeOn_of_clear, execBrakeToggle_of_running, execBrakeOff_of_braking, execBrakeBeyond_of_above, ?beyondClear,
    fun _ => execBrakeHeld_of_long, ?aclkChange, execRefclkLost_cxl, execRefclkLost_tclk, rfl, execRestEntry_of_quiet,
    fun rest => ⟨_, rfl, State.leaveRest_of_rest rest⟩,
    fun _ _ inRange table awake => ⟨execTileGate_of_idle inRange table awake, execTileWake_of_chunk inRange table awake⟩⟩
  case beyondClear =>
    intro beyond within
    exact congrArg Host.Outcome.next (if_pos ⟨beyond, within⟩)
  case aclkChange =>
    intro lock noTrip
    exact congrArg Host.Outcome.next (if_pos ⟨lock, rfl, by simp [noTrip]⟩)

end Sys2Proof.Machine
end

section
/-!
PROOFS. Tenants (O52): no step of a tenant's end touches the security record until the end itself writes it; then the commands and events that
begin and end a tenant, one lemma each.
-/

namespace Sys2Proof.Machine

open Sys2Proof

/-! ### The end of a tenant's work leaves the security record -/

theorem State.sec_of_plant {s u : State} (h : u.plant = s.plant) : u.sec = s.sec := (congrArg State.sec h :)

@[simp] theorem State.foldl_sec {β : Type} {f : State → β → State} (h : ∀ s x, (f s x).sec = s.sec) (l : List β) (s : State) :
    (l.foldl f s).sec = s.sec := State.foldl_keeps State.sec f h l s

@[simp] theorem State.sec_ite (c : Prop) [Decidable c] (s u : State) : (if c then s else u).sec = if c then s.sec else u.sec :=
  apply_ite State.sec c s u

/-- The security record is among what the work after a tile's event leaves. -/
theorem settleBlind_sec : SettleBlind State.sec :=
  ⟨fun _ _ _ _ => rfl, fun _ _ _ _ => rfl, fun _ _ _ => rfl, State.rein_sec, fun _ _ => rfl, fun _ _ => rfl⟩

@[simp] theorem State.sendMsg_sec (s : State) (port girth dbuf : Nat) (hdr : VecHdr) (body : Payload) :
    (s.sendMsg port girth dbuf hdr body).sec = s.sec := by simp [State.sendMsg]
@[simp] theorem State.mbxReject_sec (s : State) (m : Nat) : (s.mbxReject m).sec = s.sec := by simp [State.mbxReject]
@[simp] theorem State.errPush_sec (s : State) (sev : Nat) : (s.errPush sev).sec = s.sec := State.sec_of_plant (s.errPush_plant ..)
@[simp] theorem State.dueReset_sec (s : State) (cause loc : Nat) : (s.dueReset cause loc).sec = s.sec :=
  State.sec_of_plant (s.dueReset_plant ..)
@[simp] theorem State.partFault_sec (s : State) (p cause lkind loc : Nat) : (s.partFault p cause lkind loc).sec = s.sec :=
  State.sec_of_plant (s.partFault_plant ..)
@[simp] theorem State.freeSpans_sec (s : State) (h : Nat) : (s.freeSpans h).sec = s.sec := (rfl)
@[simp] theorem State.freePool_sec (s : State) (h : Nat) : (s.freePool h).sec = s.sec := (rfl)
@[simp] theorem State.leaveRow_sec (s : State) (p h : Nat) : (s.leaveRow p h).sec = s.sec := (rfl)
@[simp] theorem State.forget_sec (s : State) (p h : Nat) : (s.forget p h).sec = s.sec := (rfl)
@[simp] theorem State.stopWheel_sec (s : State) (p : Nat) : (s.stopWheel p).sec = s.sec := by
  unfold State.stopWheel
  dsimp only
  split <;> simp
@[simp] theorem State.releaseHold_sec (s : State) (p : Nat) : (s.releaseHold p).sec = s.sec := by
  unfold State.releaseHold
  split <;> simp
@[simp] theorem State.wheelRest_sec (s : State) (p : Nat) : (s.wheelRest p).sec = s.sec := by simp [State.wheelRest]
@[simp] theorem State.endNotice_sec (s : State) (h : Nat) (e : Entry) (status : Nat) : (s.endNotice h e status).sec = s.sec := by
  simp [State.endNotice]
@[simp] theorem State.endRequest_sec (s : State) (h : Nat) (failed : Bool) (status : Nat) : (s.endRequest h failed status).sec = s.sec := by
  unfold State.endRequest
  split <;> simp
  split <;> simp
@[simp] theorem State.memberFree_sec (s : State) (h : Nat) : (s.memberFree h).sec = s.sec := by
  unfold State.memberFree
  split <;> simp
@[simp] theorem State.reportAbort_sec (s : State) (p h : Nat) : (s.reportAbort p h).sec = s.sec := by simp [State.reportAbort]
@[simp] theorem State.voidPromise_sec (s : State) (h cause : Nat) : (s.voidPromise h cause).sec = s.sec := by
  unfold State.voidPromise
  split <;> simp
@[simp] theorem State.endAll_sec (s : State) (p void : Nat) (failed : Bool) (status : Nat) : (s.endAll p void failed status).sec = s.sec := by
  simp [State.endAll]
@[simp] theorem State.meshPrune_sec (s : State) : s.meshPrune.sec = s.sec := (rfl)
@[simp] theorem State.launch_sec (s : State) (p sender group : Nat) (chan : Channel) (src : Option MeshSrc) (hdr : VecHdr) (body : Payload)
    (ms : List Member) : (s.launch p sender group chan src hdr body ms).sec = s.sec := settleBlind_sec.launch ..
@[simp] theorem State.fabNobuf_sec (s : State) (cp : Copy) : (s.fabNobuf cp).sec = s.sec := by simp [State.fabNobuf]
@[simp] theorem State.edgeGrants_sec (s : State) (p : Nat) : (s.edgeGrants p).sec = s.sec := settleBlind_sec.edgeGrants ..
@[simp] theorem State.closeClaim_sec (s : State) (p h : Nat) : (s.closeClaim p h).sec = s.sec := (rfl)
@[simp] theorem State.claimFails_sec (s : State) (p : Nat) (c : Pending) (status : Nat) : (s.claimFails p c status).sec = s.sec := by
  unfold State.claimFails
  split <;> simp
@[simp] theorem State.failRound_sec (s : State) (p gpos : Nat) : (s.failRound p gpos).sec = s.sec := by
  unfold State.failRound
  dsimp only
  split <;> simp
@[simp] theorem State.endClaims_sec (s : State) (p status : Nat) : (s.endClaims p status).sec = s.sec := by simp [State.endClaims]
@[simp] theorem State.stopGirth_sec (s : State) (p void : Nat) (failed : Bool) (status : Nat) :
    (s.stopGirth p void failed status).sec = s.sec := by simp [State.stopGirth]
@[simp] theorem State.stopMember_sec (s : State) (p : Nat) : (s.stopMember p).sec = s.sec := by simp [State.stopMember]
@[simp] theorem State.replyStops_sec (s : State) (p : Nat) : (s.replyStops p).sec = s.sec := by simp [State.replyStops]
@[simp] theorem State.beatMessage_sec (s : State) (p n : Nat) (e : Ingress) (hdr : VecHdr) (port ledger : Nat) :
    (s.beatMessage p n e hdr port ledger).sec = s.sec := by
  unfold State.beatMessage
  dsimp only
  split <;> simp
@[simp] theorem State.ingressDeliver_sec (s : State) (p i port group dbuf : Nat) (hdr : VecHdr) (body : Payload) :
    (s.ingressDeliver p i port group dbuf hdr body).sec = s.sec := by
  unfold State.ingressDeliver
  dsimp only
  repeat' split
  all_goals simp
@[simp] theorem State.ingressTake_sec (s : State) (p i port girth : Nat) (ts : TableSet) (e : Ingress) (hdr : VecHdr) (body : Payload) :
    (s.ingressTake p i port girth ts e hdr body).sec = s.sec := by simp [State.ingressTake]
@[simp] theorem State.releaseIngress_sec (s : State) (p : Nat) : (s.releaseIngress p).sec = s.sec := by
  unfold State.releaseIngress
  dsimp only
  split
  · rfl
  · split
    · split
      · simp
      · refine (State.foldl_sec (fun s x => ?_) _ _).trans (State.setPart_sec ..)
        split <;> simp
    · simp
@[simp] theorem State.releaseSwap_sec (s : State) (p : Nat) : (s.releaseSwap p).sec = s.sec := by
  unfold State.releaseSwap
  dsimp only
  split <;> simp
theorem State.writeRecord_sec {s u : State} {flashOk : Bool} (h : s.writeRecord flashOk = some u) : u.sec = s.sec := by
  obtain ⟨-, h⟩ := Option.ite_none_left_eq_some.1 h
  cases h
  simp
@[simp] theorem State.freeShards_sec (s : State) (ms : List MatrixEnt) : (s.freeShards ms).sec = s.sec := (rfl)
theorem State.closeSwap_sec {s u : State} {p : Nat} {sw : Swap} {flashOk : Bool} (h : s.closeSwap p sw flashOk = some u) : u.sec = s.sec := by
  obtain ⟨v, hv, rfl⟩ := Option.map_eq_some_iff.1 h
  simp [State.writeRecord_sec hv]
@[simp] theorem State.endOn_sec (s : State) (p : Nat) (failed : Bool) (status : Nat) : (s.endOn p failed status).sec = s.sec := by
  have closed (u : State) (sw : Swap) : ((u.closeSwap p sw true).getD u).sec = u.sec := by
    cases hu : u.closeSwap p sw true with
    | none => rfl
    | some v => exact State.closeSwap_sec hu
  unfold State.endOn
  dsimp only
  split <;> simp [closed]

/-! ### The end of a tenant -/

@[simp] theorem State.leaveRest_sec (s : State) : s.leaveRest.sec = s.sec := by
  unfold State.leaveRest
  split <;> rfl

/-- What the end of a tenant leaves of the security record: everything but the tenant, the keys and the scrub's own fields. -/
theorem State.endTenant_sec (s : State) (cause : Nat) (failed : Bool) (status : Nat) (cmd : Option (CmdSrc × List Nat)) :
    (s.endTenant cause failed status cmd).sec = { s.sec with
      scrubHad := s.sec.tenant.isSome || s.sec.scrubHad, scrubWhy := cause, scrub := .scrubbing
      scrubSrc := cmd.map (·.1), scrubPkt := (cmd.map (·.2)).getD []
      tenant := none, viaTrust := false, tenKeys := none, devKeys := none } := by
  have kept : ((List.range 16).foldl (fun s p => s.endOn p failed status) s.leaveRest).sec = s.sec := by simp
  simp only [State.endTenant, kept]

theorem State.endTenant_girths (s : State) (cause : Nat) (failed : Bool) (status : Nat) (cmd : Option (CmdSrc × List Nat)) :
    (s.endTenant cause failed status cmd).girths = [] := rfl

/-- What holds of a command's effect and does not read what a stall writes holds of the command in its turn. -/
theorem command_inTurn_completes {s : State} {b op : Nat} {src : CmdSrc} {w : List Nat} (h : s.InTurn b op src w) (f : CmdEffect)
    {P : State → Prop} (effect : P (f src w s)) (stall : P ((f src w s).stallCmd src w)) : CompletesWith (command b op f s) P := by
  refine ⟨_, command_inTurn h f, ?_⟩
  split
  · exact effect
  · exact stall

/-- TENANT_BEGIN with no tenant, from a path that may begin one and with a healthy generator. -/
theorem execTenantBegin_admits {s : State} {b : Nat} {src : CmdSrc} {w : List Nat} (turn : s.InTurn b 0x30 src w) (free : s.sec.tenant = none)
    (path : s.host.conf = false ∨ s.trustedPath src = true) (trng : s.sec.trngOk = true) :
    CompletesWith (execTenantBegin b s) (fun t => t.sec.tenant = some (dword w 2) ∧ t.sec.viaTrust = s.trustedPath src ∧
      t.sec.tenKeys = some (s.sec.keyGen + 1) ∧ t.sec.wrapCnt = 0) := by
  have begun : (tenantBeginCmd src w s).sec = { s.sec with
      tenant := some (dword w 2), viaTrust := s.trustedPath src, tenKeys := some (s.sec.keyGen + 1), keyGen := s.sec.keyGen + 1, wrapCnt := 0 } := by
    rcases path with plain | trusted
    · simp [tenantBeginCmd, free, trng, plain]
    · simp [tenantBeginCmd, free, trng, trusted]
  apply command_inTurn_completes turn <;> simp [begun]

/-- TENANT_END of the active tenant's ID, from a ring or a mailbox that may end it. -/
theorem execTenantEnd_ends {s : State} {b : Nat} {src : CmdSrc} {w : List Nat} (turn : s.InTurn b 0x31 src w)
    (active : s.sec.tenant = some (dword w 2)) (path : ∀ m, src = .mbx m → m < 2 ∨ s.sec.viaTrust = false) :
    CompletesWith (execTenantEnd b s) (fun t => t.sec.tenant = none ∧ t.sec.tenKeys = none ∧ t.sec.devKeys = none ∧ t.girths = [] ∧
      t.sec.scrub = .scrubbing ∧ t.sec.scrubSrc = some src ∧ t.sec.scrubPkt = w) := by
  have ends : tenantEndCmd src w s = (s.startCmd src w).endTenant 0 false 0x09 (some (src, w)) := by
    cases src with
    | ring k => simp [tenantEndCmd, active]
    | mbx m =>
      rcases path m rfl with secure | plain
      · simp [tenantEndCmd, active, secure]
      · simp [tenantEndCmd, active, plain]
  apply command_inTurn_completes turn <;> simp [ends, State.endTenant_sec, State.endTenant_girths]

/-! ### The scrub and the fill -/

theorem execScrubComplete_of_scrubbing {s : State} (awake : s.awake = true) (scrub : s.sec.scrub = .scrubbing) :
    CompletesWith (execScrubComplete s) (fun t =>
      t.sec.scrub = .filling ∧ t.ext = [] ∧ t.staging = [] ∧ t.shards = [] ∧ t.stackCopy = [] ∧ t.sums = []) := by
  rw [execScrubComplete, if_neg (by simp [awake, scrub])]
  exact ⟨_, rfl, rfl, rfl, rfl, rfl, rfl, rfl⟩

/-- What the scrub's end writes: the security record, and what a reply and an event write. -/
theorem State.scrubOver_keeps {β : Type} (g : State → β) (sec : ∀ (s : State) x, g { s with sec := x } = g s)
    (reply : ∀ s src w st res, g (State.reply s src w st res) = g s) (raise : ∀ s why, g (State.raise s 0x0305 0 none 0 0 why) = g s) (s : State) :
    g s.scrubOver = g s := by
  unfold State.scrubOver State.newDevKeys
  refine (sec _ _).trans ?_
  split <;> split <;> simp only [sec, reply, raise]

theorem State.scrubOver_sec (s : State) :
    s.scrubOver.sec.scrub = .rebuilding ∧ s.scrubOver.sec.devKeys = some (s.sec.keyGen + 1) := by
  refine ⟨rfl, ?_⟩
  unfold State.scrubOver State.newDevKeys
  dsimp only
  split <;> split <;> simp

/-- The fill leaves ledger, tiles, spill and KV zero and the arrays as they were; new device keys are made and the rebuild starts. -/
theorem execFillComplete_of_filling {s : State} (awake : s.awake = true) (scrub : s.sec.scrub = .filling) (trng : s.sec.trngOk = true) :
    CompletesWith (execFillComplete s) (fun t => t.sec.scrub = .rebuilding ∧ t.ledger = [] ∧ t.tiles = [] ∧ t.spill = [] ∧ t.kv = [] ∧
      t.fabric = [] ∧ t.kvWr = [] ∧ t.sec.devKeys = some (s.sec.keyGen + 1) ∧ t.arrays = s.arrays) := by
  have trng' : s.filled.sec.trngOk = true := trng
  rw [execFillComplete, if_neg (by simp [awake, scrub])]
  dsimp only
  rw [if_pos trng']
  obtain ⟨rebuilding, keys⟩ := s.filled.scrubOver_sec
  have kept := s.filled.scrubOver_keeps (fun t => (t.ledger, t.tiles, t.spill, t.kv, t.fabric, t.kvWr, t.arrays))
    (fun _ _ => rfl) (by simp) (by simp)
  simp only [Prod.mk.injEq] at kept
  obtain ⟨ledger, tiles, spill, kv, fabric, kvWr, arrays⟩ := kept
  exact ⟨_, rfl, rebuilding, ledger, tiles, spill, kv, fabric, kvWr, keys, arrays⟩

/-! ### The TDI -/

/-- The trusted tenant's end leaves the TDI, and ends a tenant that the trusted path admitted. -/
theorem State.endTrusted_sec (s : State) (cause : Nat) (failed : Bool) (status : Nat) :
    (s.endTrusted cause failed status).sec.tdi = s.sec.tdi ∧ (s.sec.tenant ≠ none → s.sec.viaTrust = true →
      (s.endTrusted cause failed status).sec.tenant = none ∧ (s.endTrusted cause failed status).sec.scrub = .scrubbing ∧
        (s.endTrusted cause failed status).sec.scrubWhy = cause) := by
  unfold State.endTrusted
  split
  next => simp [State.endTenant_sec]
  next none =>
    exact ⟨rfl, fun tenant trusted => absurd ⟨Option.isSome_iff_ne_none.2 tenant, trusted⟩ none⟩

/-- STOP_INTERFACE unlocks the TDI; from RUN it ends the trusted tenant. -/
theorem execStopInterface_unlocks (s : State) :
    CompletesWith (execStopInterface s) (fun t => t.sec.tdi = .unlocked ∧
      (s.sec.tdi = .run → s.sec.tenant ≠ none → s.sec.viaTrust = true → t.sec.tenant = none ∧ t.sec.scrub = .scrubbing ∧ t.sec.scrubWhy = 1)) := by
  refine ⟨_, rfl, ?_⟩
  dsimp only
  split
  next =>
    obtain ⟨tdi, ends⟩ := State.endTrusted_sec { s with sec := { s.sec with tdi := .unlocked } } 1 false 0x09
    exact ⟨tdi, fun _ => ends⟩
  next other => exact ⟨rfl, fun run => absurd run other⟩

/-- An error takes a TDI in RUN or LOCKED to ERROR; from RUN it ends the trusted tenant. -/
theorem execTdispError_fails {s : State} (cause : Nat) (on : s.sec.tdi = .run ∨ s.sec.tdi = .locked) :
    CompletesWith (execTdispError cause s) (fun t => t.sec.tdi = .error ∧
      (s.sec.tdi = .run → s.sec.tenant ≠ none → s.sec.viaTrust = true → t.sec.tenant = none ∧ t.sec.scrub = .scrubbing ∧ t.sec.scrubWhy = 2)) := by
  have go : ¬ (s.sec.tdi ≠ .run ∧ s.sec.tdi ≠ .locked) := fun ⟨notRun, notLocked⟩ => on.elim notRun notLocked
  rw [execTdispError, if_neg go]
  refine ⟨_, rfl, ?_⟩
  dsimp only
  split
  next =>
    have ends := State.endTrusted_sec (({ s with sec := { s.sec with tdi := .error } }).raise 0x0306 2 none 0 0 cause) 2 true 0x0A
    rw [State.raise_sec] at ends
    exact ⟨ends.1, fun _ => ends.2⟩
  next other => exact ⟨by simp, fun run => absurd run other⟩

theorem execTdiRun_of_keyed {s : State} (boot : s.sec.bootOk = true) (session : s.sec.spdm.session = true)
    (io : s.sec.ideKeys.contains 0 = true) (mem : s.sec.ideKeys.contains 1 = true) (sound : s.sec.tdi ≠ .error) :
    execTdiRun s = .next { s with sec := { s.sec with tdi := .run } } := by
  refine congrArg Host.Outcome.next (if_neg ?_)
  simp only [boot, session, io, mem, sound, and_self, not_true_eq_false, or_self, not_false_eq_true]

/-- IDE_KM inside the session keys its stream. -/
theorem execIdeKm_keys {s : State} {n : Nat} (boot : s.sec.bootOk = true) (session : s.sec.spdm.session = true) (stream : n < 2) :
    CompletesWith (execIdeKm n s) (fun t => t.sec.ideKeys.contains n = true ∧ t.sec.tdi = s.sec.tdi) := by
  refine ⟨_, State.spdmAnswer_inOrder boot (by simp [session, stream]) _, ?_, rfl⟩
  simp only [State.doe, State.emit_sec]
  split
  next keyed => exact keyed
  next => simp

/-- Settles O52: each clause is the lemma of its command or event above. -/
theorem tenantsBeginAndEnd : Obligations.TenantsBeginAndEnd :=
  ⟨fun _ _ _ _ => execTenantBegin_admits, fun _ _ _ _ => execTenantEnd_ends,
    fun _ awake => ⟨execScrubComplete_of_scrubbing awake, execFillComplete_of_filling awake⟩,
    fun s cause => ⟨execStopInterface_unlocks s, execTdispError_fails cause, execTdiRun_of_keyed, fun _ => execIdeKm_keys⟩⟩

end Sys2Proof.Machine
end
